-- ==== Sys2Proof/Word.lean ====
section
/-! DEFINITION. The word types of the YN-9304 (R5, R17) and a lane vector. -/

namespace Sys2Proof

/-- R5: a word, 32 bits, also one instruction. -/
abbrev Word := BitVec 32

/-- R5: a double, 64 bits. -/
abbrev DWord := BitVec 64

/-- R5: a byte. -/
abbrev Byte := BitVec 8

/-- R145: a set of lanes, lane `l` at bit `l`. -/
abbrev LaneMask := BitVec 32

/-- R17: one value per lane of a group. -/
abbrev Lanes (α : Type) := Vector α 32

end Sys2Proof
end

