-- ==== Sys2Proof/Config.lean ====
section
/-! DEFINITION. What an implementation fixes and the free values: constants without a body, so no proof
can see their values. -/

namespace Sys2Proof

/-- The free value number `n` for key `k` (log 5): R46, R47, R51, R52, R55, R308, R378 let the device choose. -/
opaque Config.freePick (n k : Nat) : Nat

/-- R252: the home L2 slice of a host-physical line, a fixed function that the spec does not give (log 6). -/
opaque Config.homeSlice (line : Nat) : Nat

/-- R252, R254: the set of a line within its slice; the spec does not give it (log 6). -/
opaque Config.l2Set (line : Nat) : Nat

/-- R13, R252: the stack of a line of class 00, a fixed function that the spec does not give (log 6). -/
opaque Config.homeStack (line : Nat) : Nat

/-- R433: the ECC word of a sector's bytes and tag; the spec does not give its code (log 6). -/
opaque Config.sectorEcc (bytes : List Byte) : Nat

/-- R445: whether a monitor of a hall (0 to 3 a path delay, 4 on a bank group's SRAM margin) keeps its guard band at an operating point and a
voltage, after what it read; the spec does not give it (log 6). -/
opaque Config.keepsBand (monitor point volt : Nat) (reading : BitVec 16) : Bool

/-- R445: the maximum voltage, in mV; the spec does not give it (log 6). -/
opaque Config.maxVolt : Nat

/-- R316, R453: the number of this package among those that ropes join (log 6). -/
opaque Config.packageNumber : Nat

/-- R320: the device's choice among the Zstandard frames (RFC 8878) of a level and source bytes (log 9). -/
opaque Config.zstdFrame (level : Nat) (bytes : List Byte) : List Byte

/-- R398, R439: RSASSA-PSS with SHA-512 under the device identity key (log 9). -/
opaque Config.deviceSign (bytes : List Byte) : List Byte

/-- R439: firmware digests and version numbers of measurement blocks 1 to 3 (log 6). -/
opaque Config.firmwareBlock (index : Nat) : List Byte

end Sys2Proof
end

