-- ==== Sys2Proof/Syntax.lean ====
section
/-! DEFINITION. The operands and instructions of Tamser 3.2 (R58 to R95) and the part's events: one
constructor of `Instr` for each row of the opcode table. -/

namespace Sys2Proof

/-- R11: a vector register v0 to v127. -/
abbrev VReg := BitVec 7

/-- R64: a scalar register s0 to s47. -/
abbrev SReg := Fin 48

/-- R62: the specials, in the order of their codes from 0xB4. -/
inductive Special
  | zero | laneid | tlane | tindex | gid | teamid | hallid | bayid | ngroups | xmval | tsize | ones
deriving DecidableEq, Repr

/-- R61: an 8-bit source operand. -/
inductive Src
  | v (n : VReg)
  | s (n : SReg)
  | latch (n : BitVec 2)
  | special (x : Special)
  | const (i : BitVec 6)
deriving DecidableEq, Repr

/-- R64: a 7-bit scalar operand. -/
inductive SOp
  | s (n : SReg)
  | special (x : Special)
  | const (i : BitVec 6)
deriving DecidableEq, Repr

/-- R38: the scopes, g < h < p < y. -/
inductive Scope
  | g | h | p | y
deriving DecidableEq, Repr

/-- R34: the authorities, with the codes of R153. -/
inductive Authority
  | operator | owner | auditor
deriving DecidableEq, Repr

/-- R82: the integer conditions, codes 0x0 to 0x9. -/
inductive ICond
  | eq | ne | lt | le | gt | ge | ltn | len | gtn | gen
deriving DecidableEq, Repr

/-- R82: the conditions of VCMP. -/
inductive Cond
  | int (c : ICond)
  | feq | fne | flt | fle | fun_
deriving DecidableEq, Repr

/-- R84: the types of VCVT. -/
inductive CvtType
  | i32 | n32 | f32 | f16 | bf16 | e4m3 | e5m2 | e2m1 | i8 | n8 | i16 | n16 | f64 | i4
deriving DecidableEq, Repr

/-- R84: the types of QPACK. -/
inductive PackType
  | e4m3 | e5m2 | e2m1 | i8 | i4
deriving DecidableEq, Repr

/-- R85: the types of the XLANE family. -/
inductive XType
  | i32 | n32 | f32
deriving DecidableEq, Repr

/-- R89: the access sizes. -/
inductive Size
  | n8 | i8 | n16 | i16 | word | double | quad
deriving DecidableEq, Repr

/-- R92: the MMA formats. -/
inductive MmaFmt
  | fp64 | fp32 | fp16 | bf16 | int8 | int4 | blk | blk24
deriving DecidableEq, Repr

/-- R141: the control registers. -/
inductive CtrlReg
  | cause | frame | landBase | trapBase | preq | deadline | phaseCnt | seed | rptIdx | round | fpFlags | trapEn
deriving DecidableEq, Repr

/-- R60: the fields of a V word. -/
structure VForm where
  gd : BitVec 2
  wb : Bool
  d : VReg
  a : Src
  b : Src
deriving DecidableEq, Repr

/-- R66, R228: the fields of VCMP. -/
structure VCmpForm where
  gd : BitVec 2
  c : Cond
  k : BitVec 3
  a : Src
  b : Src
deriving DecidableEq, Repr

/-- R60: the fields of a U word but its function. -/
structure UForm where
  gd : BitVec 2
  wb : Bool
  d : VReg
  a : Src
deriving DecidableEq, Repr

/-- R60: the fields of an S word but its function. -/
structure SForm where
  d : SReg
  a : SOp
  b : SOp
deriving DecidableEq, Repr

/-- R60: the fields of LD and ST; `d` names the data register. -/
structure MForm where
  gd : BitVec 2
  size : Size
  d : VReg
  tb : BitVec 3
  x : Src
  imm : BitVec 3
deriving DecidableEq, Repr

/-- R60: the fields of LDS, STS, LDP and STP. -/
structure LForm where
  gd : BitVec 2
  size : Size
  d : VReg
  x : Src
  imm : BitVec 3
deriving DecidableEq, Repr

/-- R60: the fields of an A word but its function; `wide` is sz. -/
structure AForm where
  gd : BitVec 2
  wide : Bool
  d : VReg
  tb : BitVec 3
  x : Src
deriving DecidableEq, Repr

/-- R349: the fields of MMA. -/
structure MmaForm where
  fmt : MmaFmt
  slot : BitVec 2
  asrc : Bool
  atb : BitVec 3
  as : SReg
  bsrc : Bool
  btb : BitVec 3
  bs : SReg
deriving DecidableEq, Repr

/-- R77: the fields of a MOD hint, as their codes. -/
structure ModForm where
  rnd : BitVec 3
  sat : Bool
  nt : Bool
  bf : Bool
  scope : BitVec 3
  acq : Bool
  rel : Bool
deriving DecidableEq, Repr

/-- R441: what a hall's estimator measured over some cycles in which the same teams were resident, in picojoules: by team, the energy of
the units that its words used, and the idle and leakage energy. -/
structure HallReading where
  hall : Nat
  teams : List Nat
  units : List (Nat × Nat)
  idle : Nat
deriving DecidableEq, Repr

/-- R440, R441: what the package measured in one millisecond: its halls; by partition, the energy in picojoules of the engines that ran
its commands, and the bytes charged to it at the arbiters; and, in picojoules, its base-die, I/O-die and fabric sensors. -/
structure EnergyReading where
  halls : List HallReading
  engines : List (Nat × Nat)
  bytes : List (Nat × Nat)
  sensors : Nat
deriving DecidableEq, Repr

/-- The device-wide registers of the register windows (R264, R366, R393, R396, R407, R416, R428, R444,
R447, R450, R453). -/
inductive WinReg
  | mgmtCtxsel
  | mgmtInspid
  | mgmtParkqbase
  | mgmtParkqsize
  | mgmtParkqtail
  | mgmtReset
  | mgmtHallsel
  | mgmtResetrecbase
  | xlatS1root
  | xlatS2root
  | xlatInval1
  | xlatInval2
  | xlatWalkquota
  | xlatFq1base
  | xlatFq1size
  | xlatFq1tail
  | xlatFq1resolve
  | xlatFq2base
  | xlatFq2size
  | xlatFq2tail
  | xlatFq2resolve
  | l2schedBase
  | l2schedCount
  | l2schedLoad
  | schedFoyerrec
  | schedDeadline
  | schedPriogap
  | schedLldthresh
  | ownParkact
  | partCreate
  | partCodebase
  | partCodesize
  | partWaymask
  | partSlicemask0
  | partSlicemask1
  | partSlicemask2
  | partBwfloor
  | partBwweight
  | partHoistmask
  | partBraidmask
  | partCmprmask
  | migCntbase
  | migCntfirst
  | migCntpages
  | migThresh
  | migNqbase
  | migNqsize
  | migNqtail
  | migTrkfirst
  | migTrkpages
  | migBmbase
  | migTrack
  | migFlushfirst
  | migFlushpages
  | migFlushgo
  | ccSlotassign
  | ccKeysel
  | ccHbperiod
  | ccHoldtime
  | ownKeysel
  | pwrCap
  | partEnfloor
  | partEnweight
  | partVfmin
  | ageSel
  | ageDrift
  | replayCtl
  | replayLogbase
  | replayLogsize
  | replayLogtail
  | replayRangebase
  | replayRangecount
  | ropePwbase
  | ropePwcount
  | mgmtCtxstate
  | mgmtInspdata
  | mgmtInspstatus
  | mgmtParkqhead
  | mgmtResetdone
  | mgmtHallmap
  | xlatInvdone1
  | xlatInvdone2
  | xlatFq1head
  | xlatFq2head
  | l2step
  | schedFoyerstate
  | schedLaunches
  | schedSaves
  | schedForced
  | ownParkcount
  | ownParkframe
  | partCfg
  | partStatus
  | migNqhead
  | migNqlost
  | migFlushdone
  | ccKeyinfo
  | ccKeyid
  | ccHoldstate
  | ccHoldcause
  | ccHoldcount
  | ownKeyinfo
  | ownKeyid
  | pwrBalance
  | pwrUnattr
  | partVfpoint
  | partAllow
  | ageMargin
  | agePlans
  | ageSpares
  | ageRetired
  | ageFailed
  | replayLoghead
  | replayStatus
  | replayDivseq
  | ownResetrec
deriving DecidableEq, Repr

/-- The instructions: one constructor for each row of the opcode table. A row without a word is an event:
its arguments say which object of the device it acts on, and an outside message without arguments here is described by
the state's `inbox` (log 7). -/
inductive Instr
  /-- IADD (V format) -/
  | iadd (f : VForm)
  /-- ISUB (V format) -/
  | isub (f : VForm)
  /-- IMUL (V format) -/
  | imul (f : VForm)
  /-- IMULH (V format) -/
  | imulh (f : VForm)
  /-- IMAC (V format) -/
  | imac (f : VForm)
  /-- AND (V format) -/
  | and (f : VForm)
  /-- OR (V format) -/
  | or (f : VForm)
  /-- XOR (V format) -/
  | xor (f : VForm)
  /-- SHL (V format) -/
  | shl (f : VForm)
  /-- SHR (V format) -/
  | shr (f : VForm)
  /-- SAR (V format) -/
  | sar (f : VForm)
  /-- IMIN (V format) -/
  | imin (f : VForm)
  /-- IMAX (V format) -/
  | imax (f : VForm)
  /-- NMIN (V format) -/
  | nmin (f : VForm)
  /-- NMAX (V format) -/
  | nmax (f : VForm)
  /-- FADD (V format) -/
  | fadd (f : VForm)
  /-- FMUL (V format) -/
  | fmul (f : VForm)
  /-- FMAC (V format) -/
  | fmac (f : VForm)
  /-- FMIN (V format) -/
  | fmin (f : VForm)
  /-- FMAX (V format) -/
  | fmax (f : VForm)
  /-- HADD2 (V format) -/
  | hadd2 (f : VForm)
  /-- HMUL2 (V format) -/
  | hmul2 (f : VForm)
  /-- HMAC2 (V format) -/
  | hmac2 (f : VForm)
  /-- DADD (V format) -/
  | dadd (f : VForm)
  /-- DMUL (V format) -/
  | dmul (f : VForm)
  /-- DMAC (V format) -/
  | dmac (f : VForm)
  /-- SEL (V format) -/
  | sel (f : VForm)
  /-- VCMP.c (R228) -/
  | vcmp (f : VCmpForm)
  /-- MOV (U format) -/
  | mov (f : UForm)
  /-- NOT (U format) -/
  | not (f : UForm)
  /-- INEG (U format) -/
  | ineg (f : UForm)
  /-- IABS (U format) -/
  | iabs (f : UForm)
  /-- POPC (U format) -/
  | popc (f : UForm)
  /-- CLZ (U format) -/
  | clz (f : UForm)
  /-- CTZ (U format) -/
  | ctz (f : UForm)
  /-- BREV (U format) -/
  | brev (f : UForm)
  /-- BSWAP (U format) -/
  | bswap (f : UForm)
  /-- MOV64 (U format) -/
  | mov64 (f : UForm)
  /-- FNEG (U format) -/
  | fneg (f : UForm)
  /-- FABS (U format) -/
  | fabs (f : UForm)
  /-- FRCP (U format) -/
  | frcp (f : UForm)
  /-- FRSQ (U format) -/
  | frsq (f : UForm)
  /-- FSQRT (U format) -/
  | fsqrt (f : UForm)
  /-- FEXP2 (U format) -/
  | fexp2 (f : UForm)
  /-- FLOG2 (U format) -/
  | flog2 (f : UForm)
  /-- FSIN (U format) -/
  | fsin (f : UForm)
  /-- FCOS (U format) -/
  | fcos (f : UForm)
  /-- FTANH (U format) -/
  | ftanh (f : UForm)
  /-- FFLOOR (U format) -/
  | ffloor (f : UForm)
  /-- FCEIL (U format) -/
  | fceil (f : UForm)
  /-- FTRUNC (U format) -/
  | ftrunc (f : UForm)
  /-- FRINT (U format) -/
  | frint (f : UForm)
  /-- FCLASS (U format) -/
  | fclass (f : UForm)
  /-- DNEG (U format) -/
  | dneg (f : UForm)
  /-- DABS (U format) -/
  | dabs (f : UForm)
  /-- DSQRT (U format) -/
  | dsqrt (f : UForm)
  /-- DRCP (U format) -/
  | drcp (f : UForm)
  /-- HNEG2 (U format) -/
  | hneg2 (f : UForm)
  /-- HABS2 (U format) -/
  | habs2 (f : UForm)
  /-- VCVT.t.u (R233) -/
  | vcvt (t u : CvtType) (f : UForm)
  /-- QPACK.t (R236) -/
  | qpack (t : PackType) (f : UForm)
  /-- BFX (V format) -/
  | bfx (f : VForm)
  /-- BFI (V format) -/
  | bfi (f : VForm)
  /-- SHFI (V format) -/
  | shfi (f : VForm)
  /-- SHFU (V format) -/
  | shfu (f : VForm)
  /-- SHFD (V format) -/
  | shfd (f : VForm)
  /-- SHFX (V format) -/
  | shfx (f : VForm)
  /-- BALLOT (R238) -/
  | ballot (f : UForm)
  /-- VANY (R238) -/
  | vany (f : UForm)
  /-- VALL (R238) -/
  | vall (f : UForm)
  /-- FIRST (R238) -/
  | first (f : UForm)
  /-- PSUM, exclusive when x (R238) -/
  | psum (t : XType) (x : Bool) (f : UForm)
  /-- RSUM (R238) -/
  | rsum (t : XType) (f : UForm)
  /-- RMIN (R238) -/
  | rmin (t : XType) (f : UForm)
  /-- RMAX (R238) -/
  | rmax (t : XType) (f : UForm)
  /-- TOPK (R240) -/
  | topk (f : VForm)
  /-- APPEND (R241) -/
  | append (f : VForm)
  /-- SADD (R164) -/
  | sadd (f : SForm)
  /-- SSUB (R164) -/
  | ssub (f : SForm)
  /-- SMUL (R164) -/
  | smul (f : SForm)
  /-- SMULH (R164) -/
  | smulh (f : SForm)
  /-- SAND (R164) -/
  | sand (f : SForm)
  /-- SOR (R164) -/
  | sor (f : SForm)
  /-- SXOR (R164) -/
  | sxor (f : SForm)
  /-- SSHL (R164) -/
  | sshl (f : SForm)
  /-- SSHR (R164) -/
  | sshr (f : SForm)
  /-- SSAR (R164) -/
  | ssar (f : SForm)
  /-- SMIN (R164) -/
  | smin (f : SForm)
  /-- SMAX (R164) -/
  | smax (f : SForm)
  /-- SNMIN (R164) -/
  | snmin (f : SForm)
  /-- SNMAX (R164) -/
  | snmax (f : SForm)
  /-- SADD64 (R164) -/
  | sadd64 (f : SForm)
  /-- SSUB64 (R164) -/
  | ssub64 (f : SForm)
  /-- SCMP.c (R164) -/
  | scmp (c : ICond) (f : SForm)
  /-- SRDV (R165) -/
  | srdv (d : SReg) (a : SOp) (b : VReg)
  /-- SLI (R166) -/
  | sli (d : SReg) (imm : BitVec 18)
  /-- SLUI (R166) -/
  | slui (d : SReg) (imm : BitVec 18)
  /-- SADDI (R166) -/
  | saddi (d : SReg) (imm : BitVec 18)
  /-- JMP (R168) -/
  | jmp (off : BitVec 17)
  /-- JSZ (R168) -/
  | jsz (s : SReg) (off : BitVec 17)
  /-- JSNZ (R168) -/
  | jsnz (s : SReg) (off : BitVec 17)
  /-- JG (R170) -/
  | jg (neg : Bool) (g : BitVec 3) (off : BitVec 17)
  /-- JGX (R170) -/
  | jgx (neg : Bool) (g : BitVec 3) (off : BitVec 17)
  /-- CALL (R172) -/
  | call (s : SReg) (off : BitVec 17)
  /-- JANY (R168) -/
  | jany (neg : Bool) (g : BitVec 3) (off : BitVec 17)
  /-- JALL (R168) -/
  | jall (neg : Bool) (g : BitVec 3) (off : BitVec 17)
  /-- SPLICE (R171) -/
  | splice (off : BitVec 20)
  /-- CALLI (R173) -/
  | calli (v : VReg) (s : SReg)
  /-- RET (R174) -/
  | ret (s : SReg)
  /-- WAITK (R179) -/
  | waitk (k : BitVec 8)
  /-- YIELDK (R179) -/
  | yieldk (k : BitVec 8) (off : BitVec 12)
  /-- KINIT (R180) -/
  | kinit (k : BitVec 8) (x : SOp)
  /-- KTIE (R181) -/
  | ktie (k : BitVec 8) (s : SReg)
  /-- BAR (R182) -/
  | bar (n : BitVec 4)
  /-- BARA (R182) -/
  | bara (n : BitVec 4)
  /-- BARW (R182) -/
  | barw (n : BitVec 4)
  /-- GETXM (R175) -/
  | getxm (d : SReg)
  /-- SETXM (R175) -/
  | setxm (x : SOp)
  /-- SETXP (R176) -/
  | setxp (c : BitVec 3)
  /-- TRAP (R186) -/
  | trap (code : BitVec 20)
  /-- GETC (R191) -/
  | getc (c : CtrlReg) (d : SReg)
  /-- SETC (R191) -/
  | setc (c : CtrlReg) (x : SOp)
  /-- RDX (R188): field code, window, successor, destination -/
  | rdx (f : BitVec 3) (w : BitVec 3) (h : Bool) (v : VReg)
  /-- WRX (R189) -/
  | wrx (f : BitVec 3) (w : BitVec 3) (h : Bool) (v : VReg)
  /-- LD (R276) -/
  | ld (f : MForm)
  /-- SLD (R277) -/
  | sld (d : SReg) (tb : BitVec 3) (x : Src) (imm : BitVec 3)
  /-- ST (R278) -/
  | st (f : MForm)
  /-- LDS (R279, R280) -/
  | lds (f : LForm)
  /-- STS (R279, R280) -/
  | sts (f : LForm)
  /-- LDP (R279, R280) -/
  | ldp (f : LForm)
  /-- STP (R279, R280) -/
  | stp (f : LForm)
  /-- ATOM.SWAP (R281) -/
  | atomSwap (f : AForm)
  /-- ATOM.ADD (R281) -/
  | atomAdd (f : AForm)
  /-- ATOM.AND (R281) -/
  | atomAnd (f : AForm)
  /-- ATOM.OR (R281) -/
  | atomOr (f : AForm)
  /-- ATOM.XOR (R281) -/
  | atomXor (f : AForm)
  /-- ATOM.MIN (R281) -/
  | atomMin (f : AForm)
  /-- ATOM.MAX (R281) -/
  | atomMax (f : AForm)
  /-- ATOM.NMIN (R281) -/
  | atomNmin (f : AForm)
  /-- ATOM.NMAX (R281) -/
  | atomNmax (f : AForm)
  /-- ATOM.CAS (R281) -/
  | atomCas (f : AForm)
  /-- ATOM.FADD (R281) -/
  | atomFadd (f : AForm)
  /-- ATOM.LOAD (R281) -/
  | atomLoad (f : AForm)
  /-- ATOM.STORE (R281) -/
  | atomStore (f : AForm)
  /-- TBSET (R284) -/
  | tbset (tb : BitVec 3) (p l : SReg)
  /-- COMMIT.s (R285 to R288) -/
  | commitAt (sc : Scope)
  /-- BEGIN.s (R285 to R288) -/
  | beginAt (sc : Scope)
  /-- FENCE.s (R285 to R288) -/
  | fence (sc : Scope)
  /-- DRAIN.s (R285 to R288) -/
  | drain (sc : Scope)
  /-- DISCARD (R289) -/
  | discard (tb : BitVec 3) (o c : SReg)
  /-- PFETCH (R290) -/
  | pfetch (tb : BitVec 3) (x : Src)
  /-- WATCH (R291) -/
  | watch (tb : BitVec 3) (o : SReg)
  /-- STEP (R293) -/
  | stepCounter (x : SOp)
  /-- MMA (R349) -/
  | mma (f : MmaForm)
  /-- ZERO (R355) -/
  | zero (z : BitVec 2) (t : BitVec 8)
  /-- DRAIN zN (R356) -/
  | drainSlot (z : BitVec 2)
  /-- FOLD (R356) -/
  | fold (z : BitVec 2)
  /-- ACCRD (R357) -/
  | accrd (z : BitVec 2) (v : VReg) (row : BitVec 5)
  /-- ACCWR (R357) -/
  | accwr (z : BitVec 2) (v : VReg) (row : BitVec 5)
  /-- ACCLD (R358) -/
  | accld (t : BitVec 8) (s : SReg)
  /-- ACCST (R358) -/
  | accst (t : BitVec 8) (s : SReg)
  /-- GALST (R359) -/
  | galst (z : BitVec 2) (s : SReg)
  /-- STAIR (R305) -/
  | stair (k : BitVec 8) (s : SReg)
  /-- STAIRG (R305) -/
  | stairg (k : BitVec 8) (s : SReg)
  /-- HOIST (R305) -/
  | hoist (e : BitVec 5) (k : BitVec 8) (s : SReg)
  /-- BRAID (R305) -/
  | braid (e : BitVec 5) (k : BitVec 8) (s : SReg)
  /-- CMPR (R305) -/
  | cmpr (e : BitVec 5) (k : BitVec 8) (s : SReg)
  /-- DCMP (R305) -/
  | dcmp (e : BitVec 5) (k : BitVec 8) (s : SReg)
  /-- KQUERY (R323) -/
  | kquery (k : BitVec 8) (d : SReg)
  /-- LAUNCH (R371) -/
  | launch (d a : SReg)
  /-- LQUERY (R374) -/
  | lquery (d a : SReg)
  /-- PUBLISH (R128) -/
  | publish (d a b : SReg)
  /-- BIND (R133) -/
  | bindSlot (d a b : SReg)
  /-- UNBIND (R134) -/
  | unbind (d a b : SReg)
  /-- UNBIND of slot address zero (R134): the same words as `unbind` -/
  | unbindReleaseHold (d a b : SReg)
  /-- PLACE (R401) -/
  | place (d a b : SReg)
  /-- PREEMPT (R386) -/
  | preempt (d a b : SReg)
  /-- PCANCEL (R387) -/
  | pcancel (d a : SReg)
  /-- EXPORT (R400) -/
  | exportCtx (d a : SReg)
  /-- IMPORT (R400) -/
  | importCtx (d a : SReg)
  /-- SEAL (R400) -/
  | seal (d a : SReg)
  /-- CNTRD (R402) -/
  | cntrd (d a : SReg)
  /-- IMM hint (R75) -/
  | imm (i : BitVec 22)
  /-- GRD hint (R76) -/
  | grd (neg : Bool) (g : BitVec 3)
  /-- SRC3 hint (R76) -/
  | src3 (neg abs : Bool) (x : Src)
  /-- MOD hint (R77) -/
  | modh (f : ModForm)
  /-- REP hint (R78): count - 1 and the steps -/
  | rep (n : BitVec 6) (d a b : BitVec 2)
  /-- SCHED hint, scheduling form (R79) -/
  | sched (stall : BitVec 6) (yld : Bool) (reuse : BitVec 3)
  /-- SCHED hint, live form (R79) -/
  | live (l : BitVec 16)
  /-- LANDING (R155): An undefined, disabled or invalid word enters the landing handler with the window filled. -/
  | landing (w : Word)
  /-- MISS_DATA_ARRIVAL (R148): The data of a split load's missing lanes arrive and the waiting strand resumes. -/
  | missDataArrival (g : Nat)
  /-- GROUP_EXIT_COMPLETE (R177): After the operand log empties, the exiting group commits, arrives at barriers and frees its slot. -/
  | groupExitComplete (g : Nat)
  /-- FAULT_ENTRY_WRITE (R265): A queued translation fault entry is written once the fault queue has room. -/
  | faultEntryWrite (p : Nat) (stage2 : Bool)
  /-- XLAT_FQ1RESOLVE (R266): The owner resolves a stage-1 fault entry with replay or PAGE. -/
  | xlatFq1Resolve (p : Nat) (v : DWord)
  /-- XLAT_FQ2RESOLVE (R266): The operator resolves a stage-2 fault entry with replay or PAGE. -/
  | xlatFq2Resolve (p : Nat) (v : DWord)
  /-- FAULT_REPLAY (R266): A resolved faulted access replays with its logged lanes and operands. -/
  | faultReplay (g : Nat)
  /-- XLAT_INVAL1 (R264): Drops matching stage-1 combined translations of the partition. -/
  | xlatInval1 (p : Nat) (v : DWord)
  /-- XLAT_INVAL2 (R264): Drops matching stage-2 combined translations of the partition. -/
  | xlatInval2 (p : Nat) (v : DWord)
  /-- XLAT_S1ROOT (R264): Sets the stage-1 root and invalidates every translation of the partition. -/
  | xlatS1root (p : Nat) (v : DWord)
  /-- XLAT_S2ROOT (R264): Sets the stage-2 root and invalidates every translation of the partition. -/
  | xlatS2root (p : Nat) (v : DWord)
  /-- INVALIDATION_COMPLETE (R264): Accesses using dropped translations complete and the DONE count rises. -/
  | invalidationComplete (p : Nat) (stage2 : Bool)
  /-- L2SCHED_LOAD (R253): Loads the eviction schedule from memory. -/
  | l2schedLoad (p : Nat)
  /-- LEASE_REQ (R270): A source asks a target for a region's translations. -/
  | leaseReq (p region : Nat)
  /-- LEASE_GRANT (R270): A target's grant installs the region's translations at the source. -/
  | leaseGrant (p region : Nat)
  /-- LEASE_DENY (R270): A target denies the lease and the access faults at stage 2. -/
  | leaseDeny (p region : Nat)
  /-- LEASE_RECALL (R270): A target recalls a lease and the source stops using it. -/
  | leaseRecall (p region : Nat)
  /-- LEASE_ACK (R270): The source acknowledges the recall after its accesses complete. -/
  | leaseAck (p region : Nat)
  /-- LEASE_RELEASE (R270): A source gives up a lease to make room. -/
  | leaseRelease (p region : Nat)
  /-- LEASE_TIMEOUT (R271): A source has not acknowledged after 2^24 cycles and the operator is notified. -/
  | leaseTimeout (p region : Nat)
  /-- ENGINE_ENQUEUE (R306): A command waiting on a full engine queue enters it when an entry frees. -/
  | engineEnqueue (g : Nat)
  /-- STAIR_EXECUTE (R313): The stair engine reads, checks and performs a STAIR record. -/
  | stairExecute (c : Nat)
  /-- STAIRG_EXECUTE (R314): The stair engine reads indices and gathers rows of a STAIRG record. -/
  | stairgExecute (c : Nat)
  /-- HOIST_EXECUTE (R315): A hoist engine copies rows between global addresses. -/
  | hoistExecute (c : Nat)
  /-- BRAID_EXECUTE (R317): A matched braid command performs its collective operation. -/
  | braidExecute (c : Nat)
  /-- BRAID_MATCH (R319): The k-th braid command of every rank matches, or ends with MISMATCH. -/
  | braidMatch (c : Nat)
  /-- BRAID_TIMEOUT (R319): Ranks have not matched within the timeout; the command ends with PEER and sends aborts. -/
  | braidTimeout (c : Nat)
  /-- BRAID_ABORT (R319): A matched command receives an abort and ends with PEER. -/
  | braidAbort (c : Nat)
  /-- CMPR_EXECUTE (R320): A compression engine writes one Zstandard frame and its length. -/
  | cmprExecute (c : Nat)
  /-- DCMP_EXECUTE (R320): A compression engine decodes one Zstandard frame. -/
  | dcmpExecute (c : Nat)
  /-- KNOT_DECREMENT (R27): A completed engine command decrements its knot, releasing waiters at zero. -/
  | knotDecrement (c : Nat)
  /-- MATRIX_BEAT (R326): The array performs one beat into a slot, taking gallery entries for carries. -/
  | matrixBeat (g : Nat)
  /-- SCHED_FOYERREC (R367): Starts the foyer from a launch record. -/
  | schedFoyerrec (p : Nat) (v : DWord)
  /-- TEAM_ADMIT (R375): The scheduler admits a team onto a hall passing every resource test. -/
  | teamAdmit (p : Nat)
  /-- TEAM_RELEASE (R30): A team's resources are released after exit and every knot decrement. -/
  | teamRelease (t : Nat)
  /-- STRAND_OVERDUE (R378): A strand ready without issuing for 1,024 cycles becomes overdue. -/
  | strandOverdue (g k : Nat)
  /-- LLD_WINDOW_END (R379): The lost-locality detector adjusts the allowed group count at each window end. -/
  | lldWindowEnd (h hits : Nat)
  /-- AUTO_PREEMPT (R382): The scheduler requests saves of lower-priority teams for a waiting team. -/
  | autoPreempt (p : Nat)
  /-- DEADLINE_EXPIRY (R381): DEADLINE cycles pass after PREQ and the group is discarded or force-saved. -/
  | deadlineExpiry (g : Nat)
  /-- TEAM_SAVE_COMPLETE (R381): Every group has saved and the frame is written; the team counts as saved. -/
  | teamSaveComplete (t : Nat)
  /-- WEDGE_TIMEOUT (R395): A save unsatisfied 2^22 cycles after the deadline parks the team as wedged. -/
  | wedgeTimeout (t : Nat)
  /-- OWN_PARKACT_KILL (R396): Action 0 kills every group of a parked group's team. -/
  | ownParkactKill (p serial : Nat)
  /-- OWN_PARKACT_RESUME (R396): Action 1 resumes a parked group as TRET would. -/
  | ownParkactResume (p serial : Nat)
  /-- RESET_COMPLETE (R397): The scrub completes, the reset record is written and the partition returns to state 0. -/
  | resetComplete (p : Nat)
  /-- MIG_FLUSH_COMPLETE (R419): The flush's write-backs and invalidations finish and MIG_FLUSHDONE rises. -/
  | migFlushComplete (p : Nat)
  /-- SPARE_SUBSTITUTE (R446): Once the retired hall's teams are saved, a spare takes its logical number or it is marked failed. -/
  | spareSubstitute (h : Nat)
  /-- REVOKE_ERASE (R430): After protected ways are sealed, written back and scrubbed, the key is erased and the response sent. -/
  | revokeErase (slot : Nat)
  /-- HOLD_COMPLETE (R436): Step 5 suspends the key slots and the partition enters state 3. -/
  | holdComplete (p : Nat)
  /-- HOLD_TIME_EXPIRY (R438): The hold time expires and the operator may reset the partition. -/
  | holdTimeExpiry (p : Nat)
  /-- NT_STORE_PERFORMED (R54): A non-temporal store issued earlier is performed at a scope and becomes visible to other parties as a racing value. -/
  | ntStorePerformed (g n : Nat) (sc : Scope)
  /-- ENGINE_SECTOR_COMMIT (R51): A running engine command writes one destination sector as a separate commit at the engine's scope. -/
  | engineSectorCommit (c : Nat)
  /-- EXIT (R177) -/
  | exit
  /-- YIELD (R178) -/
  | yield
  /-- PYIELD (R185) -/
  | pyield
  /-- REGION (R183) -/
  | region
  /-- TRET (R187) -/
  | tret
  /-- EMURET (R190) -/
  | emuret
  /-- WAITW (R292) -/
  | waitw
  /-- WALK_START (R263): A free walker takes a queued walk by quota and waiting time. -/
  | walkStart
  /-- WALK_COMPLETE (R258): A table walk finishes and installs a translation or faults. -/
  | walkComplete
  /-- HOST_WRITE (R291): A host or peer write is performed at its home, firing watches on its line. -/
  | hostWrite
  /-- PARK_NOTICE (R395): A park notice is written into the operator's queue once it has room. -/
  | parkNotice
  /-- MGMT_INSPID (R394): Starts one inspection of the selected partition. -/
  | mgmtInspid
  /-- INSPECTION_COMPLETE (R394): An inspection completes after 64 cycles with its result or refusal. -/
  | inspectionComplete
  /-- MGMT_RESET (R397): Starts the reset of one partition. -/
  | mgmtReset
  /-- PART_CREATE (R408): Creates a partition with a tag. -/
  | partCreate
  /-- PART_DESTROY (R408): Destroys a partition in state 0 or 4, scrubbing its stores. -/
  | partDestroy
  /-- CC_SLOTASSIGN (R428): Assigns a key slot to a partition. -/
  | ccSlotassign
  /-- CC_SLOTFREE (R428): Frees an empty key slot. -/
  | ccSlotfree
  /-- MIG_FLUSHGO (R419): Starts a flush of a host-physical range. -/
  | migFlushgo
  /-- MIG_TRACK_ON (R421): Starts dirty tracking over the tracked range. -/
  | migTrackOn
  /-- MIG_TRACK_OFF (R421): Stops dirty tracking. -/
  | migTrackOff
  /-- BW_EPOCH (R415): At each 256-cycle epoch the over bits are published and request limits adjusted. -/
  | bwEpoch
  /-- ENERGY_REFILL (R440): Each millisecond the energy account is refilled and debited. -/
  | energyRefill
  /-- AGE_REPLAN (R445): A hall's voltages are re-planned on the daily timer or on drift. -/
  | ageReplan
  /-- REPLAY_RECORD (R448): Writing REPLAY_CTL := 1 starts recording. -/
  | replayRecord
  /-- REPLAY_RERUN (R449): Writing REPLAY_CTL := 2 reruns from the log, enforcing logged orders and values. -/
  | replayRerun
  /-- REPLAY_OFF (R450): Writing REPLAY_CTL := 0 stops recording or replay. -/
  | replayOff
  /-- KEY_EXCHANGE (R425): An SPDM KEY_EXCHANGE opens a session, resuming a held partition for its owner. -/
  | keyExchange
  /-- HEARTBEAT (R435): A secured heartbeat message keeps the owner's session alive. -/
  | heartbeat
  /-- HEARTBEAT_TIMEOUT (R435): No secured message arrives within twice the heartbeat period. -/
  | heartbeatTimeout
  /-- KEY_SET (R429): Provisions kind, key id and material into a key slot. -/
  | keySet
  /-- KEY_REVOKE (R430): Starts revocation of a key slot. -/
  | keyRevoke
  /-- KEY_QUERY (R429): Returns a slot's kind, state and key id. -/
  | keyQuery
  /-- KEY_PROG (R426): IDE_KM writes an IDE key set into a key slot. -/
  | keyProg
  /-- K_SET_GO (R426): IDE_KM switches the stream to a programmed key slot. -/
  | kSetGo
  /-- K_SET_STOP (R426): IDE_KM stops a key set of the stream. -/
  | kSetStop
  /-- GET_MEASUREMENTS (R439): Returns signed measurement blocks of the device or partition. -/
  | getMeasurements
  /-- FLIT_RETRY (R452): A rope flit whose CRC fails is retried at the link layer. -/
  | flitRetry
  /-- PORT_FAILOVER (R452): A failed rope port's traffic moves to other ports. -/
  | portFailover
  /-- ROPE_UNREACHABLE_TIMEOUT (R452): A target unreached within 2^24 cycles poisons reads, drops writes or ends braids. -/
  | ropeUnreachableTimeout
  /-- REGISTER_WRITE (R10): A write to a register with no behaviour of its own stores its value. -/
  | registerWrite
  /-- PART_REGISTER_WRITE (R409): An operator write to a PART_, MIG_, CC_ or XLAT_WALKQUOTA configuration register is checked, then either takes effect or is refused, and PART_STATUS records the result. -/
  | partRegisterWrite
deriving DecidableEq, Repr

end Sys2Proof
end

