-- ==== Sys2Proof/WellFormed.lean ====
section
/-! DEFINITION. Which instructions are well formed: the checks of the instruction word that R64, R65, R66,
R77, R84, R87 to R95 and R349 decide on the word alone. A word whose fields fail one is an invalid
combination (R96). -/

namespace Sys2Proof

/-- R65: an even register number. -/
def VReg.even (n : VReg) : Bool := n.toNat % 2 == 0

/-- R65: a register number that is a multiple of 4. -/
def VReg.quad (n : VReg) : Bool := n.toNat % 4 == 0

/-- R65: an even scalar register. -/
def SReg.even (n : SReg) : Bool := n.val % 2 == 0

/-- R65: a source that may be read as a 64-bit operand: a register names an even pair. -/
def Src.pairOk : Src → Bool
  | .v n => VReg.even n
  | .s n => SReg.even n
  | .latch _ => true
  | .special _ => true
  | .const _ => true

/-- R62: a special that differs from lane to lane. -/
def Special.perLane : Special → Bool
  | .laneid => true
  | .tlane => true
  | .tindex => true
  | _ => false

/-- R64: a 7-bit operand may not name a special that differs from lane to lane. -/
def SOp.ok : SOp → Bool
  | .s _ => true
  | .special x => !x.perLane
  | .const _ => true

/-- R65, R165: a 7-bit operand that may be read as 64 bits. -/
def SOp.pairOk : SOp → Bool
  | .s n => SReg.even n
  | .special x => !x.perLane
  | .const _ => true

/-- R277, R351: a source with one value for the group. -/
def Src.uniform : Src → Bool
  | .s _ => true
  | .special x => !x.perLane
  | .const _ => true
  | .v _ => false
  | .latch _ => false

/-- R65: the data register of an access of this size. -/
def Size.regOk (z : Size) (d : VReg) : Bool :=
  match z with
  | .double => VReg.even d
  | .quad => VReg.quad d
  | _ => true

/-- R89: the sizes of a store. -/
def Size.storeOk : Size → Bool
  | .i8 => false
  | .i16 => false
  | _ => true

/-- R89: the sizes of a private access. -/
def Size.privOk : Size → Bool
  | .word => true
  | .double => true
  | .quad => true
  | _ => false

/-- R226: the fields of an FP64 member of majors 0x18 to 0x1A. -/
def VForm.pairOk (f : VForm) : Bool := VReg.even f.d && f.a.pairOk && f.b.pairOk

/-- R230 to R232: the fields of a unary member on pairs. -/
def UForm.pairOk (f : UForm) : Bool := VReg.even f.d && f.a.pairOk

/-- R164: the operands of a scalar word. -/
def SForm.ok (f : SForm) : Bool := f.a.ok && f.b.ok

/-- R165: the operands of SADD64 and SSUB64. -/
def SForm.pairOk (f : SForm) : Bool := SReg.even f.d && f.a.pairOk && f.b.pairOk

/-- R281: the data register of an atomic other than CAS. -/
def AForm.ok (f : AForm) : Bool := !f.wide || VReg.even f.d

/-- R281: the data register of CAS: a pair, or a quad for 64 bits. -/
def AForm.casOk (f : AForm) : Bool := if f.wide then VReg.quad f.d else VReg.even f.d

/-- R236: how many consecutive registers QPACK reads. -/
def PackType.count : PackType → Nat
  | .e4m3 => 2
  | .e5m2 => 2
  | .i8 => 2
  | .e2m1 => 4
  | .i4 => 4

/-- R236: the source of QPACK is a v register aligned to the registers it reads. -/
def PackType.srcOk (t : PackType) (a : Src) : Bool :=
  match a with
  | .v n => n.toNat % t.count == 0
  | _ => false

/-- R349: the fields of MMA. -/
def MmaForm.ok (f : MmaForm) : Bool :=
  (f.asrc || f.atb == 0) && (f.bsrc || f.btb == 0) && (f.fmt != .blk24 || SReg.even f.as)

/-- R77: the fields of MOD hold no reserved code. -/
def ModForm.ok (f : ModForm) : Bool := f.rnd != 7 && (f.scope == 0 || f.scope.toNat ≥ 4)

/-- R157, R188: the fields of RDX. Code 0 reads a whole window register into an even pair. -/
def rdxOk (f w : BitVec 3) (h : Bool) (v : VReg) : Bool :=
  if f == 0 then VReg.even v && !h else f.toNat ≤ 4 && w == 4

/-- R157, R189: the fields of WRX. -/
def wrxOk (f w : BitVec 3) : Bool := f != 0 && f.toNat ≤ 4 && w == 4

/-- The checks on the fields of a word (R64 to R66, R77, R84 to R95). An event has no word and no check. -/
def Instr.wf : Instr → Bool
  | .dadd f => f.pairOk
  | .dmul f => f.pairOk
  | .dmac f => f.pairOk
  | .mov64 f => f.pairOk
  | .dneg f => f.pairOk
  | .dabs f => f.pairOk
  | .dsqrt f => f.pairOk
  | .drcp f => f.pairOk
  | .vcvt t u f => t != u && (t != .f64 || VReg.even f.d) && (u != .f64 || f.a.pairOk)
  | .qpack t f => t.srcOk f.a
  | .sadd f => f.ok
  | .ssub f => f.ok
  | .smul f => f.ok
  | .smulh f => f.ok
  | .sand f => f.ok
  | .sor f => f.ok
  | .sxor f => f.ok
  | .sshl f => f.ok
  | .sshr f => f.ok
  | .ssar f => f.ok
  | .smin f => f.ok
  | .smax f => f.ok
  | .snmin f => f.ok
  | .snmax f => f.ok
  | .sadd64 f => f.pairOk
  | .ssub64 f => f.pairOk
  | .scmp _ f => f.ok
  | .srdv _ a _ => a.ok
  | .call s _ => SReg.even s
  | .calli v s => VReg.even v && SReg.even s
  | .ret s => SReg.even s
  | .kinit _ x => x.ok
  | .ktie _ s => SReg.even s
  | .setxm x => x.ok
  | .setxp c => c.toNat ≥ 1 && c.toNat ≤ 5
  | .getc c d => c != .frame || SReg.even d
  | .setc _ x => x.ok
  | .rdx f w h v => rdxOk f w h v
  | .wrx f w _ _ => wrxOk f w
  | .ld f => f.size.regOk f.d
  | .sld _ _ x _ => x.uniform
  | .st f => f.size.storeOk && f.size.regOk f.d
  | .lds f => f.size.regOk f.d
  | .sts f => f.size.storeOk && f.size.regOk f.d
  | .ldp f => f.size.privOk && f.size.regOk f.d
  | .stp f => f.size.privOk && f.size.regOk f.d
  | .atomSwap f => f.ok
  | .atomAdd f => f.ok
  | .atomAnd f => f.ok
  | .atomOr f => f.ok
  | .atomXor f => f.ok
  | .atomMin f => f.ok
  | .atomMax f => f.ok
  | .atomNmin f => f.ok
  | .atomNmax f => f.ok
  | .atomCas f => f.casOk
  | .atomFadd f => f.ok
  | .atomLoad f => f.ok
  | .atomStore f => f.ok
  | .tbset _ p _ => SReg.even p
  | .stepCounter x => x.ok
  | .mma f => f.ok
  | .stair _ s => SReg.even s
  | .stairg _ s => SReg.even s
  | .hoist _ _ s => SReg.even s
  | .braid _ _ s => SReg.even s
  | .cmpr _ _ s => SReg.even s
  | .dcmp _ _ s => SReg.even s
  | .launch _ a => SReg.even a
  | .lquery d _ => SReg.even d
  | .publish d a _ => SReg.even d && SReg.even a
  | .bindSlot _ a b => SReg.even a && SReg.even b
  | .unbind _ a b => SReg.even a && SReg.even b
  | .unbindReleaseHold _ a b => SReg.even a && SReg.even b
  | .place _ _ b => SReg.even b
  | .exportCtx _ a => SReg.even a
  | .importCtx _ a => SReg.even a
  | .seal _ a => SReg.even a
  | .cntrd d _ => SReg.even d
  | .modh f => f.ok
  | _ => true

end Sys2Proof
end

