-- ==== Sys2Proof/Decode.lean ====
section
/-! DEFINITION. Reading a word as an instruction and writing it back (R58 to R98, R112, R119): the operand
codes, the encoder, the decoder, and the decoder under the compatibility flag. -/

namespace Sys2Proof

/-- R96: why a word is no instruction: an undefined code, or an invalid combination of fields. -/
inductive Reject
  | undefinedCode
  | invalidCombination
deriving DecidableEq, Repr

/-- R60: `n` bits of a word from bit `lo` up. -/
def Word.field (w : Word) (lo n : Nat) : BitVec n := w.extractLsb' lo n

/-- R62: the index of a special from code 0xB4. -/
def Special.index : Special → Nat
  | .zero => 0 | .laneid => 1 | .tlane => 2 | .tindex => 3 | .gid => 4 | .teamid => 5
  | .hallid => 6 | .bayid => 7 | .ngroups => 8 | .xmval => 9 | .tsize => 10 | .ones => 11

/-- R62: the special of an index. -/
def Special.ofIndex : Nat → Special
  | 0 => .zero | 1 => .laneid | 2 => .tlane | 3 => .tindex | 4 => .gid | 5 => .teamid
  | 6 => .hallid | 7 => .bayid | 8 => .ngroups | 9 => .xmval | 10 => .tsize | _ => .ones

/-- R61: the code of a source. -/
def Src.code : Src → BitVec 8
  | .v n => (0 : BitVec 1) ++ n
  | .s n => BitVec.ofNat 8 (0x80 + n.val)
  | .latch n => BitVec.ofNat 8 (0xB0 + n.toNat)
  | .special x => BitVec.ofNat 8 (0xB4 + x.index)
  | .const i => (3 : BitVec 2) ++ i

/-- R61: the source of a code; every code names one. -/
def Src.ofCode (c : BitVec 8) : Src :=
  if c.toNat < 0x80 then .v (c.extractLsb' 0 7)
  else if h : c.toNat - 0x80 < 48 then .s ⟨c.toNat - 0x80, h⟩
  else if c.toNat < 0xB4 then .latch (c.extractLsb' 0 2)
  else if c.toNat < 0xC0 then .special (Special.ofIndex (c.toNat - 0xB4))
  else .const (c.extractLsb' 0 6)

/-- R64: the code of a 7-bit operand. -/
def SOp.code : SOp → BitVec 7
  | .s n => BitVec.ofNat 7 n.val
  | .special x => BitVec.ofNat 7 (0x30 + x.index)
  | .const i => (1 : BitVec 1) ++ i

/-- R64: the 7-bit operand of a code; codes 0x3C to 0x3F name none. -/
def SOp.ofCode? (c : BitVec 7) : Option SOp :=
  if h : c.toNat < 48 then some (.s ⟨c.toNat, h⟩)
  else if c.toNat < 0x3C then some (.special (Special.ofIndex (c.toNat - 0x30)))
  else if c.toNat < 0x40 then none
  else some (.const (c.extractLsb' 0 6))

/-- R64: a 6-bit scalar field names s0 to s47. -/
def SReg.code (n : SReg) : BitVec 6 := BitVec.ofNat 6 n.val

/-- R64: the scalar register of a 6-bit field. -/
def SReg.ofCode? (c : BitVec 6) : Option SReg :=
  if h : c.toNat < 48 then some ⟨c.toNat, h⟩ else none

/-- R91: the code of a scope. -/
def Scope.code : Scope → BitVec 2
  | .g => 0 | .h => 1 | .p => 2 | .y => 3

/-- R91: the scope of a code. -/
def Scope.ofCode (c : BitVec 2) : Scope :=
  if c = 0 then .g else if c = 1 then .h else if c = 2 then .p else .y

/-- R82: the code of an integer condition. -/
def ICond.code : ICond → BitVec 4
  | .eq => 0 | .ne => 1 | .lt => 2 | .le => 3 | .gt => 4 | .ge => 5 | .ltn => 6 | .len => 7 | .gtn => 8 | .gen => 9

/-- R82: the integer condition of a code. -/
def ICond.ofCode? (c : BitVec 4) : Option ICond :=
  match c.toNat with
  | 0 => some .eq | 1 => some .ne | 2 => some .lt | 3 => some .le | 4 => some .gt | 5 => some .ge
  | 6 => some .ltn | 7 => some .len | 8 => some .gtn | 9 => some .gen | _ => none

/-- R82: the code of a VCMP condition. -/
def Cond.code : Cond → BitVec 4
  | .int c => c.code | .feq => 0xA | .fne => 0xB | .flt => 0xC | .fle => 0xD | .fun_ => 0xE

/-- R82: the VCMP condition of a code; 0xF names none. -/
def Cond.ofCode? (c : BitVec 4) : Option Cond :=
  match c.toNat with
  | 0xA => some .feq | 0xB => some .fne | 0xC => some .flt | 0xD => some .fle | 0xE => some .fun_
  | 0xF => none
  | _ => (ICond.ofCode? c).map Cond.int

/-- R84: the code of a conversion type. -/
def CvtType.code : CvtType → BitVec 4
  | .i32 => 0 | .n32 => 1 | .f32 => 2 | .f16 => 3 | .bf16 => 4 | .e4m3 => 5 | .e5m2 => 6 | .e2m1 => 7
  | .i8 => 8 | .n8 => 9 | .i16 => 0xA | .n16 => 0xB | .f64 => 0xC | .i4 => 0xD

/-- R84: the conversion type of a code. -/
def CvtType.ofCode? (c : BitVec 4) : Option CvtType :=
  match c.toNat with
  | 0 => some .i32 | 1 => some .n32 | 2 => some .f32 | 3 => some .f16 | 4 => some .bf16 | 5 => some .e4m3
  | 6 => some .e5m2 | 7 => some .e2m1 | 8 => some .i8 | 9 => some .n8 | 0xA => some .i16 | 0xB => some .n16
  | 0xC => some .f64 | 0xD => some .i4 | _ => none

/-- R84: the code of a QPACK type. -/
def PackType.code : PackType → BitVec 4
  | .e4m3 => 5 | .e5m2 => 6 | .e2m1 => 7 | .i8 => 8 | .i4 => 0xD

/-- R84: the QPACK type of a code. -/
def PackType.ofCode? (c : BitVec 4) : Option PackType :=
  match c.toNat with
  | 5 => some .e4m3 | 6 => some .e5m2 | 7 => some .e2m1 | 8 => some .i8 | 0xD => some .i4 | _ => none

/-- R85: the code of a cross-lane type. -/
def XType.code : XType → BitVec 2
  | .i32 => 0 | .n32 => 1 | .f32 => 2

/-- R85: the cross-lane type of a code. -/
def XType.ofCode? (c : BitVec 2) : Option XType :=
  if c = 0 then some .i32 else if c = 1 then some .n32 else if c = 2 then some .f32 else none

/-- R89: the code of an access size. -/
def Size.code : Size → BitVec 3
  | .n8 => 0 | .i8 => 1 | .n16 => 2 | .i16 => 3 | .word => 4 | .double => 5 | .quad => 6

/-- R89: the access size of a code other than 7. -/
def Size.ofCode? (c : BitVec 3) : Option Size :=
  match c.toNat with
  | 0 => some .n8 | 1 => some .i8 | 2 => some .n16 | 3 => some .i16 | 4 => some .word | 5 => some .double
  | 6 => some .quad | _ => none

/-- R92: the code of an MMA format. -/
def MmaFmt.code : MmaFmt → BitVec 4
  | .fp64 => 0 | .fp32 => 1 | .fp16 => 2 | .bf16 => 3 | .int8 => 4 | .int4 => 5 | .blk => 6 | .blk24 => 7

/-- R92: the MMA format of a code. -/
def MmaFmt.ofCode? (c : BitVec 4) : Option MmaFmt :=
  match c.toNat with
  | 0 => some .fp64 | 1 => some .fp32 | 2 => some .fp16 | 3 => some .bf16 | 4 => some .int8 | 5 => some .int4
  | 6 => some .blk | 7 => some .blk24 | _ => none

/-- R141: the number of a control register. -/
def CtrlReg.code : CtrlReg → BitVec 8
  | .cause => 0 | .frame => 1 | .landBase => 2 | .trapBase => 3 | .preq => 4 | .deadline => 5
  | .phaseCnt => 6 | .seed => 7 | .rptIdx => 8 | .round => 9 | .fpFlags => 0xA | .trapEn => 0xB

/-- R88, R141: the control register of a number. -/
def CtrlReg.ofCode? (c : BitVec 8) : Option CtrlReg :=
  match c.toNat with
  | 0 => some .cause | 1 => some .frame | 2 => some .landBase | 3 => some .trapBase | 4 => some .preq
  | 5 => some .deadline | 6 => some .phaseCnt | 7 => some .seed | 8 => some .rptIdx | 9 => some .round
  | 0xA => some .fpFlags | 0xB => some .trapEn | _ => none

/-- A one-bit field. -/
def bit (b : Bool) : BitVec 1 := BitVec.ofBool b

/-- R60: a V word. -/
def encV (op : BitVec 6) (f : VForm) : Word := op ++ f.gd ++ bit f.wb ++ f.d ++ f.a.code ++ f.b.code

/-- R60: a U word. -/
def encU (op : BitVec 6) (fn : BitVec 8) (f : UForm) : Word := op ++ f.gd ++ bit f.wb ++ f.d ++ fn ++ f.a.code

/-- R60: an S word. -/
def encS (fn : BitVec 6) (f : SForm) : Word := (0x28 : BitVec 6) ++ fn ++ f.d.code ++ f.a.code ++ f.b.code

/-- R60: a J word. -/
def encJ (kind : BitVec 3) (sel : BitVec 6) (off : BitVec 17) : Word := (0x2A : BitVec 6) ++ kind ++ sel ++ off

/-- R60: a C word. -/
def encC (fn : BitVec 6) (x : BitVec 8) (y : BitVec 12) : Word := (0x2B : BitVec 6) ++ fn ++ x ++ y

/-- R60: an LD or ST word. -/
def encM (op : BitVec 6) (f : MForm) : Word := op ++ f.gd ++ f.size.code ++ f.d ++ f.tb ++ f.x.code ++ f.imm

/-- R60: a scratchpad or private access word; `dir` is its direction. -/
def encL (op : BitVec 6) (dir : BitVec 1) (f : LForm) : Word :=
  op ++ f.gd ++ f.size.code ++ f.d ++ dir ++ (0 : BitVec 2) ++ f.x.code ++ f.imm

/-- R60: an A word. -/
def encA (fn : BitVec 5) (f : AForm) : Word :=
  (0x30 : BitVec 6) ++ f.gd ++ fn ++ bit f.wide ++ f.d ++ f.tb ++ f.x.code

/-- R60: an MC word. -/
def encMC (fn : BitVec 4) (sc : BitVec 2) (y : BitVec 20) : Word := (0x31 : BitVec 6) ++ fn ++ sc ++ y

/-- R60, R349: an MX word. -/
def encMX (f : MmaForm) : Word :=
  (0x32 : BitVec 6) ++ f.fmt.code ++ f.slot ++ bit f.asrc ++ f.atb ++ f.as.code ++ bit f.bsrc ++ f.btb ++ f.bs.code

/-- R60: an MY word. -/
def encMY (fn : BitVec 4) (z : BitVec 2) (t : BitVec 8) (y : BitVec 12) : Word := (0x33 : BitVec 6) ++ fn ++ z ++ t ++ y

/-- R60: an E word. -/
def encE (fn : BitVec 4) (e : BitVec 5) (k : BitVec 8) (s : SReg) : Word :=
  (0x34 : BitVec 6) ++ fn ++ e ++ k ++ s.code ++ (0 : BitVec 3)

/-- R60: an SY word. -/
def encSY (fn : BitVec 6) (d a b : BitVec 6) : Word := (0x35 : BitVec 6) ++ fn ++ d ++ a ++ b ++ (0 : BitVec 2)

/-- R60: a hint word. -/
def encH (kind : BitVec 4) (y : BitVec 22) : Word := (0x3F : BitVec 6) ++ kind ++ y

/-- R87: the sel6 field of a per-guard jump. -/
def guardSel (neg : Bool) (g : BitVec 3) : BitVec 6 := (0 : BitVec 2) ++ bit neg ++ g

/-- The word of an instruction (R58 to R95); an event has none. -/
def encode (i : Instr) : Option Word :=
  match i with
  | .iadd f => some (encV 0x1 f)
  | .isub f => some (encV 0x2 f)
  | .imul f => some (encV 0x3 f)
  | .imulh f => some (encV 0x4 f)
  | .imac f => some (encV 0x5 f)
  | .and f => some (encV 0x6 f)
  | .or f => some (encV 0x7 f)
  | .xor f => some (encV 0x8 f)
  | .shl f => some (encV 0x9 f)
  | .shr f => some (encV 0xa f)
  | .sar f => some (encV 0xb f)
  | .imin f => some (encV 0xc f)
  | .imax f => some (encV 0xd f)
  | .nmin f => some (encV 0xe f)
  | .nmax f => some (encV 0xf f)
  | .fadd f => some (encV 0x10 f)
  | .fmul f => some (encV 0x11 f)
  | .fmac f => some (encV 0x12 f)
  | .fmin f => some (encV 0x13 f)
  | .fmax f => some (encV 0x14 f)
  | .hadd2 f => some (encV 0x15 f)
  | .hmul2 f => some (encV 0x16 f)
  | .hmac2 f => some (encV 0x17 f)
  | .dadd f => some (encV 0x18 f)
  | .dmul f => some (encV 0x19 f)
  | .dmac f => some (encV 0x1a f)
  | .sel f => some (encV 0x1b f)
  | .bfx f => some (encV 0x1f f)
  | .bfi f => some (encV 0x20 f)
  | .shfi f => some (encV 0x21 f)
  | .shfu f => some (encV 0x22 f)
  | .shfd f => some (encV 0x23 f)
  | .shfx f => some (encV 0x24 f)
  | .topk f => some (encV 0x26 f)
  | .append f => some (encV 0x27 f)
  | .vcmp f => some ((0x1C : BitVec 6) ++ f.gd ++ (0 : BitVec 1) ++ f.c.code ++ f.k ++ f.a.code ++ f.b.code)
  | .mov f => some (encU 0x1D 0x0 f)
  | .not f => some (encU 0x1D 0x1 f)
  | .ineg f => some (encU 0x1D 0x2 f)
  | .iabs f => some (encU 0x1D 0x3 f)
  | .popc f => some (encU 0x1D 0x4 f)
  | .clz f => some (encU 0x1D 0x5 f)
  | .ctz f => some (encU 0x1D 0x6 f)
  | .brev f => some (encU 0x1D 0x7 f)
  | .bswap f => some (encU 0x1D 0x8 f)
  | .mov64 f => some (encU 0x1D 0x9 f)
  | .fneg f => some (encU 0x1D 0x10 f)
  | .fabs f => some (encU 0x1D 0x11 f)
  | .frcp f => some (encU 0x1D 0x12 f)
  | .frsq f => some (encU 0x1D 0x13 f)
  | .fsqrt f => some (encU 0x1D 0x14 f)
  | .fexp2 f => some (encU 0x1D 0x15 f)
  | .flog2 f => some (encU 0x1D 0x16 f)
  | .fsin f => some (encU 0x1D 0x17 f)
  | .fcos f => some (encU 0x1D 0x18 f)
  | .ftanh f => some (encU 0x1D 0x19 f)
  | .ffloor f => some (encU 0x1D 0x1a f)
  | .fceil f => some (encU 0x1D 0x1b f)
  | .ftrunc f => some (encU 0x1D 0x1c f)
  | .frint f => some (encU 0x1D 0x1d f)
  | .fclass f => some (encU 0x1D 0x1e f)
  | .dneg f => some (encU 0x1D 0x20 f)
  | .dabs f => some (encU 0x1D 0x21 f)
  | .dsqrt f => some (encU 0x1D 0x22 f)
  | .drcp f => some (encU 0x1D 0x23 f)
  | .hneg2 f => some (encU 0x1D 0x30 f)
  | .habs2 f => some (encU 0x1D 0x31 f)
  | .vcvt t u f => some (encU 0x1E (t.code ++ u.code) f)
  | .qpack t f => some (encU 0x1E ((0xF : BitVec 4) ++ t.code) f)
  | .ballot f => some (encU 0x25 0x00 f)
  | .vany f => some (encU 0x25 0x10 f)
  | .vall f => some (encU 0x25 0x20 f)
  | .first f => some (encU 0x25 0x30 f)
  | .psum t x f => some (encU 0x25 ((4 : BitVec 4) ++ t.code ++ bit x ++ (0 : BitVec 1)) f)
  | .rsum t f => some (encU 0x25 ((5 : BitVec 4) ++ t.code ++ (0 : BitVec 2)) f)
  | .rmin t f => some (encU 0x25 ((6 : BitVec 4) ++ t.code ++ (0 : BitVec 2)) f)
  | .rmax t f => some (encU 0x25 ((7 : BitVec 4) ++ t.code ++ (0 : BitVec 2)) f)
  | .sadd f => some (encS 0x0 f)
  | .ssub f => some (encS 0x1 f)
  | .smul f => some (encS 0x2 f)
  | .smulh f => some (encS 0x3 f)
  | .sand f => some (encS 0x4 f)
  | .sor f => some (encS 0x5 f)
  | .sxor f => some (encS 0x6 f)
  | .sshl f => some (encS 0x7 f)
  | .sshr f => some (encS 0x8 f)
  | .ssar f => some (encS 0x9 f)
  | .smin f => some (encS 0xa f)
  | .smax f => some (encS 0xb f)
  | .snmin f => some (encS 0xc f)
  | .snmax f => some (encS 0xd f)
  | .sadd64 f => some (encS 0xe f)
  | .ssub64 f => some (encS 0xf f)
  | .scmp c f => some (encS (BitVec.ofNat 6 (0x10 + c.code.toNat)) f)
  | .srdv d a b => some ((0x28 : BitVec 6) ++ (0x20 : BitVec 6) ++ d.code ++ a.code ++ b)
  | .sli d imm => some ((0x29 : BitVec 6) ++ (0 : BitVec 2) ++ d.code ++ imm)
  | .slui d imm => some ((0x29 : BitVec 6) ++ (1 : BitVec 2) ++ d.code ++ imm)
  | .saddi d imm => some ((0x29 : BitVec 6) ++ (2 : BitVec 2) ++ d.code ++ imm)
  | .jmp off => some (encJ 0 0 off)
  | .jsz s off => some (encJ 1 s.code off)
  | .jsnz s off => some (encJ 2 s.code off)
  | .jg n g off => some (encJ 3 (guardSel n g) off)
  | .jgx n g off => some (encJ 4 (guardSel n g) off)
  | .call s off => some (encJ 5 s.code off)
  | .jany n g off => some (encJ 6 (guardSel n g) off)
  | .jall n g off => some (encJ 7 (guardSel n g) off)
  | .exit => some (encC 0x00 0 0)
  | .yield => some (encC 0x01 0 0)
  | .pyield => some (encC 0x02 0 0)
  | .splice off => some ((0x2B : BitVec 6) ++ (0x03 : BitVec 6) ++ off)
  | .region => some (encC 0x04 0 0)
  | .calli v s => some (encC 0x05 ((0 : BitVec 1) ++ v) ((0 : BitVec 6) ++ s.code))
  | .ret s => some (encC 0x06 ((0 : BitVec 2) ++ s.code) 0)
  | .waitk k => some (encC 0x07 k 0)
  | .yieldk k off => some (encC 0x08 k off)
  | .kinit k x => some (encC 0x09 k ((0 : BitVec 5) ++ x.code))
  | .ktie k s => some (encC 0x0A k ((0 : BitVec 5) ++ SOp.code (.s s)))
  | .bar n => some (encC 0x0B ((0 : BitVec 4) ++ n) 0)
  | .bara n => some (encC 0x0C ((0 : BitVec 4) ++ n) 0)
  | .barw n => some (encC 0x0D ((0 : BitVec 4) ++ n) 0)
  | .getxm d => some (encC 0x0E 0 ((0 : BitVec 6) ++ d.code))
  | .setxm x => some (encC 0x0F 0 ((0 : BitVec 5) ++ x.code))
  | .setxp c => some (encC 0x10 0 ((0 : BitVec 9) ++ c))
  | .trap code => some ((0x2B : BitVec 6) ++ (0x11 : BitVec 6) ++ code)
  | .tret => some (encC 0x12 0 0)
  | .emuret => some (encC 0x13 0 0)
  | .getc c d => some (encC 0x14 c.code ((0 : BitVec 6) ++ d.code))
  | .setc c x => some (encC 0x15 c.code ((0 : BitVec 5) ++ x.code))
  | .rdx f w h v => some (encC 0x16 ((0 : BitVec 2) ++ f ++ w) ((0 : BitVec 4) ++ bit h ++ v))
  | .wrx f w h v => some (encC 0x17 ((0 : BitVec 2) ++ f ++ w) ((0 : BitVec 4) ++ bit h ++ v))
  | .ld f => some (encM 0x2C f)
  | .sld d tb x imm =>
    some ((0x2C : BitVec 6) ++ (0 : BitVec 2) ++ (7 : BitVec 3) ++ (0 : BitVec 1) ++ d.code ++ tb ++ x.code ++ imm)
  | .st f => some (encM 0x2D f)
  | .lds f => some (encL 0x2E 0 f)
  | .sts f => some (encL 0x2E 1 f)
  | .ldp f => some (encL 0x2F 0 f)
  | .stp f => some (encL 0x2F 1 f)
  | .atomSwap f => some (encA 0x0 f)
  | .atomAdd f => some (encA 0x1 f)
  | .atomAnd f => some (encA 0x2 f)
  | .atomOr f => some (encA 0x3 f)
  | .atomXor f => some (encA 0x4 f)
  | .atomMin f => some (encA 0x5 f)
  | .atomMax f => some (encA 0x6 f)
  | .atomNmin f => some (encA 0x7 f)
  | .atomNmax f => some (encA 0x8 f)
  | .atomCas f => some (encA 0x9 f)
  | .atomFadd f => some (encA 0xa f)
  | .atomLoad f => some (encA 0xb f)
  | .atomStore f => some (encA 0xc f)
  | .tbset tb p l => some (encMC 0x0 0 (tb ++ p.code ++ l.code ++ (0 : BitVec 5)))
  | .commitAt sc => some (encMC 0x1 sc.code 0)
  | .beginAt sc => some (encMC 0x2 sc.code 0)
  | .fence sc => some (encMC 0x3 sc.code 0)
  | .drain sc => some (encMC 0x4 sc.code 0)
  | .discard tb o c => some (encMC 0x5 0 (tb ++ o.code ++ c.code ++ (0 : BitVec 5)))
  | .pfetch tb x => some (encMC 0x6 0 (tb ++ x.code ++ (0 : BitVec 9)))
  | .watch tb o => some (encMC 0x7 0 (tb ++ o.code ++ (0 : BitVec 11)))
  | .waitw => some (encMC 0x8 0 0)
  | .stepCounter x => some (encMC 0x9 0 (x.code ++ (0 : BitVec 13)))
  | .mma f => some (encMX f)
  | .zero z t => some (encMY 0x0 z t 0)
  | .drainSlot z => some (encMY 0x1 z 0 0)
  | .fold z => some (encMY 0x2 z 0 0)
  | .accrd z v row => some (encMY 0x3 z 0 (v ++ row))
  | .accwr z v row => some (encMY 0x4 z 0 (v ++ row))
  | .accld t s => some (encMY 0x5 0 t (s.code ++ (0 : BitVec 6)))
  | .accst t s => some (encMY 0x6 0 t (s.code ++ (0 : BitVec 6)))
  | .galst z s => some (encMY 0x7 z 0 (s.code ++ (0 : BitVec 6)))
  | .stair k s => some (encE 0x0 0 k s)
  | .stairg k s => some (encE 0x1 0 k s)
  | .hoist e k s => some (encE 0x2 e k s)
  | .braid e k s => some (encE 0x3 e k s)
  | .cmpr e k s => some (encE 0x4 e k s)
  | .dcmp e k s => some (encE 0x5 e k s)
  | .kquery k d => some (encE 0x6 0 k d)
  | .launch d a => some (encSY 0x00 d.code a.code 0)
  | .lquery d a => some (encSY 0x01 d.code a.code 0)
  | .publish d a b => some (encSY 0x02 d.code a.code b.code)
  | .bindSlot d a b => some (encSY 0x03 d.code a.code b.code)
  | .unbind d a b => some (encSY 0x04 d.code a.code b.code)
  | .unbindReleaseHold d a b => some (encSY 0x04 d.code a.code b.code)
  | .place d a b => some (encSY 0x05 d.code a.code b.code)
  | .preempt d a b => some (encSY 0x06 d.code a.code b.code)
  | .pcancel d a => some (encSY 0x07 d.code a.code 0)
  | .exportCtx d a => some (encSY 0x08 d.code a.code 0)
  | .importCtx d a => some (encSY 0x09 d.code a.code 0)
  | .seal d a => some (encSY 0x0A d.code a.code 0)
  | .cntrd d a => some (encSY 0x0B d.code a.code 0)
  | .imm i => some (encH 0x0 i)
  | .grd n g => some (encH 0x1 ((0 : BitVec 18) ++ bit n ++ g))
  | .src3 n ab x => some (encH 0x2 ((0 : BitVec 12) ++ bit n ++ bit ab ++ x.code))
  | .modh f =>
    some (encH 0x3 (f.rnd ++ bit f.sat ++ bit f.nt ++ bit f.bf ++ f.scope ++ bit f.acq ++ bit f.rel ++ (0 : BitVec 11)))
  | .rep n d a b => some (encH 0x4 (n ++ d ++ a ++ b ++ (0 : BitVec 10)))
  | .sched st y r => some (encH 0x5 ((0 : BitVec 1) ++ st ++ bit y ++ r ++ (0 : BitVec 11)))
  | .live l => some (encH 0x5 ((1 : BitVec 1) ++ (0 : BitVec 5) ++ l))
  | _ => none

/-- The V form of a word. -/
def Word.vForm (w : Word) : VForm :=
  { gd := w.field 24 2, wb := w.getLsbD 23, d := w.field 16 7, a := Src.ofCode (w.field 8 8), b := Src.ofCode (w.field 0 8) }

/-- The U form of a word. -/
def Word.uForm (w : Word) : UForm :=
  { gd := w.field 24 2, wb := w.getLsbD 23, d := w.field 16 7, a := Src.ofCode (w.field 0 8) }

/-- An operand that may be absent: its absence is an invalid combination. -/
def orInvalid {α : Type} : Option α → Except Reject α
  | some x => .ok x
  | none => .error .invalidCombination

/-- The S form of a word. -/
def Word.sForm (w : Word) : Except Reject SForm := do
  let d ← orInvalid (SReg.ofCode? (w.field 14 6))
  let a ← orInvalid (SOp.ofCode? (w.field 7 7))
  let b ← orInvalid (SOp.ofCode? (w.field 0 7))
  .ok { d := d, a := a, b := b }

/-- The M form of a word whose size code is not 7. -/
def Word.mForm (w : Word) : Except Reject MForm := do
  let z ← orInvalid (Size.ofCode? (w.field 21 3))
  .ok { gd := w.field 24 2, size := z, d := w.field 14 7, tb := w.field 11 3, x := Src.ofCode (w.field 3 8), imm := w.field 0 3 }

/-- The form of a scratchpad or private access. -/
def Word.lForm (w : Word) : Except Reject LForm := do
  let z ← orInvalid (Size.ofCode? (w.field 21 3))
  .ok { gd := w.field 24 2, size := z, d := w.field 14 7, x := Src.ofCode (w.field 3 8), imm := w.field 0 3 }

/-- The A form of a word. -/
def Word.aForm (w : Word) : AForm :=
  { gd := w.field 24 2, wide := w.getLsbD 18, d := w.field 11 7, tb := w.field 8 3, x := Src.ofCode (w.field 0 8) }

/-- A 6-bit scalar field of a word. -/
def Word.sreg (w : Word) (lo : Nat) : Except Reject SReg := orInvalid (SReg.ofCode? (w.field lo 6))

/-- A 7-bit operand field of a word. -/
def Word.sop (w : Word) (lo : Nat) : Except Reject SOp := orInvalid (SOp.ofCode? (w.field lo 7))

/-- A negation bit and a guard of a sel6 field. -/
def Word.selNeg (w : Word) : Bool := w.getLsbD 20

/-- The guard of a sel6 field. -/
def Word.selGuard (w : Word) : BitVec 3 := w.field 17 3

/-- R83: the VUN family. -/
def decodeVun (w : Word) : Except Reject Instr :=
  match (w.field 8 8).toNat with
  | 0x0 => .ok (.mov w.uForm)
  | 0x1 => .ok (.not w.uForm)
  | 0x2 => .ok (.ineg w.uForm)
  | 0x3 => .ok (.iabs w.uForm)
  | 0x4 => .ok (.popc w.uForm)
  | 0x5 => .ok (.clz w.uForm)
  | 0x6 => .ok (.ctz w.uForm)
  | 0x7 => .ok (.brev w.uForm)
  | 0x8 => .ok (.bswap w.uForm)
  | 0x9 => .ok (.mov64 w.uForm)
  | 0x10 => .ok (.fneg w.uForm)
  | 0x11 => .ok (.fabs w.uForm)
  | 0x12 => .ok (.frcp w.uForm)
  | 0x13 => .ok (.frsq w.uForm)
  | 0x14 => .ok (.fsqrt w.uForm)
  | 0x15 => .ok (.fexp2 w.uForm)
  | 0x16 => .ok (.flog2 w.uForm)
  | 0x17 => .ok (.fsin w.uForm)
  | 0x18 => .ok (.fcos w.uForm)
  | 0x19 => .ok (.ftanh w.uForm)
  | 0x1a => .ok (.ffloor w.uForm)
  | 0x1b => .ok (.fceil w.uForm)
  | 0x1c => .ok (.ftrunc w.uForm)
  | 0x1d => .ok (.frint w.uForm)
  | 0x1e => .ok (.fclass w.uForm)
  | 0x20 => .ok (.dneg w.uForm)
  | 0x21 => .ok (.dabs w.uForm)
  | 0x22 => .ok (.dsqrt w.uForm)
  | 0x23 => .ok (.drcp w.uForm)
  | 0x30 => .ok (.hneg2 w.uForm)
  | 0x31 => .ok (.habs2 w.uForm)
  | _ => .error .undefinedCode

/-- R84: the VCVT family. -/
def decodeVcvt (w : Word) : Except Reject Instr :=
  let lo := w.field 8 4
  let hi := w.field 12 4
  if hi = 0xF then
    match PackType.ofCode? lo with
    | some t => .ok (.qpack t w.uForm)
    | none => .error .undefinedCode
  else
    match CvtType.ofCode? hi, CvtType.ofCode? lo with
    | some t, some u => if t = u then .error .undefinedCode else .ok (.vcvt t u w.uForm)
    | _, _ => .error .undefinedCode

/-- R85: the XLANE family. -/
def decodeXlane (w : Word) : Except Reject Instr :=
  match (w.field 12 4).toNat with
  | 0 => .ok (.ballot w.uForm)
  | 1 => .ok (.vany w.uForm)
  | 2 => .ok (.vall w.uForm)
  | 3 => .ok (.first w.uForm)
  | 4 => do let t ← orInvalid (XType.ofCode? (w.field 10 2)); .ok (.psum t (w.getLsbD 9) w.uForm)
  | 5 => do let t ← orInvalid (XType.ofCode? (w.field 10 2)); .ok (.rsum t w.uForm)
  | 6 => do let t ← orInvalid (XType.ofCode? (w.field 10 2)); .ok (.rmin t w.uForm)
  | 7 => do let t ← orInvalid (XType.ofCode? (w.field 10 2)); .ok (.rmax t w.uForm)
  | _ => .error .undefinedCode

/-- R86: the scalar ALU family. -/
def decodeScalar (w : Word) : Except Reject Instr :=
  match (w.field 20 6).toNat with
  | 0x0 => w.sForm.map Instr.sadd
  | 0x1 => w.sForm.map Instr.ssub
  | 0x2 => w.sForm.map Instr.smul
  | 0x3 => w.sForm.map Instr.smulh
  | 0x4 => w.sForm.map Instr.sand
  | 0x5 => w.sForm.map Instr.sor
  | 0x6 => w.sForm.map Instr.sxor
  | 0x7 => w.sForm.map Instr.sshl
  | 0x8 => w.sForm.map Instr.sshr
  | 0x9 => w.sForm.map Instr.ssar
  | 0xa => w.sForm.map Instr.smin
  | 0xb => w.sForm.map Instr.smax
  | 0xc => w.sForm.map Instr.snmin
  | 0xd => w.sForm.map Instr.snmax
  | 0xe => w.sForm.map Instr.sadd64
  | 0xf => w.sForm.map Instr.ssub64
  | 0x20 => do let d ← w.sreg 14; let a ← w.sop 7; .ok (.srdv d a (w.field 0 7))
  | _ =>
    if (w.field 24 2) = 1 then
      match ICond.ofCode? (w.field 20 4) with
      | some c => w.sForm.map (Instr.scmp c)
      | none => .error .undefinedCode
    else .error .undefinedCode

/-- R86: the SI family. -/
def decodeSi (w : Word) : Except Reject Instr :=
  match (w.field 24 2).toNat with
  | 0 => do let d ← w.sreg 18; .ok (.sli d (w.field 0 18))
  | 1 => do let d ← w.sreg 18; .ok (.slui d (w.field 0 18))
  | 2 => do let d ← w.sreg 18; .ok (.saddi d (w.field 0 18))
  | _ => .error .undefinedCode

/-- R87: the JMP family. -/
def decodeJump (w : Word) : Except Reject Instr :=
  let off : BitVec 17 := w.field 0 17
  match (w.field 23 3).toNat with
  | 0 => .ok (.jmp off)
  | 1 => do let s ← w.sreg 17; .ok (.jsz s off)
  | 2 => do let s ← w.sreg 17; .ok (.jsnz s off)
  | 3 => .ok (.jg w.selNeg w.selGuard off)
  | 4 => .ok (.jgx w.selNeg w.selGuard off)
  | 5 => do let s ← w.sreg 17; .ok (.call s off)
  | 6 => .ok (.jany w.selNeg w.selGuard off)
  | _ => .ok (.jall w.selNeg w.selGuard off)

/-- R88: the CTL family. -/
def decodeCtl (w : Word) : Except Reject Instr :=
  let x : BitVec 8 := w.field 12 8
  match (w.field 20 6).toNat with
  | 0x00 => .ok .exit
  | 0x01 => .ok .yield
  | 0x02 => .ok .pyield
  | 0x03 => .ok (.splice (w.field 0 20))
  | 0x04 => .ok .region
  | 0x05 => do let s ← w.sreg 0; .ok (.calli (w.field 12 7) s)
  | 0x06 => do let s ← w.sreg 12; .ok (.ret s)
  | 0x07 => .ok (.waitk x)
  | 0x08 => .ok (.yieldk x (w.field 0 12))
  | 0x09 => do let v ← w.sop 0; .ok (.kinit x v)
  | 0x0A => do
    match ← w.sop 0 with
    | .s n => .ok (.ktie x n)
    | .special _ => .error .invalidCombination
    | .const _ => .error .invalidCombination
  | 0x0B => .ok (.bar (w.field 12 4))
  | 0x0C => .ok (.bara (w.field 12 4))
  | 0x0D => .ok (.barw (w.field 12 4))
  | 0x0E => do let d ← w.sreg 0; .ok (.getxm d)
  | 0x0F => do let v ← w.sop 0; .ok (.setxm v)
  | 0x10 => .ok (.setxp (w.field 0 3))
  | 0x11 => .ok (.trap (w.field 0 20))
  | 0x12 => .ok .tret
  | 0x13 => .ok .emuret
  | 0x14 => do let c ← orInvalid (CtrlReg.ofCode? x); let d ← w.sreg 0; .ok (.getc c d)
  | 0x15 => do let c ← orInvalid (CtrlReg.ofCode? x); let v ← w.sop 0; .ok (.setc c v)
  | 0x16 => .ok (.rdx (w.field 15 3) (w.field 12 3) (w.getLsbD 7) (w.field 0 7))
  | 0x17 => .ok (.wrx (w.field 15 3) (w.field 12 3) (w.getLsbD 7) (w.field 0 7))
  | _ => .error .undefinedCode

/-- R89: major 0x2C. -/
def decodeLd (w : Word) : Except Reject Instr :=
  if (w.field 21 3) = 7 then do
    let d ← w.sreg 14
    .ok (.sld d (w.field 11 3) (Src.ofCode (w.field 3 8)) (w.field 0 3))
  else w.mForm.map Instr.ld

/-- R90: the ATOM family. -/
def decodeAtom (w : Word) : Except Reject Instr :=
  match (w.field 19 5).toNat with
  | 0x0 => .ok (.atomSwap w.aForm)
  | 0x1 => .ok (.atomAdd w.aForm)
  | 0x2 => .ok (.atomAnd w.aForm)
  | 0x3 => .ok (.atomOr w.aForm)
  | 0x4 => .ok (.atomXor w.aForm)
  | 0x5 => .ok (.atomMin w.aForm)
  | 0x6 => .ok (.atomMax w.aForm)
  | 0x7 => .ok (.atomNmin w.aForm)
  | 0x8 => .ok (.atomNmax w.aForm)
  | 0x9 => .ok (.atomCas w.aForm)
  | 0xa => .ok (.atomFadd w.aForm)
  | 0xb => .ok (.atomLoad w.aForm)
  | 0xc => .ok (.atomStore w.aForm)
  | _ => .error .undefinedCode

/-- R91: the MEMCTL family. -/
def decodeMemctl (w : Word) : Except Reject Instr :=
  let sc := Scope.ofCode (w.field 20 2)
  let tb : BitVec 3 := w.field 17 3
  match (w.field 22 4).toNat with
  | 0x0 => do let p ← w.sreg 11; let l ← w.sreg 5; .ok (.tbset tb p l)
  | 0x1 => .ok (.commitAt sc)
  | 0x2 => .ok (.beginAt sc)
  | 0x3 => .ok (.fence sc)
  | 0x4 => .ok (.drain sc)
  | 0x5 => do let o ← w.sreg 11; let c ← w.sreg 5; .ok (.discard tb o c)
  | 0x6 => .ok (.pfetch tb (Src.ofCode (w.field 9 8)))
  | 0x7 => do let o ← w.sreg 11; .ok (.watch tb o)
  | 0x8 => .ok .waitw
  | 0x9 => do let x ← w.sop 13; .ok (.stepCounter x)
  | _ => .error .undefinedCode

/-- R92, R349: MMA. -/
def decodeMma (w : Word) : Except Reject Instr :=
  match MmaFmt.ofCode? (w.field 22 4) with
  | none => .error .undefinedCode
  | some fmt => do
    let a ← w.sreg 10
    let b ← w.sreg 0
    .ok (.mma { fmt := fmt, slot := w.field 20 2, asrc := w.getLsbD 19, atb := w.field 16 3, as := a,
                bsrc := w.getLsbD 9, btb := w.field 6 3, bs := b })

/-- R93: the MATCTL family. -/
def decodeMatctl (w : Word) : Except Reject Instr :=
  let z : BitVec 2 := w.field 20 2
  let t : BitVec 8 := w.field 12 8
  match (w.field 22 4).toNat with
  | 0x0 => .ok (.zero z t)
  | 0x1 => .ok (.drainSlot z)
  | 0x2 => .ok (.fold z)
  | 0x3 => .ok (.accrd z (w.field 5 7) (w.field 0 5))
  | 0x4 => .ok (.accwr z (w.field 5 7) (w.field 0 5))
  | 0x5 => do let s ← w.sreg 6; .ok (.accld t s)
  | 0x6 => do let s ← w.sreg 6; .ok (.accst t s)
  | 0x7 => do let s ← w.sreg 6; .ok (.galst z s)
  | _ => .error .undefinedCode

/-- R94: the ENGINE family. -/
def decodeEngine (w : Word) : Except Reject Instr :=
  let e : BitVec 5 := w.field 17 5
  let k : BitVec 8 := w.field 9 8
  match (w.field 22 4).toNat with
  | 0x0 => do let s ← w.sreg 3; .ok (.stair k s)
  | 0x1 => do let s ← w.sreg 3; .ok (.stairg k s)
  | 0x2 => do let s ← w.sreg 3; .ok (.hoist e k s)
  | 0x3 => do let s ← w.sreg 3; .ok (.braid e k s)
  | 0x4 => do let s ← w.sreg 3; .ok (.cmpr e k s)
  | 0x5 => do let s ← w.sreg 3; .ok (.dcmp e k s)
  | 0x6 => do let s ← w.sreg 3; .ok (.kquery k s)
  | _ => .error .undefinedCode

/-- Two scalar registers of a SYS word. -/
def Word.sysTwo (w : Word) (f : SReg → SReg → Instr) : Except Reject Instr := do
  let d ← w.sreg 14
  let a ← w.sreg 8
  .ok (f d a)

/-- Three scalar registers of a SYS word. -/
def Word.sysThree (w : Word) (f : SReg → SReg → SReg → Instr) : Except Reject Instr := do
  let d ← w.sreg 14
  let a ← w.sreg 8
  let b ← w.sreg 2
  .ok (f d a b)

/-- R95: the SYS family. -/
def decodeSys (w : Word) : Except Reject Instr :=
  match (w.field 20 6).toNat with
  | 0x00 => w.sysTwo .launch
  | 0x01 => w.sysTwo .lquery
  | 0x02 => w.sysThree .publish
  | 0x03 => w.sysThree .bindSlot
  | 0x04 => w.sysThree .unbind
  | 0x05 => w.sysThree .place
  | 0x06 => w.sysThree .preempt
  | 0x07 => w.sysTwo .pcancel
  | 0x08 => w.sysTwo .exportCtx
  | 0x09 => w.sysTwo .importCtx
  | 0x0A => w.sysTwo .seal
  | 0x0B => w.sysTwo .cntrd
  | _ => .error .undefinedCode

/-- R74: the hints. -/
def decodeHint (w : Word) : Except Reject Instr :=
  match (w.field 22 4).toNat with
  | 0x0 => .ok (.imm (w.field 0 22))
  | 0x1 => .ok (.grd (w.getLsbD 3) (w.field 0 3))
  | 0x2 => .ok (.src3 (w.getLsbD 9) (w.getLsbD 8) (Src.ofCode (w.field 0 8)))
  | 0x3 => .ok (.modh { rnd := w.field 19 3, sat := w.getLsbD 18, nt := w.getLsbD 17, bf := w.getLsbD 16,
                        scope := w.field 13 3, acq := w.getLsbD 12, rel := w.getLsbD 11 })
  | 0x4 => .ok (.rep (w.field 16 6) (w.field 14 2) (w.field 12 2) (w.field 10 2))
  | 0x5 => if w.getLsbD 21 then .ok (.live (w.field 0 16)) else .ok (.sched (w.field 15 6) (w.getLsbD 14) (w.field 11 3))
  | _ => .error .invalidCombination

/-- The instruction a word's fields name, before the checks on its fields. -/
def decodeFields (w : Word) : Except Reject Instr :=
  match (w.field 26 6).toNat with
  | 0x1 => .ok (.iadd w.vForm)
  | 0x2 => .ok (.isub w.vForm)
  | 0x3 => .ok (.imul w.vForm)
  | 0x4 => .ok (.imulh w.vForm)
  | 0x5 => .ok (.imac w.vForm)
  | 0x6 => .ok (.and w.vForm)
  | 0x7 => .ok (.or w.vForm)
  | 0x8 => .ok (.xor w.vForm)
  | 0x9 => .ok (.shl w.vForm)
  | 0xa => .ok (.shr w.vForm)
  | 0xb => .ok (.sar w.vForm)
  | 0xc => .ok (.imin w.vForm)
  | 0xd => .ok (.imax w.vForm)
  | 0xe => .ok (.nmin w.vForm)
  | 0xf => .ok (.nmax w.vForm)
  | 0x10 => .ok (.fadd w.vForm)
  | 0x11 => .ok (.fmul w.vForm)
  | 0x12 => .ok (.fmac w.vForm)
  | 0x13 => .ok (.fmin w.vForm)
  | 0x14 => .ok (.fmax w.vForm)
  | 0x15 => .ok (.hadd2 w.vForm)
  | 0x16 => .ok (.hmul2 w.vForm)
  | 0x17 => .ok (.hmac2 w.vForm)
  | 0x18 => .ok (.dadd w.vForm)
  | 0x19 => .ok (.dmul w.vForm)
  | 0x1a => .ok (.dmac w.vForm)
  | 0x1b => .ok (.sel w.vForm)
  | 0x1c => do
    let c ← orInvalid (Cond.ofCode? (w.field 19 4))
    .ok (.vcmp { gd := w.field 24 2, c := c, k := w.field 16 3, a := Src.ofCode (w.field 8 8), b := Src.ofCode (w.field 0 8) })
  | 0x1d => decodeVun w
  | 0x1e => decodeVcvt w
  | 0x25 => decodeXlane w
  | 0x1f => .ok (.bfx w.vForm)
  | 0x20 => .ok (.bfi w.vForm)
  | 0x21 => .ok (.shfi w.vForm)
  | 0x22 => .ok (.shfu w.vForm)
  | 0x23 => .ok (.shfd w.vForm)
  | 0x24 => .ok (.shfx w.vForm)
  | 0x26 => .ok (.topk w.vForm)
  | 0x27 => .ok (.append w.vForm)
  | 0x28 => decodeScalar w
  | 0x29 => decodeSi w
  | 0x2a => decodeJump w
  | 0x2b => decodeCtl w
  | 0x2c => decodeLd w
  | 0x2d => w.mForm.map Instr.st
  | 0x2e => if w.getLsbD 13 then w.lForm.map Instr.sts else w.lForm.map Instr.lds
  | 0x2f => if w.getLsbD 13 then w.lForm.map Instr.stp else w.lForm.map Instr.ldp
  | 0x30 => decodeAtom w
  | 0x31 => decodeMemctl w
  | 0x32 => decodeMma w
  | 0x33 => decodeMatctl w
  | 0x34 => decodeEngine w
  | 0x35 => decodeSys w
  | 0x3f => decodeHint w
  | _ => .error .undefinedCode

/-- R58 to R96: the instruction a word is. A word whose fields break a check of `Instr.wf`, or that is not
the word of the instruction its fields name (a reserved field that is not zero), is an invalid combination. -/
def decode (w : Word) : Except Reject Instr :=
  match decodeFields w with
  | .error e => .error e
  | .ok i => if i.wf && encode i == some w then .ok i else .error .invalidCombination

/-- R119: the Tamser 3.2 instructions that land under the compatibility flag. -/
def Instr.compatLands : Instr → Bool
  | .setxp _ => true
  | .vcvt t u _ => t == .e2m1 || t == .i4 || u == .e2m1 || u == .i4
  | .qpack _ _ => true
  | .topk _ | .append _ => true
  | .mma _ | .zero _ _ | .drainSlot _ | .fold _ | .accrd _ _ _ | .accwr _ _ _ | .accld _ _ | .accst _ _
  | .galst _ _ => true
  | .stair _ _ | .stairg _ _ | .hoist _ _ _ | .braid _ _ _ | .cmpr _ _ _ | .dcmp _ _ _ | .kquery _ _ => true
  | .launch _ _ | .lquery _ _ | .publish _ _ _ | .bindSlot _ _ _ | .unbind _ _ _ | .unbindReleaseHold _ _ _
  | .place _ _ _ | .preempt _ _ _ | .pcancel _ _ | .exportCtx _ _ | .importCtx _ _ | .seal _ _ | .cntrd _ _ => true
  | _ => false

/-- R99, R119: the instruction a word is for a group whose header has, or has not, the compatibility flag. -/
def decodeFor (compat : Bool) (w : Word) : Except Reject Instr :=
  match decode w with
  | .error e => .error e
  | .ok i => if compat && i.compatLands then .error .undefinedCode else .ok i

/-- R6, R58: the word of four bytes, lowest address first. -/
def wordOfBytes (b0 b1 b2 b3 : Byte) : Word := b3 ++ b2 ++ b1 ++ b0

/-- R6, R58: byte `n` of a word as memory holds it. -/
def Word.byteAt (w : Word) (n : Nat) : Byte := w.extractLsb' (8 * n) 8

/-- The instruction that the first four bytes of a list are, with the bytes that follow. -/
def decodeBytes : List Byte → Option (Except Reject Instr × List Byte)
  | b0 :: b1 :: b2 :: b3 :: rest => some (decode (wordOfBytes b0 b1 b2 b3), rest)
  | _ => none

/-- The opcode table numbers a word's bits as R60 does; its rows have one word. Bits beyond `nbits` are 0. -/
def tableWord (nbits w : Nat) : Word := BitVec.ofNat 32 (w % 2 ^ min nbits 32)

/-- The instruction that this decoder reads from a word of the opcode table. -/
def decodeTableWord (nbits w : Nat) : Option Instr :=
  let word := tableWord nbits w
  match decodeBytes [word.byteAt 0, word.byteAt 1, word.byteAt 2, word.byteAt 3] with
  | some (.ok i, _) => some i
  | _ => none

/-- R156: the 8-bit operand code of a 7-bit operand code. R156 gives none for 0x3C to 0x3F, which no valid word holds; a word that lands
with one shows it as x + 0x80 (log 49). -/
def packetOp (x : BitVec 7) : BitVec 8 :=
  if x.toNat < 0x30 then BitVec.ofNat 8 (0x80 + x.toNat)
  else if x.toNat < 0x3C then BitVec.ofNat 8 (x.toNat + 0x84)
  else BitVec.ofNat 8 (x.toNat + 0x80)

end Sys2Proof
end

