-- ==== Sys2Proof/Machine/State.lean ====
section
/-! DEFINITION. The state of the package: every piece of state the spec names, as plain data, the stops of
a step, and the state right after reset (INVENTORY.md lists each with its rule). -/

namespace Sys2Proof.Machine

/-- Bytes by key, addresses rising, no byte equal to 0, which an unlisted address reads as (log 3). -/
abbrev Mem := List Host.Cell

/-- Why a step stops for good. -/
inductive Fault
  /-- Raised by a word's meaning when no group is selected to issue it. Safe: nothing runs. -/
  | noGroup
  /-- Raised by `step` when no strand can issue and no event is due: the machine waits for the outside
  (a register write, a message, time). Safe: nothing runs. -/
  | idle
deriving DecidableEq, Repr

/-- Why the model declines an instruction. -/
inductive Refusal
  /-- Answered by `exec` for an instruction without a meaning yet. Safe: the run ends. -/
  | notModelled (mnemonic : String)
deriving DecidableEq, Repr

/-- R127: a code reference: object id and byte offset in its code region. -/
structure CodeRef where
  obj : Word
  off : Word
deriving DecidableEq, Repr

/-- R153: the causes, with their codes. -/
inductive Cause
  | undefinedWord | landingDepth | rights | badHandle | latchLost | illegalConvergence | page | access
  | stackLimit | scratchBound | align | format | carryFull | barrierUnreachable | callBudget | arith
  | software | engine | memoryError | integrity
deriving DecidableEq, Repr

/-- R257, R260: one combined translation of a page: virtual page base, bytes, physical key of the base (class
× 2^57 + address), whether each stage allows writing, and the attributes. `guest` is the guest-physical base, for stage-2 invalidation; `run1`
and `run2` say that it comes of a CONT run of that stage (R257); `more` is what the combined page holds beyond the leased region (R260, R270). -/
structure Xlate where
  va : Nat
  bytes : Nat
  key : Nat
  guest : Nat
  w1 : Bool
  w2 : Bool
  dsc : Bool
  shr : Bool
  cnt : Bool
  run1 : Bool := false
  run2 : Bool := false
  more : Nat := 0
deriving DecidableEq, Repr

/-- R260, R261: a translation base register and its hidden frame, with whether that has been released. -/
structure TbReg where
  base : DWord
  limit : Word
  wr : Bool
  dsc : Bool
  shr : Bool
  frame : Option Xlate
  released : Bool := false
deriving DecidableEq, Repr

/-- R140: the registers a group's programs name, but its masks. -/
structure Regs where
  v : Vector (Lanes Word) 128
  s : Vector Word 48
  g : Vector LaneMask 8
  xp : BitVec 3
  b : Vector (Lanes DWord) 4
  bOk : Vector Bool 4
  tb : Vector TbReg 8
deriving DecidableEq, Repr

/-- R141: the control registers. LANDBASE and TRAPBASE carry the object of the SETC that wrote them. -/
structure Ctrl where
  cause : BitVec 8
  frame : DWord
  landBase : CodeRef
  trapBase : CodeRef
  preq : Bool
  deadline : Word
  phaseCnt : Word
  seed : Word
  rptIdx : BitVec 6
  round : BitVec 3
  fpFlags : BitVec 5
  trapEn : BitVec 5
deriving DecidableEq, Repr

/-- R145: the kinds of a strand-table entry. -/
inductive EntryKind
  | strand | splice | miss
deriving DecidableEq, Repr

/-- R378: what a strand waits for. -/
inductive Wait
  | ready
  /-- R179: on a knot; `cont` is YIELDK's continuation. -/
  | knot (n : Nat) (cont : Option CodeRef)
  /-- R182: on the release of a generation of a barrier. -/
  | barrier (n gen : Nat)
  /-- R292: asleep in WAITW. -/
  | watch
  /-- R262: on a table walk. -/
  | walk
  /-- R306: on a full engine queue. -/
  | engineQueue
  /-- R160: on a full operand log. -/
  | logFull
  /-- R266: on a faulted access of the group. -/
  | fault
  /-- R148: a missing strand on its data. -/
  | data
  /-- R148: at a word that reads a register of the miss entry above it. -/
  | missRead
  /-- R146, R148: at its parent's splice address. -/
  | splice
  /-- R354: its MMA chain is running. -/
  | chain
  /-- R177: the group's last lane has exited. -/
  | exiting
  /-- R165: at an SRDV whose register a load of the group has still to write. -/
  | lateWrite
deriving DecidableEq, Repr

/-- What a wait that ended left for its word: the knot's join (R53, R309), the barrier's release or
abandonment (R161, R182), or a request (R292, R381). -/
inductive Grant
  | knot (scope : Scope) (status : Nat) (addr : DWord)
  | barrier
  | broken
  /-- R292, R381: a watch fired, or a save was requested, while it slept in WAITW. -/
  | woken
deriving DecidableEq, Repr

/-- R148: registers of a missing strand's load and the values its lanes receive when the data arrive. -/
structure MissData where
  mask : LaneMask
  writes : List (VReg × Lanes Word)
deriving DecidableEq, Repr

/-- R145, R169: one entry of the strand table. -/
structure Entry where
  kind : EntryKind
  pc : CodeRef
  owned : LaneMask
  active : LaneMask
  parent : Option (Fin 8)
  pend : Option CodeRef
  hints : List Word
  rpt : Nat
  wait : Wait
  grant : Option Grant
  missRegs : List VReg
  missData : Option MissData
  /-- R378: its place among the overdue strands. -/
  overdue : Option Nat
  /-- R353: the retire count that its MMA drew with when it was interrupted. -/
  drawn : Option DWord
  /-- R242: the lanes of its APPEND whose tiles have been performed, and what each receives. -/
  appended : List (Nat × Word)
  /-- R449: the lanes of an ATOM whose turn has come in a rerun, each with what it read. -/
  turned : List (Nat × Nat) := []
deriving DecidableEq, Repr

/-- R147, R162: one serial execution: the strand that runs it, its parent then, the splice, the lanes that
still have to run, and the lanes that have reached the splice. -/
structure Serial where
  strand : Fin 8
  parent : Option (Fin 8)
  splice : CodeRef
  todo : List (CodeRef × LaneMask × LaneMask)
  doneOwned : LaneMask
  doneActive : LaneMask
deriving DecidableEq, Repr

/-- R145, R147: the strand table, the strand that issued last, and the serial stack. -/
structure Control where
  entries : Vector (Option Entry) 8
  cur : Fin 8
  serial : List Serial
deriving DecidableEq, Repr

/-- R151, R155: a trap or landing being handled: what it froze and the strand it came from. -/
structure Ctx where
  landing : Bool
  ctl : Control
  /-- R459: the operand-log entry of a deferred trap. -/
  deferred : Option Nat
deriving DecidableEq, Repr

/-- R157: a captured operand: its code (R61), whether its Present bit is set, the values per lane, the
successor's values, and whether a captured latch was valid. -/
structure Captured where
  code : BitVec 8
  present : Bool
  low : Lanes Word
  high : Lanes Word
  valid : Bool
deriving DecidableEq, Repr

/-- R189: one staged write: field 1 to 4, successor half, lanes, values. -/
structure Staged where
  field : Nat
  half : Bool
  mask : LaneMask
  vals : Lanes Word
deriving DecidableEq, Repr

/-- R155: a landing window with the captured sources and the staged writes. -/
structure Landing where
  word : Word
  hint1 : Word
  hint2 : Word
  ref : CodeRef
  packet : DWord
  mask : LaneMask
  gmask : LaneMask
  d : Captured
  a : Captured
  b : Captured
  c : Captured
  staged : List Staged
deriving DecidableEq, Repr

/-- What a read of lines is: the partition, the virtual address and key of its first byte, whether its page is counted, and shared. -/
structure Touch where
  pid : Nat
  va : Nat
  key : Nat
  len : Nat
  cnt : Bool
  shr : Bool
deriving DecidableEq, Repr

/-- R328, R344, R350: what one operand of a live step reads: the bytes, once scratchpad or the tile fetch unit has given them, and what the
tile fetch unit reads. -/
structure OperandRead where
  step : Nat
  operand : Nat
  bytes : List Byte
  runs : List Touch
deriving DecidableEq, Repr

/-- R342, R352, R354: an MMA whose chain is under way or deferred: the strand that stands at it, or the log entry it replays
from, or neither when the strand has gone on; where it resumes, with its hints; the steps left, the operands, the mode, SEED and retire count it
rounds with, TRAPEN, the place of its BEGIN.p, and whether it was issued inside the open region. -/
structure Chain where
  strand : Option (Fin 8)
  log : Option Nat
  ref : CodeRef
  hints : List Word
  form : MmaForm
  steps : List Nat
  a : Nat
  b : Nat
  x : Nat
  tba : TbReg
  tbb : TbReg
  rnd : BitVec 3
  seed : Word
  retire : DWord
  trapEn : BitVec 5
  begins : Nat
  inRegion : Bool
  reads : List OperandRead
deriving DecidableEq, Repr

/-- R160, R266: the operands a faulted access is logged with. -/
structure Operands where
  act : LaneMask
  x : Lanes Word
  data : List (Lanes Word)
  off : Int
  tb : TbReg
  /-- R261: the number of `tb`, for an access through it. -/
  tbn : Option (BitVec 3)
  hints : List Word
  chain : Option Chain
deriving DecidableEq, Repr

/-- R265, R266: one queued entry of a faulted instruction: its stage, serial and resolution (true: raise PAGE). -/
structure FaultRef where
  stage2 : Bool
  serial : Nat
  va : Nat
  action : Option Bool
deriving DecidableEq, Repr

/-- R56, R183: an open idempotent region: where it restarts and what it captured. -/
structure Region where
  pc : CodeRef
  /-- R78: the repeat of its word that it restarts at. -/
  rpt : Nat
  regs : Regs
  ctrl : Ctrl
  active : LaneMask
  callRec : List (Word × Nat)
  retire : DWord
deriving DecidableEq, Repr

/-- R160: one operand-log entry held by a faulted access. -/
structure LogEntry where
  id : Nat
  instr : Instr
  word : Word
  ref : CodeRef
  rpt : Nat
  mask : LaneMask
  strand : Fin 8
  ops : Operands
  faults : List FaultRef
  /-- R265, R274: the faulting address and lanes of a PAGE trap. -/
  addr : DWord
  lanes : LaneMask
  /-- R183: made since the open region's REGION. -/
  inRegion : Bool
  /-- R459: how many traps and landings were being handled when it issued. -/
  level : Nat
  /-- R184: what a region at a store captures, should the store's replay force a commit. -/
  before : Option Region
  /-- R449: the lanes of an ATOM whose turn has come in a rerun, each with what it read. -/
  turned : List (Nat × Nat) := []
deriving DecidableEq, Repr

/-- R41, R46, R54: one byte a group has stored: its key, whether it is an .nt store, the scope it is
committed at, whether it is younger than the group's last BEGIN, whether it was made inside the open region,
and whether an atomic of the group to its granule followed. -/
structure OwnStore where
  key : Nat
  val : Byte
  nt : Bool
  level : Option Scope
  since : Bool
  inRegion : Bool
  atomicAfter : Bool
  /-- R50: the place of the group's last FENCE.h before the store. -/
  fence : Nat
  /-- R254: the virtual address of the store. -/
  va : Nat
  /-- R431: its page is shared. -/
  shr : Bool
  /-- R264: its guest-physical address. -/
  guest : Nat := 0
  /-- R264, R270: the translation that it was given has been dropped. -/
  stale : Bool := false
deriving DecidableEq, Repr

/-- R291: a watch entry. -/
structure WatchEntry where
  line : Nat
  fired : Bool
deriving DecidableEq, Repr

/-- R50: who has written into a scratchpad: a group, or an engine command. -/
inductive SpadBy
  | group (n : Nat)
  | cmd (n : Nat)
deriving DecidableEq, Repr

/-- R50, R454: what a group has learned of another's writes into the scratchpad: those before a place are ordered before its loads from the
place `since` on. -/
structure Known where
  by_ : SpadBy
  upTo : Nat
  since : Nat
deriving DecidableEq, Repr

/-- R50, R161: a group's record of its last arrival at a barrier: the generation, whether it was abandoned, and the
arrival's place. -/
structure Arrival where
  gen : Option Nat
  abandoned : Bool
  place : Nat
deriving DecidableEq, Repr

/-- R185, R381: how a group was saved, with the LIVE hint of a cooperative save. -/
inductive SaveKind
  | cooperative (live : Option (BitVec 16))
  | quiescent | forced | discard
deriving DecidableEq, Repr

/-- Where a group stands. -/
inductive GroupPhase
  | running
  | parked (serial : Nat) (cls : Nat)
  | exited
deriving DecidableEq, Repr

/-- R17, R140: a group. Groups are named by their index in the state's list. -/
structure Group where
  team : Nat
  id : Nat
  regs : Regs
  ctrl : Ctrl
  ctl : Control
  ctxs : List Ctx
  land : List Landing
  callRec : List (Word × Nat)
  log : List LogEntry
  retire : DWord
  stores : List OwnStore
  /-- R251, R302: the bytes of the private lines that L1 holds for the group, by key, addresses rising. -/
  priv : List Host.Cell
  beginH : Nat
  beginP : Nat
  beginY : Nat
  region : Option Region
  watch : List WatchEntry
  arrivals : Vector Arrival 16
  /-- R390: the halls that the group has left, each with the place of its last BEGIN there. -/
  left : List (Nat × Nat)
  /-- R50, R454: what it has learned of the writes of others into the scratchpad. -/
  know : List Known
  /-- R50: the place of the group's last FENCE.h. -/
  fence : Nat
  chain : Option Chain
  phase : GroupPhase
  saved : Option SaveKind
  /-- R178, R378: order of the group among its class; YIELD gives it a new, larger one. -/
  age : Nat
  /-- R395: the deadline has passed and the save is not satisfied. -/
  late : Bool
  /-- R384: the free value that names the bytes of its record whose layout is not architectural, as its last save wrote them. -/
  kept : Nat
deriving DecidableEq, Repr

/-- R123, R124: the fields of a kernel header. -/
structure Header where
  major : Nat
  minor : Nat
  compat : Bool
  landing : Bool
  carryTrap : Bool
  replay : Bool
  regions : Bool
  pregs : Nat
  cregs : Nat
  pgroups : Nat
  cgroups : Nat
  sregs : Nat
  xp : BitVec 3
  priv : Nat
  scratch : Nat
  tiles : Nat
  slots : Nat
  reserve : Nat
  quota : Nat
  knots : Nat
  barriers : Nat
  traps : BitVec 5
  energy : Nat
  emuBytes : Nat
  maxK : Nat
deriving DecidableEq, Repr

/-- R27, R53, R181, R307: a knot. `tie` is the key of the tied word. -/
structure Knot where
  count : Word
  underflow : Bool
  scope : Scope
  status : Nat
  addr : DWord
  tie : Option Nat
  /-- R307: a failing decrement has written the status since the last KINIT. -/
  failed : Bool
  /-- R50, R454: what its decrements order before the loads that follow a join on it. -/
  know : List (SpadBy × Nat)
deriving DecidableEq, Repr

/-- R161: a barrier: expected count, arrivals of the current generation, its number, and the groups and places of
the arrivals of the generation released last (R50). -/
structure Barrier where
  expected : Nat
  arrived : Nat
  gen : Nat
  released : List (Nat × Nat)
deriving DecidableEq, Repr

/-- R331: the kind of a bound slot. -/
inductive SlotKind
  | opened | fp64 | fp32 | integer
deriving DecidableEq, Repr

/-- R331, R338: an array slot: its tile and kind when bound, its cells, and the carry counts. -/
structure Slot where
  bound : Option (Nat × SlotKind)
  cells : Vector (BitVec 64) 1024
  counts : Vector Int 1024
deriving DecidableEq, Repr

/-- R50: a store into a granule of the scratchpad: the bytes, what they replaced, its place, and who stored. -/
structure SpadWrite where
  gran : Nat
  bytes : List (Option Byte)
  prior : List Byte
  seq : Nat
  by_ : SpadBy
deriving DecidableEq, Repr

/-- R322: a decrement held for a saved team. -/
structure HeldDec where
  knot : Nat
  scope : Scope
  status : Nat
  addr : DWord
deriving DecidableEq, Repr

/-- Where a team stands. -/
inductive TeamPhase
  | resident
  | saved
  | released
deriving DecidableEq, Repr

/-- R17, R248, R369, R384: a team. Teams are named by their index in the state's list. -/
structure Team where
  part : Nat
  hdr : Header
  ref : CodeRef
  grid : Option Nat
  teamId : Nat
  prio : Nat
  hall : Nat
  foyer : Bool
  groups : List Nat
  privArea : Nat
  saveFrame : Nat
  args : DWord
  teamsLow : Word
  frameIdx : Nat
  spad : Mem
  /-- R50: the scratchpad's stores, newest first. -/
  spadHist : List SpadWrite
  tiles : Mem
  slots : Vector Slot 4
  knots : List Knot
  barriers : List Barrier
  phase : TeamPhase
  order : Nat
  killed : Bool
  requested : Bool
  byPreempt : Bool
  byAuto : Bool
  held : List HeldDec
  savedAt : Nat
  reserved : Nat
  /-- R384: the free value that names the bytes of its team block, as its last save wrote them. -/
  kept : Nat
  /-- R441: the energy attributed to it, in picojoules. -/
  energy : Nat
deriving DecidableEq, Repr

/-- R370: a dependence entry of a grid, with its sticky bit; `key` is the home of its word. -/
structure Dep where
  kind : Nat
  knot : Nat
  value : Word
  key : Nat
  met : Bool
deriving DecidableEq, Repr

/-- R369, R371: a queued grid. -/
structure Grid where
  part : Nat
  ref : CodeRef
  hdr : Header
  teams : Nat
  queue : Nat
  knot : Nat
  deps : List Dep
  record : BitVec 2
  args : DWord
  privArea : Nat
  frames : Nat
  saveArea : Nat
  nextTeam : Nat
  released : List Nat
  foyerTeam : Nat
  queued : Bool
  done : Bool
  /-- R448: its number among the recorded grids. -/
  recNo : Nat
deriving DecidableEq, Repr

/-- R127, R128, R130, R131: a code object. -/
structure CodeObject where
  id : Word
  code : List Byte
  headers : List Nat
  digest : BitVec 512
  auth : Authority
  hold : Bool
  binds : Nat
  retiring : Bool
  retired : Bool
  /-- R131: the groups that must still perform a BEGIN at p or y, or exit. -/
  grace : List Nat
  /-- R376: the energies of the last 16 teams of the object. -/
  energies : List Nat
deriving DecidableEq, Repr

/-- R265: a fault entry that waits for room in its queue. -/
structure FaultEntry where
  addr : DWord
  serial : Word
  kind : Byte
  reason : Byte
  hall : Nat
  ref : DWord
deriving DecidableEq, Repr

/-- R265: a fault queue: registers, the next serial, and the entries that wait for room. -/
structure FaultQueue where
  base : DWord
  size : BitVec 16
  head : Word
  tail : Word
  serial : Nat
  waiting : List FaultEntry
  pending : List Nat
deriving DecidableEq, Repr

/-- R258, R263: how a walk ended for an access that waits on it. -/
inductive WalkResult
  | page (stage2 : Bool) (reason : Nat) (guest : Nat) (table : Bool)
  | access
deriving DecidableEq, Repr

/-- R258: how a walk failed, and whether stage 1 had found a leaf that forbids writing, which a store or atomic meets first. -/
structure WalkFail where
  result : WalkResult
  readOnly : Bool
deriving DecidableEq, Repr

/-- R263, R270: where a walk stands: in its queue, held by a walker, or waiting for a lease. -/
inductive WalkPhase
  | queued | running | lease
deriving DecidableEq, Repr

/-- R253: one range of the eviction schedule. -/
structure Keep where
  start : Nat
  lines : Nat
  step : Word
deriving DecidableEq, Repr

/-- R262: a place that holds combined translations: the TLB of a hall, that of a cluster, or, for the engines of the I/O die, whose
translations the spec gives no TLB, one of their own (log 47). -/
inductive TlbSite
  | hall (n : Nat)
  | cluster (n : Nat)
  | io
deriving DecidableEq, Repr

/-- R262: an entry of a TLB; it belongs to the partition that holds it. -/
structure TlbEntry where
  site : TlbSite
  x : Xlate
deriving DecidableEq, Repr

/-- R263: a walk asked for: its 4 KiB page, where it stands, its place among the walks asked for, and the places whose misses wait on it. -/
structure WalkReq where
  page : Nat
  phase : WalkPhase
  asked : Nat
  sites : List TlbSite
deriving DecidableEq, Repr

/-- R262 to R265, R253, R255: translation and fault-queue state of a partition. -/
structure PartXlat where
  s1root : DWord
  s2root : DWord
  invDone1 : Word
  invDone2 : Word
  inval1Due : Nat
  inval2Due : Nat
  quota : BitVec 7
  fq1 : FaultQueue
  fq2 : FaultQueue
  tlb : List TlbEntry
  walks : List WalkReq
  verdicts : List (Nat × WalkFail)
  keepBase : DWord
  keepCount : BitVec 13
  keeps : List Keep
  l2step : Word
deriving DecidableEq, Repr

/-- R386, R387: the PREEMPT of a partition. -/
structure Preempt where
  kind : Nat
  halls : List Nat
  teams : List Nat
  knotTeam : Nat
  knot : Nat
  decremented : Bool
  completed : Bool
  saved : List Nat
deriving DecidableEq, Repr

/-- R377: a team that a queue offers: the next of its head grid, or a saved one. -/
inductive Offer
  | fresh (grid : Nat)
  | saved (team : Nat)
deriving DecidableEq, Repr

/-- R382: a team that waits for saves that were requested for it: the hall that they open, and the teams asked to save. -/
structure AutoWait where
  offer : Offer
  hall : Nat
  teams : List Nat
deriving DecidableEq, Repr

/-- R366, R382, R385 to R388: scheduler state of a partition; `autoWait` holds the teams that requests of R382 act for. -/
structure PartSched where
  foyerState : BitVec 3
  foyerTeam : Option Nat
  deadline : Word
  prioGap : BitVec 3
  lldThresh : BitVec 16
  launches : Word
  saves : Word
  forced : Word
  preempt : Option Preempt
  autoWait : List AutoWait
deriving DecidableEq, Repr

/-- R396, R398: parks and reset records of a partition. -/
structure PartOwn where
  parkCount : Word
  parkFrame : DWord
  parkSerial : Nat
  resetSerial : DWord
  resetRecords : List (List Byte)
  nonce : List Byte
deriving DecidableEq, Repr

/-- R407: sizing of a partition. -/
structure PartCfg where
  tag : Authority
  protect : Bool
  codeBase : DWord
  codeSize : BitVec 11
  wayMask : BitVec 16
  slice0 : Word
  slice1 : Word
  slice2 : Word
  bwFloor : BitVec 16
  bwWeight : BitVec 8
  hoistMask : Word
  braidMask : BitVec 16
  cmprMask : BitVec 8
deriving DecidableEq, Repr

/-- R416: tier migration and dirty tracking. -/
structure PartMig where
  cntBase : DWord
  cntFirst : DWord
  cntPages : Word
  thresh : BitVec 16
  nqBase : DWord
  nqSize : BitVec 16
  nqHead : Word
  nqTail : Word
  nqLost : Word
  trkFirst : DWord
  trkPages : Word
  bmBase : DWord
  track : Bool
  flushFirst : DWord
  flushPages : Word
  flushDone : Word
  flushing : Nat
deriving DecidableEq, Repr

/-- R428, R429, R436: confidential computing of a partition. -/
structure PartCc where
  hbPeriod : BitVec 8
  holdTime : Word
  holdState : BitVec 2
  holdCause : BitVec 2
  holdCount : Word
  keySel : BitVec 7
  identity : Option (BitVec 512)
  session : Option (List Byte)
  /-- R437: an owner session that resumes the hold once its step 5 is done. -/
  resumeDue : Bool
  stream : Option Nat
  before : BitVec 3
deriving DecidableEq, Repr

/-- R376, R442, R444: energy state of a partition. -/
structure PartEnergy where
  floor : Word
  weight : BitVec 8
  vfMin : BitVec 3
  vfPoint : BitVec 3
  allow : Word
  spent : Nat
  reserved : Nat
  owed : Nat
  last : Nat
  waited : Bool
deriving DecidableEq, Repr

/-- R448 to R450: replay state of a partition. -/
structure PartReplay where
  ctl : BitVec 2
  logBase : DWord
  logSize : Word
  logHead : Word
  logTail : Word
  rangeBase : DWord
  rangeCount : BitVec 5
  status : BitVec 2
  divSeq : Word
  /-- R448: the sequence number of the next entry. -/
  seq : Word
  /-- R448: atomics performed at each location. -/
  orders : List (Nat × Nat)
  /-- R448: recorded grids launched. -/
  launched : Nat
deriving DecidableEq, Repr

/-- R403: the counters of a partition. -/
structure Counters where
  retired : DWord
  issued : DWord
  admitted : DWord
  released : DWord
  consumed : DWord
  granted : DWord
  steps : Vector DWord 7
  refusedReads : DWord
  rightsTraps : DWord
  saves : DWord
  forcedSaves : DWord
deriving DecidableEq, Repr

/-- R407: a partition that exists. -/
structure Part where
  id : Nat
  ctxState : BitVec 3
  halls : List Nat
  xlat : PartXlat
  sched : PartSched
  own : PartOwn
  cfg : PartCfg
  mig : PartMig
  cc : PartCc
  energy : PartEnergy
  replay : PartReplay
  ropeBase : DWord
  ropeCount : BitVec 13
  objects : List CodeObject
  nextObj : Nat
  counters : Counters
deriving DecidableEq, Repr

/-- R252, R254, R432: a line in L2: its key / 128, slice, set, way, partition, keep-until tag and fill order, the valid and
dirty bits of its four sectors, whether protected accesses hold it in plaintext, and whether it is sealed, in a shared way. -/
structure L2Line where
  line : Nat
  slice : Nat
  set : Nat
  way : Nat
  part : Nat
  tag : Option Word
  order : Nat
  valid : BitVec 4
  dirty : BitVec 4
  prot : Bool
  sealedWay : Bool
deriving DecidableEq, Repr

/-- R13, R252: a line in the memory-side cache of a stack. -/
structure MscLine where
  line : Nat
  dirty : Bool
deriving DecidableEq, Repr

/-- R431, R433: a sector of a protected page, by key / 32, with the material that seals it and the tag in its side band at the
system home; none where no sealed sector has been written there yet. -/
structure Seal where
  sec : Nat
  material : List Byte
  tag : Option DWord
deriving DecidableEq, Repr

/-- R38, R252, R269: what stands beyond the home of R40 in L2: the lines of L2, the bytes at the system homes, the lines of the
memory-side caches, the bytes in the memory behind them, and the seals of protected sectors. -/
structure Homes where
  l2 : List L2Line
  sysMem : Mem
  msc : List MscLine
  backing : Mem
  seals : List Seal
deriving DecidableEq, Repr

/-- R247, R251: a line in L1: its key / 128, the group it is private to, and the dirty bits of its sectors; of a private one, its virtual
address (R254), and whether its page is shared (R431). -/
structure L1Line where
  line : Nat
  owner : Option Nat
  dirty : BitVec 4
  va : Nat := 0
  shr : Bool := false
deriving DecidableEq, Repr

/-- R338, R341: one pool entry of a carry gallery. -/
structure PoolEntry where
  team : Nat
  slot : Fin 4
  cell : Nat
deriving DecidableEq, Repr

/-- R415: a request limit of a partition at a stack: `num / den` lines per cycle. -/
structure Limit where
  part : Nat
  stack : Nat
  num : Nat
  den : Nat
deriving DecidableEq, Repr

/-- R14, R15: a logical hall. -/
structure Hall where
  phys : Nat
  failed : Bool
  closed : Bool
  retiring : Bool
  /-- R71: the group that each bay issued for last. -/
  bays : Vector (Option Nat) 4
  /-- R247: the lines of L1. -/
  l1 : List L1Line
  /-- R379: the allowed count of the lost-locality detector. -/
  allowed : Nat
  /-- R379: its victim tags, the most recent first, and the misses of this window that match one, in all and before the latest word's. -/
  victims : List Nat
  lost : Nat
  lostWas : Nat
  /-- R344: the lines that the tile fetch unit has pinned, each with its group. -/
  pins : List (Nat × Nat)
  /-- R338: pool entries in use, oldest first. -/
  pool : List PoolEntry
  /-- R445: what the four path-delay monitors and the SRAM margin monitors of the bank groups read last. -/
  delays : Vector (BitVec 16) 4
  srams : List (BitVec 16)
  /-- R445: the voltage of each operating point, in mV. -/
  volts : Vector Word 8
  margin : BitVec 16
  plannedMargin : BitVec 16
  plans : Word
  /-- R415: the request limits that stand below 1 line per cycle. -/
  limits : List Limit
deriving DecidableEq, Repr

/-- R39: what a party's need is computed from. -/
structure Party where
  part : Option Nat
  hall : Option Nat
  group : Option Nat
  /-- R375: the team of the group, which is never split between halls. -/
  team : Option Nat := none
deriving DecidableEq, Repr

/-- R40: one commit to one granule, newest first in the history: the bytes it carries, its scope and party,
its place in the scope order, whether it is performed at the home, the home's bytes before it, and whether it
is an atomic, an engine's sector, or the value a DISCARD left. -/
structure Commit where
  gran : Nat
  bytes : List (Option Byte)
  scope : Scope
  party : Party
  seq : Nat
  atHome : Bool
  prior : List Byte
  atomic : Bool
  sector : Bool
  discard : Bool
  /-- R50: for each byte it carries, the group that stored it, and the place of that group's last FENCE.h before the store. -/
  fences : List (Option (Nat × Nat))
deriving DecidableEq, Repr

/-- R23: the engines with queues. -/
inductive Engine
  | stair (hall : Nat)
  | hoist (n : Nat)
  | braid (n : Nat)
  | cmpr (n : Nat)
deriving DecidableEq, Repr

/-- The life of an engine command. -/
inductive CmdPhase
  | queued
  | kept
  | running
  | writing
  | waitFault (serial : Nat) (stage2 : Bool) (resolved : Option Bool)
  | decrement
  | done
deriving DecidableEq, Repr

/-- R52, R313: one 32-byte sector of a command that is still to be written: its space, its address (a key in space 0), the bytes written,
and in space 0 its virtual address and whether its page is shared. -/
structure SectorWrite where
  space : Nat
  addr : Nat
  bytes : List (Option Byte)
  va : Nat
  shr : Bool
deriving DecidableEq, Repr

/-- R316, R317: what a BRAID's record and descriptor say, with the place of the command among those of its tag. -/
structure BraidInfo where
  tag : Nat
  ranks : Nat
  rank : Nat
  op : Nat
  typ : Nat
  red : Nat
  count : Nat
  root : Nat
  source : Nat
  dest : Nat
  desc : Nat
  timeout : Nat
  ordinal : Nat
  /-- Ranks that lie in this package: each with its partition and its engine of that partition. -/
  here : List (Nat × Nat × Nat)
deriving DecidableEq, Repr

/-- R51, R307: an engine command. -/
structure Cmd where
  team : Nat
  group : Nat
  part : Nat
  engine : Engine
  instr : Instr
  knot : Nat
  record : DWord
  ref : CodeRef
  /-- R310: the partition-relative hall that issued it. -/
  hall : Nat
  phase : CmdPhase
  pending : List SectorWrite
  status : Nat
  addr : DWord
  beginSeq : Nat
  order : Nat
  matched : Bool
  braid : Option BraidInfo
  /-- R319: the source elements of this rank, once read, and those of ranks in other packages. -/
  data : Option (List Byte)
  remote : List Byte
  /-- R50, R51: what the issuing group knew of scratchpad stores at the fork, its own among them. -/
  know : List (SpadBy × Nat)
  /-- R51, R454: it has read scratchpad. -/
  readSpad : Bool
deriving DecidableEq, Repr

/-- R427: a key slot. -/
structure KeySlot where
  kind : BitVec 3
  state : BitVec 3
  part : Option Nat
  keyId : DWord
  material : List Byte
  /-- R437: it was USED when it became SUSPENDED. -/
  used : Bool
deriving DecidableEq, Repr

/-- R270, R271: a lease held as source, or granted as target; `package` is the source that one is granted to. -/
structure Lease where
  part : Nat
  region : Nat
  package : Nat
  recalled : Bool
deriving DecidableEq, Repr

/-- R393: the management window of the physical function. -/
structure Mgmt where
  ctxSel : BitVec 7
  inspId : Word
  inspData : DWord
  inspStatus : BitVec 2
  inspResult : Option (BitVec 2 × DWord)
  parkQBase : DWord
  parkQSize : BitVec 16
  parkQHead : Word
  parkQTail : Word
  parkWaiting : List (List Byte)
  resetDone : Word
  resetRecBase : DWord
  resetDue : List (Nat × BitVec 16)
  hallSel : BitVec 9
  partStatus : BitVec 3
  ccKeySel : BitVec 7
  operatorSession : Option (List Byte)
  /-- R271, R452: lease-timeout notices, each naming a package. -/
  notices : List Nat
deriving DecidableEq, Repr

/-- R440, R444, R447: the energy account and ageing registers. -/
structure Power where
  cap : BitVec 12
  balance : Int
  unattr : DWord
  ageSel : BitVec 9
  drift : BitVec 8
  spares : Vector (List Nat) 4
  retired : BitVec 16
  failed : BitVec 16
deriving DecidableEq, Repr

/-- What the last message or register read answered (R10, R394, R429, R439). -/
structure Reply where
  status : Nat
  data : List Byte
deriving DecidableEq, Repr

/-- What the outside has placed beside an event that carries no argument of its own (log 7): the partition, the
authority, the register, a slot, port or hall, a count, an address, a value, a key kind and id, the bytes of a message,
an energy reading, whether a request comes on the partition's live stream (R426), and a flag. -/
structure Inbox where
  part : Option Nat
  auth : Authority
  reg : WinReg
  index : Nat
  count : Nat
  addr : Nat
  value : DWord
  kind : BitVec 3
  keyId : DWord
  chain : List Byte
  nonce : List Byte
  bytes : List Byte
  reading : EnergyReading
  onStream : Bool
  flag : Bool
deriving DecidableEq, Repr

/-- The state of the package. -/
structure State where
  /-- Bytes at their homes, key = class × 2^57 + host-physical address (R38, R244, R257): the newest in coherence order. -/
  mem : Mem
  /-- R38, R252, R269: L2, the system homes, the memory-side caches and the memory behind them. -/
  homes : Homes
  /-- R275: granules with an uncorrectable error. -/
  poison : List Nat
  /-- R452: granules that the next move's reads cannot reach, and those that the present one's cannot (log 33). -/
  timedOut : List Nat
  outNow : List Nat
  /-- R433: granules of sectors in memory that a protected read finds with a tag that does not match. -/
  broken : List Nat
  /-- R40: the commits, newest first. -/
  hist : List Commit
  /-- The model's place in the scope order (log 4). -/
  seq : Nat
  /-- The model's count of free values used (log 5). -/
  free : Nat
  /-- R398: the package cycle count. -/
  cycle : DWord
  parts : List Part
  teams : List Team
  groups : List Group
  grids : List Grid
  cmds : List Cmd
  halls : List Hall
  keys : List KeySlot
  leasesHeld : List Lease
  leasesGranted : List Lease
  mgmt : Mgmt
  power : Power
  /-- R399: the serial of the next sealed object. -/
  objectSerial : DWord
  /-- R452: failed rope ports. -/
  failedPorts : List Nat
  /-- The answer to the last message (R429, R439). -/
  reply : Option Reply
  /-- The model's list of moves that are due (log 7). -/
  events : List Instr
  /-- The model's holder of the outside's message (log 7). -/
  inbox : Inbox
  /-- The model's choice of the group that issues (log 8). -/
  cur : Option Nat
deriving DecidableEq, Repr

/-- R15, R379: a hall at reset. -/
def Hall.reset (n : Nat) : Hall :=
  { phys := 80 * (n / 76) + n % 76, failed := false, closed := false, retiring := false,
    bays := Vector.replicate 4 none, l1 := [], allowed := 64, victims := [], lost := 0, lostWas := 0, pins := [], pool := [],
    delays := Vector.replicate 4 0, srams := [], volts := Vector.replicate 8 0, margin := 0, plannedMargin := 0, plans := 0, limits := [] }

/-- R408: nothing is held beyond the homes: no line in a cache, and memory with nothing listed. -/
def Homes.reset : Homes := { l2 := [], sysMem := [], msc := [], backing := [], seals := [] }

/-- R427, R428: a free key slot. -/
def KeySlot.reset : KeySlot := { kind := 0, state := 0, part := none, keyId := 0, material := [], used := false }

/-- R393, R407, R428: the management window at reset. -/
def Mgmt.reset : Mgmt :=
  { ctxSel := 0, inspId := 0, inspData := 0, inspStatus := 0, inspResult := none, parkQBase := 0, parkQSize := 16,
    parkQHead := 0, parkQTail := 0, parkWaiting := [], resetDone := 0, resetRecBase := 0, resetDue := [],
    hallSel := 0, partStatus := 0, ccKeySel := 0, operatorSession := none, notices := [] }

/-- R444, R447: the energy and ageing registers at reset: cap 2,800 W, balance 28 J, four spares a die. -/
def Power.reset : Power :=
  { cap := 2800, balance := 28000000, unattr := 0, ageSel := 0, drift := 5,
    spares := Vector.ofFn fun (d : Fin 4) => [80 * d.val + 76, 80 * d.val + 77, 80 * d.val + 78, 80 * d.val + 79],
    retired := 0, failed := 0 }

/-- The model's empty message (log 7). -/
def Inbox.reset : Inbox :=
  { part := none, auth := .operator, reg := .mgmtCtxsel, index := 0, count := 0, addr := 0, value := 0, kind := 0, keyId := 0,
    chain := [], nonce := [], bytes := [], reading := { halls := [], engines := [], bytes := [], sensors := 0 }, onStream := false,
    flag := false }

/-- The package right after reset: no partition, no team, no group (R407, R408). -/
def State.reset : State :=
  { mem := [], homes := Homes.reset, poison := [], timedOut := [], outNow := [], broken := [], hist := [], seq := 0, free := 0, cycle := 0, parts := [], teams := [],
    groups := [], grids := [], cmds := [], halls := (List.range 304).map Hall.reset,
    keys := List.replicate 128 KeySlot.reset, leasesHeld := [], leasesGranted := [], mgmt := Mgmt.reset,
    power := Power.reset, objectSerial := 0, failedPorts := [], reply := none, events := [], inbox := Inbox.reset, cur := none }

end Sys2Proof.Machine
end

