-- ==== Sys2Proof/Machine/Bits.lean ====
section
/-! DEFINITION. Bit and list helpers: lane masks, little-endian bytes, list updates. -/

namespace Sys2Proof

/-- R38: g < h < p < y. -/
def Scope.rank : Scope → Nat
  | .g => 0 | .h => 1 | .p => 2 | .y => 3

/-- R38: the wider of two scopes. -/
def Scope.max (a b : Scope) : Scope := if a.rank < b.rank then b else a

/-- R153: the code of an authority. -/
def Authority.code : Authority → Nat
  | .operator => 0 | .owner => 1 | .auditor => 2

end Sys2Proof

namespace Sys2Proof.Machine

/-- R145: lane `l` is in the mask. -/
def LaneMask.has (m : LaneMask) (l : Nat) : Bool := m.getLsbD l

/-- The mask of the lanes for which `p` holds. -/
def LaneMask.ofFn (p : Nat → Bool) : LaneMask :=
  (List.range 32).foldl (fun m l => if p l then m ||| BitVec.twoPow 32 l else m) 0

/-- The lanes of a mask, ascending. -/
def LaneMask.lanes (m : LaneMask) : List Nat := (List.range 32).filter fun l => m.getLsbD l

/-- The lowest lane of a mask. -/
def LaneMask.lowest (m : LaneMask) : Option Nat := (LaneMask.lanes m).head?

/-- The number of lanes of a mask. -/
def LaneMask.card (m : LaneMask) : Nat := (LaneMask.lanes m).length

/-- Every lane. -/
def allLanes : LaneMask := 0xFFFFFFFF

/-- The value of lane `l`. -/
def Lanes.at {α : Type} [Inhabited α] (x : Lanes α) (l : Nat) : α := x.toList.getD l default

/-- A lane vector from a function of the lane. -/
def Lanes.tabulate {α : Type} (f : Nat → α) : Lanes α := Vector.ofFn fun i => f i.val

/-- `new` in the lanes of the mask, `old` elsewhere. -/
def Lanes.merge {α : Type} (m : LaneMask) (old new : Lanes α) : Lanes α :=
  Vector.ofFn fun i => if m.getLsbD i.val then new[i] else old[i]

/-- One value in every lane. -/
def Lanes.all {α : Type} (x : α) : Lanes α := Vector.replicate 32 x

/-- R6: bytes to a number, the first byte lowest. -/
def leNat : List Byte → Nat
  | [] => 0
  | b :: bs => b.toNat + 256 * leNat bs

/-- R6: the low `n` bytes of a number, the lowest first. -/
def natLe : Nat → Nat → List Byte
  | 0, _ => []
  | n + 1, x => BitVec.ofNat 8 x :: natLe n (x / 256)

/-- `n` bytes of a list from offset `o`, padded with zeros. -/
def bytesAt (l : List Byte) (o n : Nat) : List Byte := (List.range n).map fun i => l.getD (o + i) 0

/-- The little-endian number in `n` bytes of a list at offset `o`. -/
def fieldAt (l : List Byte) (o n : Nat) : Nat := leNat (bytesAt l o n)

/-- Replace element `n` of a list by its image. -/
def listModify {α : Type} (l : List α) (n : Nat) (f : α → α) : List α :=
  match l, n with
  | [], _ => []
  | x :: xs, 0 => f x :: xs
  | x :: xs, n + 1 => x :: listModify xs n f

/-- Remove repetitions, keeping first occurrences. -/
def nub : List Nat → List Nat
  | [] => []
  | x :: xs => x :: (nub xs).filter (· != x)

/-- Insert into an ascending list without repetition. -/
def insertAsc (x : Nat) : List Nat → List Nat
  | [] => [x]
  | y :: ys => if x < y then x :: y :: ys else if x == y then y :: ys else y :: insertAsc x ys

/-- The ascending list of the distinct numbers of a list. -/
def ascending (l : List Nat) : List Nat := l.foldl (fun acc x => insertAsc x acc) []

/-- Two's complement reading of the low `w` bits of a number. -/
def signedOf (w x : Nat) : Int :=
  let y := x % 2 ^ w
  if 2 * y < 2 ^ w then (y : Int) else (y : Int) - (2 ^ w : Nat)

/-- The low `w` bits of an integer. -/
def unsignedOf (w : Nat) (x : Int) : Nat := (x % ((2 ^ w : Nat) : Int)).toNat

/-- A 32-bit word of an integer, modulo 2^32. -/
def wordOf (x : Int) : Word := BitVec.ofInt 32 x

/-- A 64-bit value from its low and high word. -/
def pairOf (lo hi : Word) : DWord := hi ++ lo

/-- The low word of a 64-bit value. -/
def loWord (x : DWord) : Word := x.extractLsb' 0 32

/-- The high word of a 64-bit value. -/
def hiWord (x : DWord) : Word := x.extractLsb' 32 32

/-- R127: a code reference as 64 bits. -/
def CodeRef.bits (r : CodeRef) : DWord := pairOf r.off r.obj

/-- R127: the code reference of 64 bits. -/
def CodeRef.ofBits (x : DWord) : CodeRef := { obj := hiWord x, off := loWord x }

/-- A code reference some words on. -/
def CodeRef.add (r : CodeRef) (bytes : Int) : CodeRef := { r with off := wordOf ((r.off.toNat : Int) + bytes) }

/-- R153: the code of a cause. -/
def Cause.code : Cause → Nat
  | .undefinedWord => 0x01 | .landingDepth => 0x02 | .rights => 0x03 | .badHandle => 0x04 | .latchLost => 0x05
  | .illegalConvergence => 0x06 | .page => 0x07 | .access => 0x08 | .stackLimit => 0x09 | .scratchBound => 0x0A
  | .align => 0x0B | .format => 0x0C | .carryFull => 0x0D | .barrierUnreachable => 0x0E | .callBudget => 0x0F
  | .arith => 0x10 | .software => 0x11 | .engine => 0x12 | .memoryError => 0x13 | .integrity => 0x14

end Sys2Proof.Machine
end

