-- ==== Sys2Proof/Machine/Aes.lean ====
section
/-! DEFINITION. AES-256 and its modes (R399, R433): the block cipher of FIPS 197, XTS of one 32-byte sector, CMAC, and GCM. The spec names the
standards (log 9). -/

namespace Sys2Proof.Machine

/-! ### The block cipher -/

/-- FIPS 197: multiplication by x in its field of bytes. -/
def xtime (a : Byte) : Byte := (a <<< 1) ^^^ (if a.getLsbD 7 then 0x1B else 0)

/-- FIPS 197: multiplication in the field of bytes. -/
def gfMul (a b : Byte) : Byte :=
  ((List.range 8).foldl (fun (r : Byte × Byte) i => (if b.getLsbD i then r.1 ^^^ r.2 else r.1, xtime r.2)) (0, a)).1

/-- FIPS 197: the inverse of a byte, its 254th power; 0 for 0. -/
def gfInv (a : Byte) : Byte := ((List.range 6).foldl (fun (r : Byte) _ => gfMul (gfMul r r) a) a) |> fun b => gfMul b b

/-- FIPS 197: the substitution of a byte. -/
def subByte (a : Byte) : Byte :=
  let b := gfInv a
  b ^^^ b.rotateLeft 1 ^^^ b.rotateLeft 2 ^^^ b.rotateLeft 3 ^^^ b.rotateLeft 4 ^^^ 0x63

/-- FIPS 197: the inverse substitution. -/
def unsubByte (a : Byte) : Byte := gfInv (a.rotateLeft 1 ^^^ a.rotateLeft 3 ^^^ a.rotateLeft 6 ^^^ 0x05)

/-- The exclusive or of two byte strings. -/
def xorBytes (a b : List Byte) : List Byte := (a.zip b).map fun x => x.1 ^^^ x.2

/-- FIPS 197: the next word of the key schedule, from the words so far, newest first. -/
def keyWord (i : Nat) (ws : List (List Byte)) : List Byte :=
  let last := ws.getD 0 []
  let t :=
    if i % 8 == 0 then
      let r := (last.drop 1 ++ last.take 1).map subByte
      xorBytes r [(List.range (i / 8 - 1)).foldl (fun (c : Byte) _ => xtime c) 1, 0, 0, 0]
    else if i % 8 == 4 then last.map subByte
    else last
  xorBytes (ws.getD 7 []) t

/-- FIPS 197: the 15 round keys of a 32-byte key. -/
def roundKeys (key : List Byte) : List (List Byte) :=
  let first := ((List.range 8).map fun i => bytesAt key (4 * i) 4).reverse
  let all := ((List.range 52).foldl (fun ws i => keyWord (i + 8) ws :: ws) first).reverse
  (List.range 15).map fun r => ((all.drop (4 * r)).take 4).flatten

/-- FIPS 197: the rows of the state, shifted by `k` times their number. -/
def shiftRows (k : Nat) (s : List Byte) : List Byte := (List.range 16).map fun i => s.getD ((i + 4 * (k * (i % 4))) % 16) 0

/-- FIPS 197: the columns of the state, mixed with the coefficients of a row. -/
def mixColumns (m : List Byte) (s : List Byte) : List Byte :=
  (List.range 16).map fun i =>
    (List.range 4).foldl (fun (r : Byte) j => r ^^^ gfMul (m.getD ((j + 4 - i % 4) % 4) 0) (s.getD (i / 4 * 4 + j) 0)) 0

/-- FIPS 197: one block under a 32-byte key. -/
def aesEncrypt (key block : List Byte) : List Byte :=
  let ks := roundKeys key
  let mid := ((ks.drop 1).take 13).foldl (fun s k => xorBytes (mixColumns [2, 3, 1, 1] (shiftRows 1 (s.map subByte))) k)
    (xorBytes block (ks.getD 0 []))
  xorBytes (shiftRows 1 (mid.map subByte)) (ks.getD 14 [])

/-- FIPS 197: the inverse of `aesEncrypt`. -/
def aesDecrypt (key block : List Byte) : List Byte :=
  let ks := roundKeys key
  let mid := ((ks.drop 1).take 13).reverse.foldl (fun s k => mixColumns [14, 11, 13, 9] (xorBytes ((shiftRows 3 s).map unsubByte) k))
    (xorBytes block (ks.getD 14 []))
  xorBytes ((shiftRows 3 mid).map unsubByte) (ks.getD 0 [])

/-! ### XTS and CMAC of a sector (R433) -/

/-- R427: a key of a memory slot's material: two XTS keys and the CMAC key, in this order (log 9). -/
def sectorKey (material : List Byte) (n : Nat) : List Byte := bytesAt material (32 * n) 32

/-- IEEE 1619: the next tweak. -/
def nextTweak (t : List Byte) : List Byte :=
  let x := 2 * leNat t
  natLe 16 (if x / 2 ^ 128 == 1 then Nat.xor (x % 2 ^ 128) 0x87 else x)

/-- R433: the two tweaks of the sector at an address. -/
def sectorTweaks (material : List Byte) (a : Nat) : List (List Byte) :=
  let t := aesEncrypt (sectorKey material 1) (natLe 16 (a / 32))
  [t, nextTweak t]

/-- R433: AES-256-XTS of the 32 bytes of the sector at an address. -/
def sealSector (material : List Byte) (a : Nat) (plain : List Byte) : List Byte :=
  (sectorTweaks material a).zipIdx.flatMap fun t =>
    xorBytes (aesEncrypt (sectorKey material 0) (xorBytes (bytesAt plain (16 * t.2) 16) t.1)) t.1

/-- R434: the plaintext of a sealed sector. -/
def openSector (material : List Byte) (a : Nat) (cipher : List Byte) : List Byte :=
  (sectorTweaks material a).zipIdx.flatMap fun t =>
    xorBytes (aesDecrypt (sectorKey material 0) (xorBytes (bytesAt cipher (16 * t.2) 16) t.1)) t.1

/-- A byte string as a number, the first byte highest. -/
def beNat (bs : List Byte) : Nat := leNat bs.reverse

/-- SP 800-38B: a subkey from the one before. -/
def cmacDouble (k : List Byte) : List Byte :=
  let x := 2 * beNat k
  (natLe 16 (if x / 2 ^ 128 == 1 then Nat.xor (x % 2 ^ 128) 0x87 else x)).reverse

/-- SP 800-38B: AES-256-CMAC. -/
def cmac (key msg : List Byte) : List Byte :=
  let k1 := cmacDouble (aesEncrypt key (List.replicate 16 0))
  let n := max 1 ((msg.length + 15) / 16)
  let last := msg.drop (16 * (n - 1))
  let tail := if last.length == 16 then xorBytes last k1 else xorBytes (bytesAt (last ++ [0x80]) 0 16) (cmacDouble k1)
  aesEncrypt key (xorBytes ((List.range (n - 1)).foldl (fun c i => aesEncrypt key (xorBytes c (bytesAt msg (16 * i) 16)))
    (List.replicate 16 0)) tail)

/-- R433: the tag of a sector: the first 64 bits of the CMAC over its address and its ciphertext. -/
def sealTag (material : List Byte) (a : Nat) (cipher : List Byte) : DWord :=
  BitVec.ofNat 64 (fieldAt (cmac (sectorKey material 2) (natLe 8 a ++ cipher)) 0 8)

/-! ### GCM (R399) -/

/-- SP 800-38D: multiplication of blocks, as numbers with the first bit highest. -/
def ghashMul (x y : Nat) : Nat :=
  ((List.range 128).foldl (fun (r : Nat × Nat) i =>
    (if x.testBit (127 - i) then Nat.xor r.1 r.2 else r.1,
     if r.2 % 2 == 1 then Nat.xor (r.2 / 2) (0xE1 * 2 ^ 120) else r.2 / 2)) (0, y)).1

/-- SP 800-38D: GHASH of a string of whole blocks. -/
def ghash (h : Nat) (bs : List Byte) : Nat :=
  (List.range (bs.length / 16)).foldl (fun y i => ghashMul (Nat.xor y (beNat (bytesAt bs (16 * i) 16))) h) 0

/-- A string filled with zeros to whole blocks. -/
def padBlock (bs : List Byte) : List Byte := bs ++ List.replicate ((16 - bs.length % 16) % 16) 0

/-- SP 800-38D: the counter block of a 96-bit nonce. -/
def gcmCounter (nonce : List Byte) (n : Nat) : List Byte := nonce ++ (natLe 4 n).reverse

/-- SP 800-38D: the key stream over some bytes. -/
def gcmStream (key nonce data : List Byte) : List Byte :=
  (List.range ((data.length + 15) / 16)).flatMap fun i =>
    xorBytes ((data.drop (16 * i)).take 16) (aesEncrypt key (gcmCounter nonce (i + 2)))

/-- SP 800-38D: the tag over associated data and ciphertext. -/
def gcmTag (key nonce aad cipher : List Byte) : List Byte :=
  let h := beNat (aesEncrypt key (List.replicate 16 0))
  let y := ghash h (padBlock aad ++ padBlock cipher ++ (natLe 8 (8 * aad.length)).reverse ++ (natLe 8 (8 * cipher.length)).reverse)
  xorBytes ((natLe 16 y).reverse) (aesEncrypt key (gcmCounter nonce 1))

/-- SP 800-38D: the ciphertext followed by the tag. -/
def gcmSeal (key nonce aad data : List Byte) : List Byte :=
  let c := gcmStream key nonce data
  c ++ gcmTag key nonce aad c

/-- SP 800-38D: the plaintext, none where the tag does not verify. -/
def gcmOpen (key nonce aad sealed_ : List Byte) : Option (List Byte) :=
  let n := sealed_.length - 16
  let c := sealed_.take n
  if sealed_.length < 16 || gcmTag key nonce aad c != sealed_.drop n then none else some (gcmStream key nonce c)

end Sys2Proof.Machine
end

