-- ==== Sys2Proof/Machine/Mem.lean ====
section
/-! DEFINITION. Byte memory in its canonical form (log 3): addresses rising, no byte 0 listed. -/

namespace Sys2Proof.Machine

/-- What an unlisted address reads as (log 3): the zero a page is scrubbed to (R55, R246, R330). -/
def unlisted : Byte := 0

/-- One byte. -/
def Mem.read (m : Mem) (a : Nat) : Byte :=
  match m with
  | [] => unlisted
  | (k, b) :: rest => if k = a then b else if a < k then unlisted else Mem.read rest a

/-- Store one byte, keeping the canonical form. -/
def Mem.write (m : Mem) (a : Nat) (b : Byte) : Mem :=
  match m with
  | [] => if b = unlisted then [] else [(a, b)]
  | (k, c) :: rest =>
    if a < k then (if b = unlisted then (k, c) :: rest else (a, b) :: (k, c) :: rest)
    else if k = a then (if b = unlisted then rest else (a, b) :: rest)
    else (k, c) :: Mem.write rest a b

/-- Every listed address of a memory is at least `lo`, addresses rise, and no byte is the unlisted one. -/
def Mem.wfFrom (lo : Nat) : Mem → Bool
  | [] => true
  | (k, b) :: rest => lo ≤ k && b != unlisted && Mem.wfFrom (k + 1) rest

/-- The canonical form. -/
def Mem.wf (m : Mem) : Bool := Mem.wfFrom 0 m

/-- `n` bytes from an address. -/
def Mem.readN (m : Mem) (a : Nat) : Nat → List Byte
  | 0 => []
  | n + 1 => m.read a :: Mem.readN m (a + 1) n

/-- Store bytes from an address. -/
def Mem.writeN (m : Mem) (a : Nat) : List Byte → Mem
  | [] => m
  | b :: bs => Mem.writeN (m.write a b) (a + 1) bs

/-- Store those bytes that are present. -/
def Mem.writeSome (m : Mem) (a : Nat) : List (Option Byte) → Mem
  | [] => m
  | none :: bs => Mem.writeSome m (a + 1) bs
  | some b :: bs => Mem.writeSome (m.write a b) (a + 1) bs

/-- A little-endian number of `n` bytes. -/
def Mem.num (m : Mem) (a n : Nat) : Nat := leNat (m.readN a n)

/-- Set `n` bytes from an address to zero. -/
def Mem.clear (m : Mem) (a n : Nat) : Mem := m.filter fun c => !(a ≤ c.1 && c.1 < a + n)

/-- The bytes at or above an address and below another, as a memory. -/
def Mem.slice (m : Mem) (a n : Nat) : Mem := m.filter fun c => a ≤ c.1 && c.1 < a + n

end Sys2Proof.Machine
end

