-- ==== Sys2Proof/Machine/Xlat.lean ====
section
/-! DEFINITION. Two-stage translation (R256 to R259, R262, R453): the walk of both tables, the cached
translations, and what each access finds. -/

namespace Sys2Proof.Machine

/-- R257: classes are held in the key of a home, above its 57 address bits. -/
def classBase : Nat := 2 ^ 57

/-- R270, R453: the keys of class 10 lie above all others: the target's package, partition and window, and the address within the window. -/
def peerBase : Nat := 4 * classBase

/-- R257: the class of a key. -/
def keyClass (key : Nat) : Nat := if peerBase ≤ key then 2 else key / classBase

/-- R257: the address within its class of a key. -/
def keyAddr (key : Nat) : Nat := key % classBase

/-- R256: bytes mapped by a leaf at a level; CONT maps 64 KiB. -/
def leafBytes (level : Nat) (cont : Bool) : Nat :=
  match level with
  | 0 => if cont then 65536 else 4096
  | 1 => 2 ^ 21
  | _ => 2 ^ 30

/-- R256: the index of an address in a table of a level. -/
def tableIndex (level a : Nat) : Nat := a / 2 ^ (12 + 9 * level) % 512

/-- R257: the address field of an entry. -/
def entryAddr (e : Nat) : Nat := e / 4096 % 2 ^ 45 * 4096

/-- A bit of an entry. -/
def entryBit (e n : Nat) : Bool := e / 2 ^ n % 2 == 1

/-- R257: whether a valid entry is malformed at a stage and level. A CONT leaf is aligned whatever its ADDR bits 15:12, which the walker clears,
DEDUCED (log 62). -/
def entryMalformed (stage2 : Bool) (level e : Nat) : Bool :=
  let leaf := entryBit e 1
  let cont := entryBit e 4
  let zeroFields :=
    e / 2 ^ 57 != 0 || e / 2 ^ 9 % 8 != 0 ||
      (if stage2 then entryBit e 5 || entryBit e 3 else entryBit e 8 || e / 64 % 4 != 0)
  zeroFields || (leaf && level ≥ 3) || (!leaf && level == 0) || (cont && level != 0) ||
    (leaf && !cont && entryAddr e % leafBytes level cont != 0)

/-- R453: an entry of a peer window table, as two 64-bit halves; none when it is invalid. -/
structure PeerWindow where
  package : Nat
  part : Nat
  write : Bool
  braid : Bool
  window : Nat
deriving DecidableEq, Repr

/-- R453: entry `n` of a partition's peer window table; none at or beyond the count, when invalid, or when a
zero bit is set. -/
def peerWindow (mem : Mem) (p : Part) (n : Nat) : Option PeerWindow :=
  if p.ropeCount.toNat ≤ n then none
  else
    let lo := mem.num (p.ropeBase.toNat + 16 * n) 8
    let hi := mem.num (p.ropeBase.toNat + 16 * n + 8) 8
    if entryBit lo 32 && lo / 2 ^ 25 % 128 == 0 && lo / 2 ^ 35 == 0 && hi / 2 ^ 17 == 0 then
      some { package := lo % 2 ^ 18, part := lo / 2 ^ 18 % 128, write := entryBit lo 33, braid := entryBit lo 34,
             window := hi % 2 ^ 17 }
    else none

/-- R270, R453: where a window of a target partition begins among the keys of class 10. -/
def PeerWindow.key (w : PeerWindow) : Nat := peerBase + ((w.package * 2 ^ 7 + w.part) * 2 ^ 17 + w.window) * 2 ^ 40

/-- R257, R270, R453: the key of an address of a class; none where it names no valid entry of the peer window table. -/
def classKey (mem : Mem) (p : Part) (cls addr : Nat) : Option Nat :=
  if cls == 2 then (peerWindow mem p (addr / 2 ^ 40)).map fun w => w.key + addr % 2 ^ 40 else some (cls * classBase + addr)

/-- R453: writes through an entry of a class and address are permitted. -/
def classWrite (mem : Mem) (p : Part) (cls addr : Nat) : Bool := cls != 2 || (peerWindow mem p (addr / 2 ^ 40)).any PeerWindow.write

/-- R257: the key of a class and address that the outside gives; for class 10 it names the target's place. -/
def outsideKey (cls addr : Nat) : Nat := if cls == 2 then peerBase + addr % 2 ^ 82 else cls * classBase + addr % classBase

/-- R256, R257: a leaf of stage 2: the key of the page's base, its bytes, whether it may be written, CNT, and CONT. -/
structure Leaf2 where
  key : Nat
  bytes : Nat
  write : Bool
  cnt : Bool
  run : Bool := false
deriving DecidableEq, Repr

/-- What a walker reads with: memory as walks see it (R259), the granules it may not read (R275, R434), and the leaves of stage 2 that
the device refuses (R392), by key, bytes and whether they may be written. -/
structure Walker where
  mem : Mem
  poison : List Nat
  refuses : Nat → Nat → Bool → Bool

/-- R256, R392: a leaf of stage 2, unless the device refuses it. An address beyond the memory of R2 is one as any other, DESIGN CHOICE (log 60). -/
def Walker.leaf (k : Walker) (gpa : Nat) (x : Leaf2) : Except WalkResult Leaf2 :=
  if k.refuses x.key x.bytes x.write then .error (.page true 2 gpa false) else .ok x

/-- R256, R258, R275: the walk of stage 2 from a table at a level, with fuel for the five levels. -/
def walk2From (k : Walker) (p : Part) (gpa : Nat) : Nat → Nat → Nat → Except WalkResult Leaf2
  | 0, _, _ => .error (.page true 2 gpa false)
  | fuel + 1, level, table =>
    let at8 := table + 8 * tableIndex level gpa
    if k.poison.contains (at8 / 16) then .error (.page true 2 gpa false)
    else
      let e := k.mem.num at8 8
      if !entryBit e 0 then .error (.page true 0 gpa false)
      else if entryMalformed true level e then .error (.page true 2 gpa false)
      else if entryBit e 1 then
        let cont := entryBit e 4
        let bytes := leafBytes level cont
        let cls := e / 64 % 4
        let base := if cont then entryAddr e / 65536 * 65536 else entryAddr e
        match classKey k.mem p cls base with
        | none => .error (.page true 2 gpa false)
        | some key => k.leaf gpa { key := key, bytes := bytes, write := entryBit e 2 && classWrite k.mem p cls base, cnt := entryBit e 8, run := cont }
      else
        match classKey k.mem p (e / 64 % 4) (entryAddr e) with
        | none => .error (.page true 2 gpa false)
        | some key => walk2From k p gpa fuel (level - 1) key

/-- R256: stage 2 of a guest-physical address. -/
def walk2 (k : Walker) (p : Part) (gpa : Nat) : Except WalkResult Leaf2 := walk2From k p gpa 5 4 p.xlat.s2root.toNat

/-- R256, R258: the walk of stage 1 from a table at a level; each table address passes through stage 2. -/
def walk1From (k : Walker) (p : Part) (va : Nat) : Nat → Nat → Nat → Except WalkFail Xlate
  | 0, _, _ => .error { result := .page false 2 va false, readOnly := false }
  | fuel + 1, level, table =>
    let gpa := table + 8 * tableIndex level va
    match walk2 k p gpa with
    | .error (.page s r g _) => .error { result := .page s r g true, readOnly := false }
    | .error r => .error { result := r, readOnly := false }
    | .ok t =>
      let at8 := t.key + gpa % t.bytes
      if k.poison.contains (at8 / 16) then .error { result := .page true 2 gpa true, readOnly := false }
      else
        let e := k.mem.num at8 8
        if !entryBit e 0 then .error { result := .page false 0 va false, readOnly := false }
        else if entryMalformed false level e then .error { result := .page false 2 va false, readOnly := false }
        else if entryBit e 1 then
          let cont := entryBit e 4
          let bytes1 := leafBytes level cont
          let base := if cont then entryAddr e / 65536 * 65536 else entryAddr e
          let guest := base + va % bytes1
          match walk2 k p guest with
          | .error r => .error { result := r, readOnly := !entryBit e 2 }
          | .ok leaf =>
            let bytes := min bytes1 leaf.bytes
            .ok { va := va - va % bytes, bytes := bytes, key := leaf.key + (guest % leaf.bytes - va % bytes),
                  guest := guest - va % bytes, w1 := entryBit e 2, w2 := leaf.write, dsc := entryBit e 3,
                  shr := entryBit e 5, cnt := leaf.cnt, run1 := cont, run2 := leaf.run }
        else walk1From k p va fuel (level - 1) (entryAddr e)

/-- R256, R264: the combined translation of a virtual address. A stage-1 root of 0 faults every access. -/
def walk (k : Walker) (p : Part) (va : Nat) : Except WalkFail Xlate :=
  if p.xlat.s1root = 0 then .error { result := .page false 0 va false, readOnly := false }
  else walk1From k p va 5 4 p.xlat.s1root.toNat

/-! ### What walks read -/

/-- R259: a granule as walks read it: without the .nt stores that have been performed and not drained, whose commits are of
scope g. -/
def walkGran (hist : List Commit) (mem : Mem) (gran : Nat) : List (Option Byte) :=
  let cs := hist.filter fun c => c.atHome && c.gran == gran
  (List.range 16).map fun i =>
    match cs.find? fun c => c.scope != .g && (c.bytes[i]?).join.isSome with
    | some c => (c.bytes[i]?).join
    | none =>
      match cs.getLast? with
      | some c => some (c.prior.getD i 0)
      | none => some (mem.read (16 * gran + i))

/-- R259: memory as walks read it. -/
def State.walkMem (s : State) : Mem :=
  (s.hist.filter fun c => c.atHome && c.scope == .g).foldl (fun m c => m.writeSome (16 * c.gran) (walkGran s.hist s.mem c.gran)) s.mem

/-! ### Frames of owners and of the auditor (R392) -/

/-- A leaf of stage 2, whatever partition it is of. -/
def Walker.plain (mem : Mem) : Walker := { mem := mem, poison := [], refuses := fun _ _ _ => false }

/-- Two ranges of bytes meet. -/
def meets (a n b m : Nat) : Bool := a < b + m && b < a + n

/-- R256, R392: some leaf below a table of stage 2 meets `n` bytes from a key. -/
def leafMeets (mem : Mem) (p : Part) (key n : Nat) : Nat → Nat → Nat → Bool
  | 0, _, _ => false
  | fuel + 1, level, table =>
    (List.range 512).any fun i =>
      let e := mem.num (table + 8 * i) 8
      entryBit e 0 && !entryMalformed true level e &&
        (if entryBit e 1 then
          let bytes := leafBytes level (entryBit e 4)
          (classKey mem p (e / 64 % 4) (entryAddr e / bytes * bytes)).any fun k => meets key n k bytes
        else (classKey mem p (e / 64 % 4) (entryAddr e)).any fun k => leafMeets mem p key n fuel (level - 1) k)

/-- R392: the stage-2 tables of a partition map some of `n` bytes from a key. -/
def Part.maps (p : Part) (mem : Mem) (key n : Nat) : Bool := leafMeets mem p key n 5 4 p.xlat.s2root.toNat

/-- R392, R431: some shared page below a table of stage 1 lies in `n` bytes from a key. -/
def sharedMeets (mem : Mem) (p : Part) (key n : Nat) : Nat → Nat → Nat → Bool
  | 0, _, _ => false
  | fuel + 1, level, table =>
    (List.range 512).any fun i =>
      match walk2 (Walker.plain mem) p (table + 8 * i) with
      | .error _ => false
      | .ok t =>
        let e := mem.num (t.key + (table + 8 * i) % t.bytes) 8
        entryBit e 0 && !entryMalformed false level e &&
          (if entryBit e 1 then
            entryBit e 5 && (List.range (leafBytes level (entryBit e 4) / 4096)).any fun j =>
              let guest := entryAddr e / leafBytes level (entryBit e 4) * leafBytes level (entryBit e 4) + 4096 * j
              match walk2 (Walker.plain mem) p guest with
              | .ok leaf => meets key n (leaf.key + guest % leaf.bytes) 4096
              | .error _ => false
          else sharedMeets mem p key n fuel (level - 1) (entryAddr e))

/-- R392: bytes of HBM or of the second tier that an owner-tagged partition maps and holds as plaintext: every page of an unprotected
one, and the shared pages of a protected one. -/
def State.ownerPlain (s : State) (key n : Nat) : Bool :=
  keyClass key ≤ 1 && s.parts.any fun q => q.cfg.tag == .owner && q.maps s.mem key n &&
    (!q.cfg.protect || (q.xlat.s1root != 0 && sharedMeets s.mem q key n 5 4 q.xlat.s1root.toNat))

/-- R392: pages of the auditor. -/
def State.auditorPage (s : State) (key n : Nat) : Bool := s.parts.any fun q => q.cfg.tag == .auditor && q.maps s.mem key n

/-- R392: the leaves of stage 2 that the device refuses to a partition: for the operator, an owner's plaintext; for any partition but
the auditor's, one that may write a page of the auditor (log 21). -/
def State.refusesLeaf (s : State) (p : Part) (key n : Nat) (write : Bool) : Bool :=
  (p.cfg.tag == .operator && s.ownerPlain key n) || (write && p.cfg.tag != .auditor && s.auditorPage key n)

/-- R259, R392: how walks of a partition read, with the granules that they may not. -/
def State.walker (s : State) (p : Part) (poison : List Nat) : Walker :=
  { mem := s.walkMem, poison := poison, refuses := s.refusesLeaf p }

/-- R256, R392: the translation of a virtual address. -/
def State.translate (s : State) (poison : List Nat) (p : Part) (va : Nat) : Except WalkFail Xlate := walk (s.walker p poison) p va

/-- A translation covers a virtual address. -/
def Xlate.covers (x : Xlate) (va : Nat) : Bool := x.va ≤ va && va < x.va + x.bytes

/-- The key of a covered virtual address. -/
def Xlate.at (x : Xlate) (va : Nat) : Nat := x.key + (va - x.va)

/-- R257: two translations are of one CONT run of a stage and agree on it no more, the run's entries being unlike. -/
def Xlate.unlike (t x : Xlate) : Bool :=
  (t.run1 && x.run1 && t.va / 65536 == x.va / 65536 &&
    (x.guest + t.va != t.guest + x.va || x.w1 != t.w1 || x.dsc != t.dsc || x.shr != t.shr)) ||
  (t.run2 && x.run2 && t.guest / 65536 == x.guest / 65536 && (x.key + t.guest != t.key + x.guest || x.w2 != t.w2 || x.cnt != t.cnt))

/-- R257: a translation that has just been walked stands in every TLB of the partition for an older one of the same page and an unlike entry of
its run; another page of that run is walked again. -/
def PartXlat.supersede (t : Xlate) (x : PartXlat) : PartXlat :=
  { x with tlb := (x.tlb.map fun e => if t.unlike e.x && e.x.va == t.va && e.x.bytes == t.bytes then { e with x := t } else e).filter fun e =>
      !t.unlike e.x }

/-- R262: the translation of an address that the first of some TLBs that holds one has. -/
def PartXlat.lookup (x : PartXlat) (sites : List TlbSite) (va : Nat) : Option Xlate :=
  sites.findSome? fun y => (x.tlb.find? fun e => e.site == y && e.x.covers va).map TlbEntry.x

/-- What an address finds: a cached translation, the end of a walk that faulted, or neither yet. -/
inductive Found
  | hit (x : Xlate)
  | fault (r : WalkResult)
  | missing
deriving DecidableEq, Repr

/-- The kinds of access that R258 and R281 tell apart: an atomic that only loads needs no write permission. -/
inductive Intent
  | load | store | atomic | atomLoad
deriving DecidableEq, Repr

/-- R258, R281: the access needs write permission. -/
def Intent.writes (i : Intent) : Bool := i == .store || i == .atomic

/-- R281: the access is an atomic. -/
def Intent.isAtomic (i : Intent) : Bool := i == .atomic || i == .atomLoad

/-- R258: what a walk that failed means to an access: stage 1's leaf forbids writing before stage 2 is asked. -/
def WalkFail.meets (f : WalkFail) (i : Intent) : WalkResult := if i.writes && f.readOnly then .access else f.result

/-- R258, R262: an address against the translations of some sites and the walks that have ended. -/
def PartXlat.find (x : PartXlat) (sites : List TlbSite) (i : Intent) (va : Nat) : Found :=
  if classBase ≤ va then .fault .access
  else
    match x.lookup sites va with
    | some t => .hit t
    | none =>
      match x.verdicts.find? fun v => v.1 == va / 4096 with
      | some v => .fault (v.2.meets i)
      | none => .missing

/-- R426, R431: whether a protected partition refuses an access to a page. -/
def protectRefuses (p : Part) (x : Xlate) : Bool :=
  p.cfg.protect && ((!x.shr && keyClass x.key != 0) || (keyClass x.key == 3 && p.cc.stream.isNone))

/-- R258, R431: what a translated access finds. A frame of the code area is no ground to refuse it (log 48). -/
def permit (p : Part) (i : Intent) (x : Xlate) (va : Nat) : Option WalkResult :=
  if i.writes && !x.w1 then some .access
  else if i.writes && !x.w2 then some (.page true 1 (x.guest + (va - x.va)) false)
  else if i.isAtomic && keyClass x.key == 3 then some .access
  else if protectRefuses p x then some .access
  else none

/-- R258: an access of one byte range within a page, through the TLBs of some sites. A page of a partition's code area is reached as any
other: the code itself is not held in memory (log 48). -/
def PartXlat.access (p : Part) (sites : List TlbSite) (i : Intent) (va : Nat) : Found :=
  match p.xlat.find sites i va with
  | .hit x =>
    match permit p i x va with
    | none => .hit x
    | some r => .fault r
  | f => f

/-- R263: walks in a partition's queue. -/
def PartXlat.queuedWalks (x : PartXlat) : List WalkReq := x.walks.filter fun w => w.phase == .queued

/-- R263: ask for a walk of a page for some sites at a place in the order of asking, or join one that is queued or runs; nothing when the
queue is full. -/
def PartXlat.askWalk (asked : Nat) (sites : List TlbSite) (x : PartXlat) (page : Nat) : PartXlat :=
  if x.walks.any fun w => w.page == page then
    { x with walks := x.walks.map fun w => if w.page == page then { w with sites := w.sites ++ sites.filter fun y => !w.sites.contains y } else w }
  else if 256 ≤ x.queuedWalks.length then x
  else { x with walks := x.walks ++ [{ page := page, phase := .queued, asked := asked, sites := sites }] }

/-- R262: entries that a TLB has room for; none where the spec bounds it nowhere. -/
def TlbSite.cap : TlbSite → Option Nat
  | .hall _ => some 128
  | .cluster _ => some 4096
  | .io => none

/-- The translations that a TLB holds, each with its partition. -/
def State.tlbAt (s : State) (site : TlbSite) : List (Nat × Xlate) :=
  s.parts.flatMap fun p => (p.xlat.tlb.filter fun e => e.site == site).map fun e => (p.id, e.x)

/-- Forget the ends of walks that an access has used. -/
def PartXlat.forget (x : PartXlat) (pages : List Nat) : PartXlat :=
  { x with verdicts := x.verdicts.filter fun v => !pages.contains v.1 }

end Sys2Proof.Machine
end

