-- ==== Sys2Proof/Machine/Lines.lean ====
section
/-! DEFINITION. Lines below the homes of R40 (R13, R15, R247, R252 to R254, R269, R344, R411, R432, R433): which lines L1, L2 and the
memory-side caches hold, what leaves them, and what then stands at the system homes and in the memory behind them. -/

namespace Sys2Proof.Machine

/-- The line of a key. -/
def lineOf (key : Nat) : Nat := key / 128

/-- R252: the sector of its line that a granule lies in, as a bit. -/
def sectorBit (gran : Nat) : BitVec 4 := BitVec.ofNat 4 (2 ^ (gran % 8 / 2))

/-- Which of `n` entries leaves when one more comes to a store of `cap` entries whose organisation the spec does not give: one when it is
full, and otherwise none or one (log 47). -/
def evictPick (free key n cap : Nat) : Option Nat :=
  if n = 0 then none
  else if cap ≤ n then some (Config.freePick free key % n)
  else
    match Config.freePick free key % (n + 1) with
    | 0 => none
    | i + 1 => some i

/-- The entry of a place, and the list without it. -/
def takeAt {α : Type} (l : List α) : Option Nat → List α × Option α
  | none => (l, none)
  | some n => (l.eraseIdx n, l[n]?)

/-! ### L1 -/

/-- R15, R245: bytes of scratchpad that a hall's teams hold, in steps of 32 KiB. -/
def spadSplit (bytes : Nat) : Nat := (bytes + 32767) / 32768 * 32768

/-- R15, R245: lines of L1 beside a scratchpad of some bytes. -/
def l1Lines (scratch : Nat) : Nat := (512 * 1024 - spadSplit scratch) / 128

/-- R247: L1 holds a line, global or private to a group. -/
def inL1 (ls : List L1Line) (line : Nat) (owner : Option Nat) : Bool := ls.any fun l => l.line == line && l.owner == owner

/-- R247, R251: L1 after a line is filled or written, and the line that leaves for it. -/
def l1After (free cap : Nat) (new : L1Line) (ls : List L1Line) : List L1Line × Option L1Line :=
  if inL1 ls new.line new.owner then
    (ls.map fun l => if l.line == new.line && l.owner == new.owner then { l with dirty := l.dirty ||| new.dirty } else l, none)
  else
    let r := takeAt ls (evictPick free (2 ^ 80 + new.line) ls.length cap)
    (new :: r.1, r.2)

/-- R245: the lines that leave L1 when it shrinks to `cap` lines, the oldest ones. -/
def l1Shrink (cap : Nat) (ls : List L1Line) : List L1Line × List L1Line := (ls.take cap, ls.drop cap)

/-- R379: victim tags after some lines have left L1: global ones, the most recent first. -/
def pushVictims (left : List L1Line) (tags : List Nat) : List Nat :=
  (((left.filter fun l => l.owner.isNone).map L1Line.line) ++ tags).take 256

/-! ### L2 -/

/-- R253, R254: the keep-until step that covers a virtual address. -/
def PartXlat.keepTag (x : PartXlat) (va : Nat) : Option Word :=
  (x.keeps.find? fun k => k.start ≤ va && va < k.start + 128 * k.lines).map Keep.step

/-- R254: signed distance of two steps. -/
def stepDist (a b : Word) : Int := (a - b).toInt

/-- R411: the partition keeps lines of a slice. -/
def PartCfg.keepsSlice (c : PartCfg) (slice : Nat) : Bool :=
  if slice < 32 then c.slice0.getLsbD slice else if slice < 64 then c.slice1.getLsbD (slice - 32) else c.slice2.getLsbD (slice - 64)

/-- R254: the least element of a list by a measure, the earlier filled first. -/
def victimBy (f : L2Line → Int) (ls : List L2Line) : Option L2Line :=
  match ls with
  | [] => none
  | l :: rest => some (rest.foldl (fun b x => if f x < f b || (f x == f b && x.order < b.order) then x else b) l)

/-- R254, R411: the victim among the lines in a partition's ways of a set: another partition's lines count as uncovered. -/
def chooseVictim (p : Part) (ls : List L2Line) : Option L2Line :=
  let tag := fun l : L2Line => if l.part == p.id then l.tag else none
  let expired := ls.filter fun l => (tag l).any fun k => 0 < stepDist p.xlat.l2step k
  let uncovered := ls.filter fun l => (tag l).isNone
  if !expired.isEmpty then victimBy (fun l => (l.order : Int)) expired
  else if !uncovered.isEmpty then victimBy (fun l => (l.order : Int)) uncovered
  else victimBy (fun l => stepDist ((tag l).getD 0) p.xlat.l2step) ls

/-- R411: the ways of a partition. -/
def PartCfg.ways (c : PartCfg) : List Nat := (List.range 16).filter fun n => c.wayMask.getLsbD n

/-- R432: the ways that may hold a line of a partition: its protectable ones for a protected line. -/
def PartCfg.waysFor (c : PartCfg) (prot : Bool) : List Nat := if prot then c.ways.filter (· < 12) else c.ways

/-- R252: the slice of a line. -/
def sliceOf (line : Nat) : Nat := Config.homeSlice line % 96

/-- R2, R252: the set of a line: 4 MiB of 16 ways make 2,048. -/
def setOf (line : Nat) : Nat := Config.l2Set line % 2048

/-- R254: what brings a line into L2: the filling partition, whether the access is protected, the lines that are pinned, the access's
virtual address, the line, and the sectors that come valid and dirty. -/
structure L2Fill where
  part : Part
  prot : Bool
  pins : List Nat
  va : Nat
  line : Nat
  valid : BitVec 4
  dirty : BitVec 4

/-- R254, R344, R411, R432: the way a new line takes among some ways of its set, and the line that leaves it; none where it may take none. -/
def placeWay (f : L2Fill) (ways : List Nat) (ls : List L2Line) : Option (Nat × Option L2Line) :=
  let inSet := ls.filter fun l => l.slice == sliceOf f.line && l.set == setOf f.line
  match ways.find? fun w => !inSet.any fun l => l.way == w with
  | some w => some (w, none)
  | none => (chooseVictim f.part (inSet.filter fun l => ways.contains l.way && !f.pins.contains l.line)).map fun v => (v.way, some v)

/-- R252, R432: a line serves an access where it stands: a protected one only in plaintext, in a protectable way of the partition. -/
def L2Fill.hits (f : L2Fill) (l : L2Line) : Bool :=
  l.line == f.line && (!f.prot || (l.prot && !l.sealedWay && l.part == f.part.id && (f.part.cfg.waysFor true).contains l.way))

/-- R432: the sectors that come valid in a line that serves an access; one by the plain path reads none of a protected line. -/
def L2Fill.comes (f : L2Fill) (l : L2Line) : BitVec 4 := if l.prot && !f.prot then f.dirty else f.valid

/-- R432: the sectors that a line brings to a protectable way: those that a protected access has left there, and what was written. -/
def L2Line.brings (l : L2Line) : BitVec 4 := if l.prot then l.valid else l.dirty

/-- R254, R411, R432: the lines of L2 after a fill, and the line that leaves; none where the line is not kept. -/
def l2After (f : L2Fill) (ls : List L2Line) : Option (List L2Line × Option L2Line) :=
  match ls.find? f.hits with
  | some l => some (ls.map fun x => if x == l then { x with valid := x.valid ||| f.comes x, dirty := x.dirty ||| f.dirty } else x, none)
  | none =>
    let old := ls.find? fun l => l.line == f.line
    let rest := ls.filter fun l => l.line != f.line
    let ways := f.part.cfg.waysFor f.prot
    if ways.isEmpty || !f.part.cfg.keepsSlice (sliceOf f.line) then none
    else
      (placeWay f ways rest).map fun w =>
        let order := rest.foldl (fun n l => max n (l.order + 1)) 0
        let new : L2Line :=
          { line := f.line, slice := sliceOf f.line, set := setOf f.line, way := w.1, part := f.part.id, tag := f.part.xlat.keepTag f.va,
            order := order, valid := f.valid ||| (old.map L2Line.brings).getD 0, dirty := f.dirty ||| (old.map L2Line.dirty).getD 0,
            prot := f.prot, sealedWay := false }
        ((match w.2 with
          | some v => rest.erase v
          | none => rest) ++ [new], w.2)

/-- R252, R432: L2 holds the protected sector of a granule in plaintext. -/
def holdsSector (ls : List L2Line) (gran : Nat) : Bool :=
  ls.any fun l => l.line == gran / 8 && l.prot && !l.sealedWay && l.valid &&& sectorBit gran != 0

/-- R252: L2 holds every sector of some granules of a line. -/
def inL2 (ls : List L2Line) (line : Nat) : Bool := ls.any fun l => l.line == line && !l.sealedWay && l.valid == 15

/-! ### System homes and the memory behind them -/

/-- R13: lines that the memory-side cache of a stack holds: 32 MiB. -/
def mscLines : Nat := 32 * 1024 * 1024 / 128

/-- The bytes of a line in one memory, as another holds them. -/
def copyLine (source dest : Mem) (line : Nat) : Mem := dest.writeN (128 * line) (source.readN (128 * line) 128)

/-- R252, R268: a line comes to the memory-side cache of its stack, or is written there; what leaves it goes to memory. Lines of the other
classes are in no memory-side cache. -/
def Homes.fillMsc (h : Homes) (free line : Nat) (dirty : Bool) : Homes :=
  if keyClass (128 * line) != 0 then { h with backing := if dirty then copyLine h.sysMem h.backing line else h.backing }
  else if h.msc.any fun l => l.line == line then
    { h with msc := h.msc.map fun l => if l.line == line then { l with dirty := l.dirty || dirty } else l }
  else
    let stack := fun l : MscLine => Config.homeStack l.line % 12 == Config.homeStack line % 12
    let here := h.msc.filter stack
    let out := ((evictPick free (2 ^ 81 + line) here.length mscLines).bind fun n => here[n]?)
    { h with
      msc := { line := line, dirty := dirty } :: (match out with
        | some v => h.msc.erase v
        | none => h.msc)
      backing := match out with
        | some v => if v.dirty then copyLine h.sysMem h.backing v.line else h.backing
        | none => h.backing }

/-- R433: the seal of a sector. -/
def Homes.seal? (h : Homes) (sec : Nat) : Option Seal := h.seals.find? fun x => x.sec == sec

/-- R433: the side band of a sealed sector matches what stands at the system home; so it does while nothing has been sealed there. -/
def Homes.tagHolds (h : Homes) (x : Seal) : Bool :=
  x.tag.all fun t => t == sealTag x.material (keyAddr (32 * x.sec)) (h.sysMem.readN (32 * x.sec) 32)

/-- R433: a sector's bytes in plaintext as its system home is given them: sealed when the sector is protected. -/
def Homes.putSector (h : Homes) (sec : Nat) (plain : List Byte) : Homes :=
  match h.seal? sec with
  | some x =>
    let c := sealSector x.material (keyAddr (32 * sec)) plain
    { h with
      sysMem := h.sysMem.writeN (32 * sec) c
      seals := h.seals.map fun y => if y.sec == sec then { y with tag := some (sealTag x.material (keyAddr (32 * sec)) c) } else y }
  | none => { h with sysMem := h.sysMem.writeN (32 * sec) plain }

/-- R433: the side band of a sector in HBM: its tag, zero where it is not sealed, and its ECC word. -/
def Homes.sideBand (h : Homes) (sec : Nat) : List Byte :=
  let tag := natLe 8 (((h.seal? sec).bind Seal.tag).getD 0).toNat
  tag ++ natLe 8 (Config.sectorEcc (h.sysMem.readN (32 * sec) 32 ++ tag))

/-- R269: what the homes hold of a granule is performed at its system home: with its sector when that is protected. -/
def Homes.perform (h : Homes) (mem : Mem) (free gran : Nat) : Homes :=
  (match h.seal? (gran / 2) with
   | some _ => h.putSector (gran / 2) (mem.readN (32 * (gran / 2)) 32)
   | none => { h with sysMem := h.sysMem.writeN (16 * gran) (mem.readN (16 * gran) 16) }).fillMsc free (gran / 8) true

/-- R421: the granules of a line's dirty sectors. -/
def L2Line.dirtyGrans (l : L2Line) : List Nat := ((List.range 8).map fun i => 8 * l.line + i).filter fun g => l.dirty &&& sectorBit g != 0

/-- R252: a line is written back: its dirty sectors are performed at the system home. -/
def Homes.writeBack (h : Homes) (mem : Mem) (free : Nat) (l : L2Line) : Homes :=
  if l.dirty == 0 then h
  else
    ((List.range 4).foldl (fun h i =>
      let sec := 4 * l.line + i
      if l.dirty.getLsbD i then h.putSector sec (mem.readN (32 * sec) 32) else h) h).fillMsc free l.line true

/-- R432: a protected line that leaves the protectable ways may take a shared way of its partition, sealed; none where it does not. -/
def Homes.reseal (h : Homes) (free : Nat) (f : L2Fill) (v : L2Line) : Option (List L2Line × Option L2Line) :=
  if v.part == f.part.id && v.prot && v.way < 12 && f.part.cfg.protect && (List.range 4).any (fun i => (h.seal? (4 * v.line + i)).isSome) &&
      Config.freePick free (2 ^ 82 + v.line) % 2 == 1 then
    (placeWay { f with line := v.line } (f.part.cfg.ways.filter (12 ≤ ·)) h.l2).map fun w =>
      ((match w.2 with
        | some u => h.l2.erase u
        | none => h.l2) ++ [{ v with way := w.1, sealedWay := true }], w.2)
  else none

/-- R411: a line that L2 does not keep is written through and dropped there. -/
def Homes.bypass (h : Homes) (mem : Mem) (free : Nat) (f : L2Fill) : Homes × List Nat :=
  let gone := h.l2.filter fun x => x.line == f.line
  let l : L2Line :=
    { line := f.line, slice := 0, set := 0, way := 0, part := f.part.id, tag := none, order := 0, valid := f.valid,
      dirty := gone.foldl (fun d (x : L2Line) => d ||| x.dirty) f.dirty, prot := f.prot,
      sealedWay := false }
  (({ h with l2 := h.l2.filter fun x => x.line != f.line }).writeBack mem free l, l.dirtyGrans)

/-- R252, R254, R411, R432: a line comes to L2, with what leaves for it; and the granules that were performed at their system homes. -/
def Homes.fill (h : Homes) (mem : Mem) (free : Nat) (f : L2Fill) : Homes × List Nat :=
  match l2After f h.l2 with
  | none => h.bypass mem free f
  | some (ls, none) => ({ h with l2 := ls }, [])
  | some (ls, some v) =>
    let h1 := { h with l2 := ls }
    match h1.reseal free f v with
    | none => (h1.writeBack mem free v, v.dirtyGrans)
    | some (ls2, none) => ({ h1 with l2 := ls2 }, [])
    | some (ls2, some u) => ({ h1 with l2 := ls2 }.writeBack mem free u, u.dirtyGrans)

/-- R269: the homes' granule is performed at the system home by a write at y, or by one that is tracked; L2 keeps its line. -/
def Homes.through (h : Homes) (mem : Mem) (free : Nat) (grans : List Nat) : Homes := grans.foldl (fun h g => h.perform mem free g) h

/-- R419, R421: lines of a range are written back from L2 and dropped there. -/
def Homes.flushL2 (h : Homes) (mem : Mem) (free : Nat) (here : Nat → Bool) : Homes :=
  (h.l2.filter fun l => here l.line).foldl (fun h l => h.writeBack mem free l) { h with l2 := h.l2.filter fun l => !here l.line }

/-- R419: lines of a range are written back from the memory-side caches and dropped there. -/
def Homes.flushMsc (h : Homes) (here : Nat → Bool) : Homes :=
  { h with
    msc := h.msc.filter fun l => !here l.line
    backing := (h.msc.filter fun l => here l.line && l.dirty).foldl (fun b l => copyLine h.sysMem b l.line) h.backing }

end Sys2Proof.Machine
end

