-- ==== Sys2Proof/Machine/Commit.lean ====
section
/-! DEFINITION. Phases and scopes (R38 to R57): parties, the scope order, commits and what they set off,
snapshots, and what a read returns. -/

namespace Sys2Proof.Machine

/-- Update one group. -/
def State.updGroup (s : State) (n : Nat) (f : Group → Group) : State := { s with groups := listModify s.groups n f }

/-- Update one team. -/
def State.updTeam (s : State) (n : Nat) (f : Team → Team) : State := { s with teams := listModify s.teams n f }

/-- Update one hall. -/
def State.updHall (s : State) (n : Nat) (f : Hall → Hall) : State := { s with halls := listModify s.halls n f }

/-- Update one grid. -/
def State.updGrid (s : State) (n : Nat) (f : Grid → Grid) : State := { s with grids := listModify s.grids n f }

/-- Update one engine command. -/
def State.updCmd (s : State) (n : Nat) (f : Cmd → Cmd) : State := { s with cmds := listModify s.cmds n f }

/-- Update the partition of a number. -/
def State.updPart (s : State) (id : Nat) (f : Part → Part) : State :=
  { s with parts := s.parts.map fun p => if p.id == id then f p else p }

/-- The partition of a number, when it exists. -/
def State.part? (s : State) (id : Nat) : Option Part := s.parts.find? fun p => p.id == id

/-- Add an event to those that are due, once. -/
def State.due (s : State) (e : Instr) : State := if s.events.contains e then s else { s with events := s.events ++ [e] }

/-- Add an event to those that are due, though an equal one is: a write to a register is not lost for that. -/
def State.post (s : State) (e : Instr) : State := { s with events := s.events ++ [e] }

/-- Remove an event from those that are due: the first of its kind. -/
def State.undue (s : State) (e : Instr) : State := { s with events := s.events.erase e }

/-- R39, R375, R390: the smallest scope whose domain holds both parties; the groups of a team are always on one hall, whichever. -/
def Party.need (a b : Party) : Scope :=
  if a.group.isSome && a.group == b.group then .g
  else if (a.hall.isSome && a.hall == b.hall) || (a.team.isSome && a.team == b.team) then .h
  else if a.part.isSome && a.part == b.part then .p
  else .y

/-- R39: the host, a peer or the device itself. -/
def Party.outside : Party := { part := none, hall := none, group := none }

/-- The granule of a key (R48). -/
def granOf (key : Nat) : Nat := key / 16

/-- R292: a strand asleep in WAITW completes. -/
def Entry.rouse (e : Entry) : Entry := if e.wait == .watch then { e with wait := .ready, grant := some .woken } else e

/-- Change every entry of a group, those frozen by a trap or landing too. -/
def Group.mapEntries (f : Entry → Entry) (g : Group) : Group :=
  let on := fun c : Control => { c with entries := c.entries.map fun x => x.map f }
  { g with ctl := on g.ctl, ctxs := g.ctxs.map fun x => { x with ctl := on x.ctl } }

/-- R291, R292: fire the watches on a granule's line in one group; every strand of it that sleeps in WAITW completes. -/
def Group.fire (line : Nat) (g : Group) : Group :=
  if g.watch.any fun w => w.line == line then
    { g.mapEntries Entry.rouse with watch := g.watch.map fun w => if w.line == line then { w with fired := true } else w }
  else g

/-- R370: read again the dependences of a grid that watch a line; `word` is what a word holds at its system home. -/
def Grid.observe (word : Nat → Nat) (line : Nat) (g : Grid) : Grid :=
  { g with deps := g.deps.map fun d =>
      if d.kind != 0 && lineOf d.key == line && !d.met then
        { d with met := if d.kind == 1 then word d.key == d.value.toNat else d.value.toNat ≤ word d.key }
      else d }

/-- R433: the bytes at a key's system home, as the partition that sealed them reads them. -/
def Homes.plainAt (h : Homes) (key : Nat) : Byte :=
  match h.seal? (key / 32) with
  | some x => (openSector x.material (keyAddr (key / 32 * 32)) (h.sysMem.readN (key / 32 * 32) 32)).getD (key % 32) 0
  | none => h.sysMem.read key

/-- R433: a sector at its system home, as the partition that sealed it reads it. -/
def Homes.plainSector (h : Homes) (sec : Nat) : List Byte := (List.range 32).map fun i => h.plainAt (32 * sec + i)

/-- R370: a 32-bit word at its system home. -/
def State.sysWord (s : State) (key : Nat) : Nat := leNat ((List.range 4).map fun i => s.homes.plainAt (key + i))

/-- R291, R370: what a write performed at a granule's home sets off. -/
def State.written (s : State) (gran : Nat) : State :=
  let line := gran / 8
  { s with
    groups := if s.groups.any fun g => g.watch.any fun w => w.line == line then s.groups.map (Group.fire line) else s.groups
    grids := if s.grids.any fun g => g.deps.any fun d => lineOf d.key == line then s.grids.map (Grid.observe s.sysWord line)
      else s.grids }

/-- What one commit is, but its granules. -/
structure CommitKind where
  party : Party
  scope : Scope
  atHome : Bool
  atomic : Bool
  sector : Bool
  discard : Bool
  /-- R431: the partition whose access it is. -/
  own : Option Nat := party.part
deriving DecidableEq, Repr

/-- What a commit writes to one granule: the bytes, the virtual address of the access (R254), whether its page is shared (R431), and the
fences of R50. -/
structure GranWrite where
  gran : Nat
  bytes : List (Option Byte)
  va : Nat := 0
  shr : Bool := false
  fences : List (Option (Nat × Nat)) := []
deriving DecidableEq, Repr

/-- R421: the bitmap word and bit of a key in a partition's tracked range. -/
def PartMig.dirtyBit (m : PartMig) (key : Nat) : Option (Nat × Nat) :=
  let first := m.trkFirst.toNat
  let a := keyAddr key
  if m.track && keyClass key ≤ 1 && first ≤ a && a < first + 4096 * m.trkPages.toNat then
    let g := (a - first) / 16
    some (m.bmBase.toNat + 4 * (g / 32), g % 32)
  else none

/-- R421: some partition tracks a granule. -/
def State.tracked (s : State) (gran : Nat) : Bool := s.parts.any fun p => (p.mig.dirtyBit (16 * gran)).isSome

/-- R421: some partition tracks writes. -/
def State.tracks (s : State) : Bool := s.parts.any fun p => p.mig.track

/-- R291: what fires a watch: commits at p or y, atomics, and a DISCARD; an .nt store that is only performed does not. -/
def CommitKind.fires (k : CommitKind) : Bool := k.atomic || k.discard || 2 ≤ k.scope.rank

/-- R429: the partition holds a LIVE memory slot. -/
def State.memoryKey (s : State) (pid : Nat) : Option KeySlot :=
  s.keys.find? fun k => k.part == some pid && k.kind == 2 && k.state == 1

/-- R427, R430: the memory slot that seals for a partition: a LIVE one, or one whose revocation is under way. -/
def State.sealKey (s : State) (pid : Nat) : Option KeySlot :=
  s.keys.find? fun k => k.part == some pid && k.kind == 2 && (k.state == 1 || k.state == 4)

/-- R431: an access of a partition to a granule is protected. -/
def State.protects (s : State) (own : Option Nat) (shr : Bool) (gran : Nat) : Bool :=
  (own.bind s.part?).any fun p => p.cfg.protect && keyClass (16 * gran) == 0 && !shr

/-- R431, R433: the key material of a protected access of a partition to a granule; none when the access is not protected, or no key seals. -/
def State.sealer (s : State) (own : Option Nat) (shr : Bool) (gran : Nat) : Option (List Byte) :=
  if s.protects own shr gran then (own.bind s.sealKey).map KeySlot.material else none

/-- R427, R430: a protected access that no key seals or opens (log 28). -/
def State.keyless (s : State) (own : Option Nat) (shr : Bool) (gran : Nat) : Bool := s.protects own shr gran && (s.sealer own shr gran).isNone

/-- The free value that names what the caches do at the present place (log 47). -/
def State.dice (s : State) : Nat := s.seq * 2 ^ 64 + s.free

/-- R432: a sealed sector as it stands outside the protectable ways: in a shared way that has not written it back, or at its system home. -/
def State.sealedBytes (s : State) (x : Seal) : List Byte :=
  if s.homes.l2.any fun l => l.line == x.sec / 4 && l.sealedWay && l.dirty.getLsbD (x.sec % 4) then
    sealSector x.material (keyAddr (32 * x.sec)) (s.mem.readN (32 * x.sec) 32)
  else s.homes.sysMem.readN (32 * x.sec) 32

/-- R430, R432: a line of L2 some of whose sectors no key opens is held as it is. -/
def L2Line.asIs (gone : List Nat) (l : L2Line) : L2Line :=
  if gone.any fun sec => sec / 4 == l.line then { l with prot := false, sealedWay := false } else l

/-- R430, R433: no key opens again what some material sealed: the sealed sectors stay as they are, and a protected read finds them torn. -/
def State.loseKey (s : State) (material : List Byte) : State :=
  let lost := s.homes.seals.filter fun x => x.material == material
  let gone := lost.map Seal.sec
  { s with
    mem := lost.foldl (fun m x => m.writeN (32 * x.sec) (s.sealedBytes x)) s.mem
    hist := s.hist.filter fun c => !gone.contains (c.gran / 2)
    broken := nub (s.broken ++ gone.flatMap fun sec => [2 * sec, 2 * sec + 1])
    homes := { s.homes with seals := s.homes.seals.filter (fun x => x.material != material), l2 := s.homes.l2.map (L2Line.asIs gone) } }

/-- R433: what stands at a sealed sector's system home opens to other bytes than were last written there, and L2 holds none of it: an earlier
sealed value has been written back. -/
def State.rolledBack (s : State) (sec : Nat) : Bool :=
  match s.homes.seal? sec with
  | some x =>
    x.tag.isSome && !holdsSector s.homes.l2 (2 * sec) && !(s.homes.l2.any fun l => l.line == sec / 4 && l.sealedWay && l.valid.getLsbD (sec % 4)) &&
      s.homes.plainSector sec != s.mem.readN (32 * sec) 32
  | none => false

/-- R433: what a protected write finds in a sector: what its system home holds, where an earlier value has been written back there. -/
def State.reopen (s : State) (sec : Nat) : State :=
  if s.rolledBack sec then { s with mem := s.mem.writeN (32 * sec) (s.homes.plainSector sec) } else s

/-- R433: a protected access meets a sector that its material has not sealed: one that other material sealed, or one that is not sealed and
not all zeros (log 30). -/
def State.foreign (s : State) (m : List Byte) (sec : Nat) : Bool :=
  match s.homes.seal? sec with
  | some x => x.material != m
  | none => (s.mem.readN (32 * sec) 32).any (· != 0)

/-- R432 to R434: a protected access is about to write a granule: its sector is sealed with the partition's material. A sector that this
material has not sealed is broken; a granule written whole is mended. -/
def State.sealGran (s0 : State) (k : CommitKind) (w : GranWrite) : State :=
  match s0.sealer k.own w.shr w.gran with
  | none => s0
  | some m =>
    let sec := w.gran / 2
    let s := s0.reopen sec
    let held := (s.homes.seal? sec).any fun x => x.material == m
    let torn := if s.foreign m sec then nub (s.broken ++ [2 * sec, 2 * sec + 1]) else s.broken
    { s with
      homes := if held then s.homes else { s.homes with seals := { sec := sec, material := m, tag := none } :: s.homes.seals.filter fun y => y.sec != sec }
      broken := if w.bytes.all Option.isSome then torn.filter (· != w.gran) else torn }

/-- R433: a write reaches a sealed sector by the plain path, so that it changes the bytes at the system home. -/
def State.isRaw (s : State) (k : CommitKind) (w : GranWrite) : Bool :=
  k.atHome && (s.homes.seal? (w.gran / 2)).isSome && !s.protects k.own w.shr w.gran

/-- A granule written whole. -/
def GranWrite.whole (w : GranWrite) : Bool := w.bytes.length == 16 && w.bytes.all Option.isSome

/-- R433: a write by the plain path to a sealed sector: its side band has a zero tag from then on. -/
def State.putRaw (s : State) (k : CommitKind) (w : GranWrite) : State :=
  let h : Homes :=
    { s.homes with
      sysMem := s.homes.sysMem.writeSome (16 * w.gran) w.bytes
      seals := s.homes.seals.map fun y => if y.sec == w.gran / 2 then { y with tag := some 0 } else y }
  let s1 := { s with homes := h.fillMsc s.dice (w.gran / 8) true, poison := if w.whole then s.poison.erase w.gran else s.poison }
  if k.fires then s1.written w.gran else s1

/-- R40: the commit of one granule at the present place. -/
def State.commitOf (s : State) (k : CommitKind) (w : GranWrite) : Commit :=
  { gran := w.gran, bytes := w.bytes, scope := k.scope, party := k.party, seq := s.seq, atHome := k.atHome,
    prior := s.mem.readN (16 * w.gran) 16, atomic := k.atomic, sector := k.sector, discard := k.discard, fences := w.fences }

/-- R40, R275: the commit of one granule stands at its home; a granule written whole is no longer poisoned. -/
def State.putHome (s : State) (k : CommitKind) (w : GranWrite) : State :=
  { s with hist := s.commitOf k w :: s.hist, mem := s.mem.writeSome (16 * w.gran) w.bytes,
           poison := if w.whole then s.poison.erase w.gran else s.poison }

/-- R269: a write at y, or one that is tracked, is performed at its system home. -/
def State.putThrough (s : State) (k : CommitKind) (w : GranWrite) : State :=
  let s1 := s.putHome k w
  let s2 := { s1 with homes := s1.homes.through s1.mem s.dice [w.gran] }
  if k.fires then s2.written w.gran else s2

/-- R421: after a write at a granule's system home, set its bit in the bitmap of each partition that tracks it, by an atomic at the word's
system home; the bitmap lies in the operator's space. -/
def State.trackGran (s : State) (gran : Nat) : State :=
  s.parts.foldl (fun s p =>
    match p.mig.dirtyBit (16 * gran), s.parts.find? fun q => q.cfg.tag == .operator with
    | some (va, bit), some op =>
      match s.translate s.poison op va with
      | .ok x =>
        let key := x.at va
        let w := s.mem.num key 4 ||| 2 ^ bit
        let lo := key % 16
        s.putThrough { party := .outside, scope := .y, atHome := true, atomic := true, sector := false, discard := false }
          { gran := granOf key, bytes := (List.range 16).map fun i => if lo ≤ i && i < lo + 4 then some (BitVec.ofNat 8 (w / 256 ^ (i - lo))) else none }
      | .error _ => s
    | _, _ => s) s

/-- R421: granules that write-backs have performed at their system homes. -/
def State.trackAll (s : State) (grans : List Nat) : State := if s.tracks then grans.foldl State.trackGran s else s

/-- R252, R254, R421: a line comes to L2 for a partition, with what leaves for it. -/
def State.fillLine (s : State) (p : Part) (prot : Bool) (va line : Nat) (valid dirty : BitVec 4) : State :=
  let r := s.homes.fill s.mem s.dice
    { part := p, prot := prot, pins := s.halls.flatMap fun h => h.pins.map fun x => x.1, va := va, line := line, valid := valid, dirty := dirty }
  { s with homes := r.1 }.trackAll r.2

/-- R38, R252: a write at h or p is performed at the home slice, in L2. -/
def State.putL2 (s : State) (k : CommitKind) (w : GranWrite) (p : Part) : State :=
  let prot := (s.sealer k.own w.shr w.gran).isSome
  let s1 := (s.putHome k w).fillLine p prot w.va (w.gran / 8) (sectorBit w.gran) (sectorBit w.gran)
  if k.fires then s1.written w.gran else s1

/-- R40, R275, R291: perform a commit on one granule, at the present place of the scope order; nothing where no key seals a protected one. -/
def State.placeGran (s : State) (k : CommitKind) (w : GranWrite) : State :=
  if !k.atHome then { s with hist := s.commitOf k w :: s.hist }
  else if s.keyless k.own w.shr w.gran then s
  else if s.isRaw k w then s.putRaw k w
  else
    let s1 := s.sealGran k w
    match k.own.bind s.part? with
    | some p => if k.scope == .y || s.tracked w.gran then s1.putThrough k w else s1.putL2 k w p
    | none => s1.putThrough k w

/-- Perform a commit on some granules. -/
def State.placeGrans (s : State) (k : CommitKind) : List GranWrite → State
  | [] => s
  | w :: rest => (s.placeGran k w).placeGrans k rest

/-- R40, R421: a commit: all its granules at one place of the scope order, then the tracking of each. -/
def State.commit (s : State) (k : CommitKind) (writes : List GranWrite) : State :=
  let s1 := s.placeGrans k writes
  let s2 := if k.atHome then s1.trackAll (writes.map GranWrite.gran) else s1
  { s2 with seq := s2.seq + 1 }

/-- Bytes from a key as writes to granules. -/
def spanWrites (key : Nat) (bytes : List Byte) : List GranWrite :=
  let n := bytes.length
  (ascending ((List.range n).map fun i => granOf (key + i))).map fun gran =>
    { gran := gran,
      bytes := (List.range 16).map fun i =>
        let a := 16 * gran + i
        if key ≤ a && a < key + n then bytes[a - key]? else none }

/-- The bytes that a write puts into its granule, each with its key. -/
def GranWrite.cells (w : GranWrite) : List (Nat × Byte) :=
  w.bytes.zipIdx.filterMap fun b => b.1.map fun x => (16 * w.gran + b.2, x)

/-- Writes of an access at a virtual address, of a page that is shared or not. -/
def writesAt (va : Nat) (shr : Bool) (ws : List GranWrite) : List GranWrite := ws.map fun w => { w with va := va, shr := shr }

/-- R265, R395: bytes that the device commits at y, for a partition or for none. -/
def State.deviceWrite (s : State) (own : Option Nat) (key : Nat) (bytes : List Byte) : State :=
  s.commit { party := .outside, scope := .y, atHome := true, atomic := false, sector := false, discard := false, own := own }
    (spanWrites key bytes)

/-- R265, R291, R395: bytes that the device or an outside party commits at y. -/
def State.outsideWrite (s : State) (key : Nat) (bytes : List Byte) : State := s.deviceWrite none key bytes

/-! ### Reading -/

/-- R46: a reader: its party and its BEGINs, and whether it reads at the system home only (R419). -/
structure Reader where
  party : Party
  beginH : Nat
  beginP : Nat
  beginY : Nat
  sysHome : Bool
  /-- R431: the partition whose access it is. -/
  own : Option Nat := party.part
  /-- R431: the access goes by the plain path: its page is shared. -/
  shr : Bool := false
  /-- R52: it reads whole sectors, each one version: an engine, or the tile fetch unit. -/
  sectors : Bool := false
  /-- R52: the granules that the reading instruction reads from memory, in all its lanes. -/
  grans : List Nat := []
  /-- R390: the halls that the reading group has left, each with the place of its last BEGIN there. -/
  left : List (Nat × Nat) := []
deriving DecidableEq, Repr

/-- R390: a commit that was matched with a BEGIN of the reader on a hall that its group has left since. -/
def Reader.sawOn (r : Reader) (hall : Option Nat) (seq : Nat) : Bool := r.left.any fun x => hall == some x.1 && seq < x.2

/-- R46: the place of the reader's last BEGIN at a scope or wider. -/
def Reader.beginAt (r : Reader) : Scope → Nat
  | .g => r.beginH
  | .h => r.beginH
  | .p => r.beginP
  | .y => r.beginY

/-- R275, R452: granules that a read now finds poisoned. -/
def State.poisonNow (s : State) : List Nat := s.poison ++ s.outNow

/-- R39, R46: a commit is matched with a BEGIN of the reader that follows it, or is the reader's own atomic; it stays matched when the
reader's group is restored on another hall (R390). What a DISCARD left is never matched (R55). -/
def Commit.matched (c : Commit) (r : Reader) : Bool :=
  if c.discard then false
  else
    let need := c.party.need r.party
    (c.atomic && need == .g) || (need.rank ≤ c.scope.rank && c.seq < r.beginAt need) || (c.scope != .g && r.sawOn c.party.hall c.seq)

/-- R41, R390: a commit that has not left its hall is seen on that hall only, and by a group that saw it there. -/
def Commit.visible (c : Commit) (r : Reader) : Bool :=
  c.atHome || (c.party.hall.isSome && c.party.hall == r.party.hall) || r.sawOn c.party.hall c.seq

/-- A granule's bytes with those of a commit over them. -/
def overlay : List Byte → List (Option Byte) → List Byte
  | [], _ => []
  | b :: bs, [] => b :: bs
  | b :: bs, o :: os => o.getD b :: overlay bs os

/-- R40: the versions of a granule that a reader may see, newest first, from the commits oldest first. -/
def versionsFrom (base : List Byte) : List Commit → List (Commit × List Byte) → List (Commit × List Byte)
  | [], acc => acc
  | c :: cs, acc =>
    let v := overlay base c.bytes
    versionsFrom v cs ((c, v) :: acc)

/-- R46: the versions that a reader may be given of some commits over a base, newest first, down to V0, each with its place. -/
def versionsTo (r : Reader) (base : List Byte) (cs : List Commit) : List (Nat × List Byte) :=
  let vs := versionsFrom base cs []
  let newer := vs.takeWhile fun v => !v.1.matched r
  (vs.take (newer.length + 1)).map (fun v => (v.1.seq, v.2)) ++ (if newer.length == vs.length then [(0, base)] else [])

/-- R46: the versions a reader may be given of a granule, down to V0, each with its place. Over what a DISCARD left, which may be one of two
values (R55), stand the commits that other groups of the hall hold in its buffer. -/
def State.candidates (s : State) (r : Reader) (gran : Nat) : List (Nat × List Byte) :=
  match (s.hist.filter fun c => c.gran == gran && c.visible r).reverse with
  | [] => [(0, s.mem.readN (16 * gran) 16)]
  | c :: rest =>
    if c.discard then
      let near := rest.takeWhile fun x => !x.atHome
      versionsTo r (overlay c.prior c.bytes) rest ++
        (if (rest.drop near.length).any fun x => x.matched r then [] else versionsTo r c.prior near)
    else versionsTo r c.prior (c :: rest)

/-- R52: the places of the engine sector writes that carry both granules of a sector. -/
def State.sectorPlaces (s : State) (r : Reader) (sec : Nat) : List Nat :=
  let at_ := fun gran => (s.hist.filter fun c => c.gran == gran && c.sector && c.visible r).map Commit.seq
  (at_ (2 * sec)).filter fun q => (at_ (2 * sec + 1)).contains q

/-- The least of some places that is above one. -/
def nextPlace (ps : List Nat) (lo : Nat) : Option Nat := (ascending (ps.filter fun p => lo < p)).head?

/-- R25, R52: two versions, of the granules of one sector, that one access may be given, by their places: an access of whole sectors finds
both at some moment; any other finds no sector write of `qs` in one of them and not in the other. -/
def pairOk (whole : Bool) (qs : List Nat) (a b : List (Nat × List Byte)) (x y : Nat) : Bool :=
  if whole then (nextPlace (a.map Prod.fst) x).all (fun n => y < n) && (nextPlace (b.map Prod.fst) y).all fun n => x < n
  else qs.all fun q => decide (q ≤ x) == decide (q ≤ y)

/-- R25, R52: the versions of the granules of one sector that one access may be given. -/
def sectorPairs (whole : Bool) (qs : List Nat) (a b : List (Nat × List Byte)) : List (List Byte × List Byte) :=
  a.flatMap fun x => (b.filter fun y => pairOk whole qs a b x.1 y.1).map fun y => (x.2, y.2)

/-- The other granule of a sector. -/
def mateOf (gran : Nat) : Nat := if gran % 2 == 0 then gran + 1 else gran - 1

/-- R46, R47: one of some versions, as a free value names it. -/
def pickGran (vs : List (Nat × List Byte)) (free : Nat) : List Byte := (vs.getD (free % vs.length) (0, [])).2

/-- R25, R47, R52: a granule's part of one of some versions of its sector, as a free value names it; one of its own versions where no two of
the sector agree. -/
def pickPair (gran : Nat) (vs : List (Nat × List Byte)) (ps : List (List Byte × List Byte)) (free : Nat) : List Byte :=
  match ps[free % ps.length]? with
  | some p => if gran % 2 == 0 then p.1 else p.2
  | none => pickGran vs free

/-- R46, R47, R52: the version of a granule that one instruction of a reader receives; `n` names the free value. Where the instruction reads
the other granule of the sector too, or an engine reads, the sector is resolved as a whole (R25, R52). -/
def State.granVersion (s : State) (r : Reader) (n gran : Nat) : List Byte :=
  match s.candidates r gran with
  | [v] => v.2
  | vs =>
    if r.sectors || r.grans.contains (mateOf gran) then
      pickPair gran vs (sectorPairs r.sectors (s.sectorPlaces r (gran / 2)) (s.candidates r (gran / 2 * 2)) (s.candidates r (gran / 2 * 2 + 1)))
        (Config.freePick n (2 ^ 90 + gran / 2))
    else pickGran vs (Config.freePick n gran)

/-- R46, rule 1: a store of the group that its own load may return: made since its last BEGIN, or not yet committed at p. -/
def OwnStore.fresh (o : OwnStore) : Bool :=
  o.since || (match o.level with
    | some .p => false
    | some .y => false
    | _ => true)

/-- R46, R390, rule 1: the group's latest store to a byte, when the rule applies: while some store of it is fresh, a later one stands for it,
committed or not (log 56). -/
def ownByte (stores : List OwnStore) (key : Nat) : Option Byte :=
  if stores.any fun o => o.key == key && o.fresh && !o.atomicAfter then (stores.find? fun o => o.key == key).map OwnStore.val else none

/-- R46, R48: `count` bytes from a key as they stand in plaintext. -/
def State.readPlain (s : State) (r : Reader) (own : List OwnStore) (n key count : Nat) : List Byte :=
  let grans := ascending ((List.range count).map fun i => granOf (key + i))
  let table := grans.map fun g => (g, s.granVersion r n g)
  (List.range count).map fun i =>
    let a := key + i
    match ownByte own a with
    | some b => b
    | none =>
      match table.find? fun t => t.1 == granOf a with
      | some t => t.2.getD (a % 16) 0
      | none => 0

/-- R433: a sector is sealed against a reader: all but protected accesses of the partition whose material it is. -/
def State.sealedFrom (s : State) (r : Reader) (sec : Nat) : Bool :=
  match s.homes.seal? sec with
  | some x => s.sealer r.own r.shr (2 * sec) != some x.material
  | none => false

/-- R432, R433: a byte as it stands sealed. -/
def State.sealedByte (s : State) (key : Nat) : Byte :=
  match s.homes.seal? (key / 32) with
  | some x => (s.sealedBytes x).getD (key % 32) 0
  | none => s.homes.sysMem.read key

/-- R432, R433: a byte of a sector that is sealed against the reader, or whose earlier value has been written back; else the plain one. -/
def State.viewByte (s : State) (r : Reader) (key : Nat) (plain : Byte) : Byte :=
  if s.sealedFrom r (key / 32) then s.sealedByte key else if s.rolledBack (key / 32) then s.homes.plainAt key else plain

/-- R46, R48, R419, R432: `count` bytes from a key, as one instruction of a reader reads them: what stands at the system home, for an
operator's HOIST, and ciphertext where a sector is sealed against the reader. -/
def State.readSpan (s : State) (r : Reader) (own : List OwnStore) (n key count : Nat) : List Byte :=
  if r.sysHome then s.homes.sysMem.readN key count
  else
    let plain := s.readPlain r own n key count
    if s.homes.seals.isEmpty then plain
    else plain.zipIdx.map fun b => s.viewByte r (key + b.2) b.1

/-! ### A group's phase operations -/

/-- R41, R54, R57: a store of one byte by a group. An older store of the byte that was made before the open region stays beside one made
in it. -/
def Group.addStore (o : OwnStore) (g : Group) : Group :=
  let new := { o with inRegion := g.region.isSome, fence := g.fence }
  { g with stores := new :: g.stores.filter fun x => !(x.key == o.key && x.nt == o.nt && (x.inRegion || !new.inRegion)) }

/-- R301, R384: bytes that the device has stored for a group and committed at p. -/
def Group.ownFrame (ws : List GranWrite) (g : Group) : Group :=
  let mine := ws.flatMap fun w => w.cells.map fun c => ({ key := c.1, val := c.2, nt := false, level := some .p, since := true, inRegion := false,
                                                          atomicAfter := false, fence := g.fence, va := w.va, shr := w.shr } : OwnStore)
  { g with stores := mine.reverse ++ g.stores.filter fun x => !ws.any fun w => w.gran == granOf x.key && ((w.bytes[x.key % 16]?).join).isSome }

/-- The team of a group. -/
def State.teamOf (s : State) (g : Group) : Option Team := s.teams[g.team]?

/-- R39: a group as a party. -/
def State.partyOf (s : State) (gi : Nat) : Party :=
  match s.groups[gi]? with
  | some g =>
    match s.teamOf g with
    | some t => { part := some t.part, hall := some t.hall, group := some gi, team := some g.team }
    | none => { part := none, hall := none, group := some gi, team := some g.team }
  | none => .outside

/-- R46: a group as a reader. -/
def State.readerOf (s : State) (gi : Nat) : Reader :=
  match s.groups[gi]? with
  | some g => { party := s.partyOf gi, beginH := g.beginH, beginP := g.beginP, beginY := g.beginY, sysHome := false, left := g.left }
  | none => { party := .outside, beginH := 0, beginP := 0, beginY := 0, sysHome := false }

/-- R433: a byte at its home, as an access of a partition by the protected or the plain path meets it. -/
def State.homeByte (s : State) (own : Option Nat) (shr : Bool) (key : Nat) : Byte :=
  match s.homes.seal? (key / 32) with
  | some x => if s.sealer own shr (granOf key) == some x.material then s.mem.read key else s.sealedByte key
  | none => s.mem.read key

/-- The byte at the home of a group's store. -/
def State.homeOf (s : State) (gi : Nat) (o : OwnStore) : Byte := s.homeByte (s.partyOf gi).part o.shr o.key

/-- R41, R54: a store that COMMIT at a scope carries: a plain store not yet committed at it. -/
def OwnStore.carried (sc : Scope) (o : OwnStore) : Bool :=
  !o.nt && (match o.level with
    | none => true
    | some l => l.rank < sc.rank)

/-- R41, R54, R269: a store has reached the home: a plain one committed at p, or an .nt one that has been performed. -/
def OwnStore.stands (o : OwnStore) : Bool := o.level == some .p || (o.nt && o.level.isSome)

/-- R50: who stored the byte at a key, with the place of the last FENCE.h before: what the latest commit at the home that carries it says. -/
def State.authorAt (s : State) (key : Nat) : Option (Nat × Nat) :=
  (s.hist.find? fun c => c.atHome && c.gran == granOf key && ((c.bytes[key % 16]?).join).isSome).bind fun c => (c.fences[key % 16]?).join

/-- R41, R54, R269: the byte that a commit of a group carries for a store: the group's own when it has not reached the home, and what the home
holds when it has. -/
def State.carriedByte (s : State) (gi : Nat) (o : OwnStore) : Byte := if o.stands then s.homeOf gi o else o.val

/-- R50: who stored the byte that a commit of a group carries for a store. -/
def State.carriedBy (s : State) (gi : Nat) (o : OwnStore) : Option (Nat × Nat) := if o.stands then s.authorAt o.key else some (gi, o.fence)

/-- The granules of the stores that `pick` selects. -/
def storeGrans (stores : List OwnStore) (pick : OwnStore → Bool) : List Nat :=
  ascending ((stores.filter pick).map fun o => granOf o.key)

/-- What a commit of a group writes, of the stores that `pick` selects. -/
def State.commitWrites (s : State) (gi : Nat) (stores : List OwnStore) (pick : OwnStore → Bool) : List GranWrite :=
  (storeGrans stores pick).map fun gran =>
    let first := stores.find? fun o => pick o && granOf o.key == gran
    let of := fun i : Nat => stores.find? fun o => o.key == 16 * gran + i && pick o
    { gran := gran, bytes := (List.range 16).map fun i => (of i).map (s.carriedByte gi),
      va := (first.map OwnStore.va).getD 0, shr := first.any OwnStore.shr,
      fences := (List.range 16).map fun i => (of i).bind (s.carriedBy gi) }

/-- R46: stores that rule 1 or a later commit may still need, with those that rule 1 takes for an older one. -/
def neededStores (stores : List OwnStore) : List OwnStore :=
  stores.filter fun o => o.since || o.level != some .y || stores.any fun x => x.key == o.key && x.fresh

/-- R41, R49: commit those stores of a group that `pick` selects among the carried ones. -/
def State.commitSome (s : State) (gi : Nat) (sc : Scope) (pick : OwnStore → Bool) : State :=
  match s.groups[gi]? with
  | none => s
  | some g =>
    let sel := fun o => OwnStore.carried sc o && pick o
    let s1 := s.commit { party := s.partyOf gi, scope := sc, atHome := sc.rank ≥ 2, atomic := false, sector := false,
                         discard := false }
      (s.commitWrites gi g.stores sel)
    s1.updGroup gi fun g => { g with stores := neededStores (g.stores.map fun o => if sel o then { o with level := some sc } else o) }

/-- R40, R41, R285: COMMIT at a scope by a group. COMMIT.g makes nothing visible. -/
def State.commitGroup (s : State) (gi : Nat) (sc : Scope) : State :=
  if sc == .g then s else s.commitSome gi sc fun _ => true

/-- R56: a commit at a scope would carry a store made inside the open region. -/
def Group.carriesRegion (g : Group) (sc : Scope) : Bool := g.stores.any fun o => OwnStore.carried sc o && o.inRegion

/-- R131: an object's grace list without a group; retired when it empties. -/
def CodeObject.excuse (gi : Nat) (o : CodeObject) : CodeObject :=
  let rest := o.grace.filter (· != gi)
  if o.retiring && !o.retired && rest.isEmpty then { o with grace := [], retired := true, code := [] } else { o with grace := rest }

/-- R131: a group of a partition has performed a BEGIN at p or y, or has exited. -/
def State.excuse (s : State) (gi : Nat) : State :=
  match (s.groups[gi]?).bind s.teamOf with
  | none => s
  | some t =>
    if (s.part? t.part).any fun p => p.objects.any fun o => o.grace.contains gi then
      s.updPart t.part fun p => { p with objects := p.objects.map (CodeObject.excuse gi) }
    else s

/-- R45, R46, R286: BEGIN at a scope by a group. BEGIN.g has no effect. -/
def State.beginGroup (s : State) (gi : Nat) (sc : Scope) : State :=
  if sc == .g then s
  else
    let here := s.seq + 1
    let s0 : State := { s with seq := here }
    let s1 := s0.updGroup gi fun g =>
      { g with beginH := here, beginP := (if sc.rank ≥ 2 then here else g.beginP),
               beginY := (if sc.rank ≥ 3 then here else g.beginY),
               stores := neededStores (g.stores.map fun o => { o with since := false }) }
    if sc == .h then s1
    else
      let s2 := match (s1.groups[gi]?).bind s1.teamOf with
        | some t => s1.updHall t.hall fun h => { h with l1 := h.l1.filter fun l => l.owner.isSome }
        | none => s1
      s2.excuse gi

/-- R54: an .nt byte that has not been performed. -/
def OwnStore.unperformed (o : OwnStore) : Bool := o.nt && o.level.isNone

/-- R54: perform a group's .nt stores to one granule at its home, as a racing value that no BEGIN matches. -/
def State.performNt (s : State) (gi gran : Nat) : State :=
  match s.groups[gi]? with
  | none => s
  | some g =>
    let here := fun o : OwnStore => o.unperformed && granOf o.key == gran
    if g.stores.any here then
      (s.commit { party := s.partyOf gi, scope := .g, atHome := true, atomic := false, sector := false, discard := false }
        (s.commitWrites gi g.stores here)).updGroup gi fun g => { g with stores := g.stores.map fun o => if here o then { o with level := some .g } else o }
    else s

/-- R54: an .nt store that DRAIN at a scope still has to place. -/
def OwnStore.drained (sc : Scope) (o : OwnStore) : Bool :=
  o.nt && (match o.level with
    | none => true
    | some l => l.rank < sc.rank)

/-- R54, R288: DRAIN at a scope: a byte that was never performed has the store's value, and else what the home holds. DRAIN.g waits for
nothing. -/
def State.drainGroup (s : State) (gi : Nat) (sc : Scope) : State :=
  if sc == .g then s
  else
    match s.groups[gi]? with
    | none => s
    | some g =>
      let s1 := s.commit { party := s.partyOf gi, scope := sc, atHome := true, atomic := false, sector := false, discard := false }
        (s.commitWrites gi g.stores (OwnStore.drained sc))
      s1.updGroup gi fun g =>
        { g with stores := neededStores (g.stores.map fun o => if OwnStore.drained sc o then { o with level := some sc } else o) }

/-- R43: a group's occupancy in granules: those with a plain store not committed at p. -/
def Group.occupied (g : Group) : List Nat := storeGrans g.stores fun o => OwnStore.carried .p o

end Sys2Proof.Machine
end

