-- ==== Sys2Proof/Machine/Cache.lean ====
section
/-! DEFINITION. What accesses do to L1 and L2 (R245, R247, R250 to R255, R302, R379, R411, R412), private lines, and the access counts of
tier migration (R417, R418). No value that a read of global memory returns rests on which lines are held. -/

namespace Sys2Proof.Machine

/-! ### Access counts -/

/-- R417: the key of the counter entry of a page. -/
def PartMig.counter (m : PartMig) (key : Nat) : Option Nat :=
  let page := keyAddr key / 4096
  let first := m.cntFirst.toNat / 4096
  if keyClass key ≤ 1 && first ≤ page && page < first + m.cntPages.toNat then some (m.cntBase.toNat + 4 * (page - first)) else none

/-- R418: a notification, or its loss; the entry's new value. -/
def State.notify (s : State) (p : Part) (key count : Nat) : State × Nat :=
  let m := p.mig
  if (m.nqHead - m.nqTail).toNat < m.nqSize.toNat then
    let at_ := m.nqBase.toNat + 16 * (m.nqHead.toNat % m.nqSize.toNat)
    let entry := natLe 8 (keyAddr key / 4096 * 4096) ++ natLe 2 count ++ natLe 1 (keyClass key) ++ natLe 1 p.id ++ natLe 4 0
    ((s.outsideWrite at_ entry).updPart p.id fun q => { q with mig := { q.mig with nqHead := q.mig.nqHead + 1 } }, 2 ^ 31 + count)
  else (s.updPart p.id fun q => { q with mig := { q.mig with nqLost := q.mig.nqLost + 1 } }, 0xFFFF)

/-- R417: one fill from the system home is counted. -/
def State.countFill (s : State) (p : Part) (key : Nat) : State :=
  match p.mig.counter key with
  | none => s
  | some at_ =>
    let old := s.mem.num at_ 4
    let count := min (old % 65536 + 1) 65535
    let queued := old / 2 ^ 31 % 2 == 1
    let r := if old % 65536 + 1 == p.mig.thresh.toNat && p.mig.thresh != 0xFFFF && !queued then s.notify p key count
      else (s, old / 65536 * 65536 + count)
    r.1.outsideWrite at_ (natLe 4 r.2)

/-! ### L2 -/

/-- The lines of an access, ascending. -/
def Touch.lines (x : Touch) : List Nat := ascending ((List.range x.len).map fun i => lineOf (x.key + i))

/-- R254: the virtual address of an access on one of its lines. -/
def Touch.vaOf (x : Touch) (line : Nat) : Nat := if 128 * line ≤ x.key then x.va else x.va + (128 * line - x.key)

/-- R252, R432: a read of a whole line that L2 serves as it stands; one by the plain path of a protected line brings nothing to L2. -/
def L2Fill.served (f : L2Fill) (ls : List L2Line) : Bool := ls.any fun l => f.hits l && (l.valid == 15 || (l.prot && !f.prot))

/-- R252, R432: L2 holds a whole line, sealed or not. -/
def wholeInL2 (ls : List L2Line) (line : Nat) : Bool := ls.any fun l => l.line == line && l.valid == 15

/-- R254, R417, R432: a read of one line at L2: a hit, which may unseal it, or a fill, which is counted where the page asks for it, and comes
through the memory-side cache. -/
def State.touchL2 (s : State) (x : Touch) (line : Nat) : State :=
  match s.part? x.pid with
  | none => s
  | some p =>
    let prot := (s.sealer (some p.id) x.shr (8 * line)).isSome
    if L2Fill.served { part := p, prot := prot, pins := [], va := x.va, line := line, valid := 15, dirty := 0 } s.homes.l2 then s
    else
      let held := wholeInL2 s.homes.l2 line
      let s1 := if x.cnt && !held then s.countFill p (128 * line) else s
      let s2 := s1.fillLine p prot (x.vaOf line) line 15 0
      if held then s2 else { s2 with homes := s2.homes.fillMsc s2.dice line false }

/-! ### L1 -/

/-- R245: bytes of scratchpad that the teams resident on a hall hold. -/
def State.hallScratch (s : State) (hall : Nat) : Nat :=
  s.teams.foldl (fun n t => if t.phase == .resident && t.hall == hall then n + t.hdr.scratch else n) 0

/-- R15, R245: lines that a hall's L1 holds. -/
def State.l1Cap (s : State) (hall : Nat) : Nat := l1Lines (s.hallScratch hall)

/-- R251: some private line is held in L1. -/
def State.holdsPrivate (s : State) : Bool := s.groups.any fun g => !g.priv.isEmpty

/-- R251, R302: the bytes of a private line's dirty sectors go to its frame. -/
def State.writePrivLine (s : State) (gi : Nat) (l : L1Line) : State :=
  match s.groups[gi]? with
  | none => s
  | some g =>
    if l.dirty == 0 then s
    else
      s.commit { party := s.partyOf gi, scope := .p, atHome := true, atomic := true, sector := false, discard := false }
        (((List.range 8).filter fun i => l.dirty &&& sectorBit i != 0).map fun i =>
          { gran := 8 * l.line + i, va := l.va, shr := l.shr
            bytes := (List.range 16).map fun j => (g.priv.find? fun c => c.1 == 128 * l.line + 16 * i + j).map fun c => c.2 })

/-- R251: the bytes of a private line leave L1. -/
def Group.dropPriv (line : Nat) (g : Group) : Group := { g with priv := g.priv.filter fun c => lineOf c.1 != line }

/-- R251: what a line that leaves L1 does: a private one is written back when it is dirty, and its bytes are gone. -/
def State.leaveL1 (s : State) (l : L1Line) : State :=
  match l.owner with
  | none => s
  | some gi => (s.writePrivLine gi l).updGroup gi (Group.dropPriv l.line)

/-- R251, R379: lines have left a hall's L1. -/
def State.leftL1 (s : State) (hall : Nat) (ls : List L1Line) : State :=
  let s1 := s.updHall hall fun h => { h with victims := pushVictims ls h.victims }
  if s1.holdsPrivate then ls.foldl State.leaveL1 s1 else s1

/-- R247: a line comes to a hall's L1, or is written there. -/
def State.fillL1 (s : State) (hall : Nat) (new : L1Line) : State :=
  let r := l1After s.dice (s.l1Cap hall) new (((s.halls[hall]?).map Hall.l1).getD [])
  (s.updHall hall fun h => { h with l1 := r.1 }).leftL1 hall r.2.toList

/-- R247: a hall's L1 holds a line. -/
def State.holdsL1 (s : State) (hall line : Nat) (owner : Option Nat) : Bool := (s.halls[hall]?).any fun h => inL1 h.l1 line owner

/-- R379: a miss in L1 that matches a victim tag. -/
def State.countLost (s : State) (hall line : Nat) : State :=
  s.updHall hall fun h => if h.victims.contains line then { h with lost := h.lost + 1 } else h

/-- R379: a word's misses begin to be counted. -/
def State.markLost (s : State) (hall : Nat) : State := s.updHall hall fun h => { h with lostWas := h.lost }

/-- R247: a read of a global line by a group's hall: L1, or L2 and then L1. -/
def State.touchL1 (s : State) (hall : Nat) (x : Touch) (line : Nat) : State :=
  if s.holdsL1 hall line none then s
  else ((s.countLost hall line).touchL2 x line).fillL1 hall { line := line, owner := none, dirty := 0 }

/-- R282: the hall drops its copy of a global line. -/
def State.dropL1 (s : State) (hall line : Nat) : State :=
  s.updHall hall fun h => { h with l1 := h.l1.filter fun l => !(l.line == line && l.owner.isNone) }

/-- R245: the split of a hall's SRAM is as its teams now ask: L1 gives lines up when it shrinks. -/
def State.resplit (s : State) (hall : Nat) : State :=
  match s.halls[hall]? with
  | none => s
  | some h =>
    let r := l1Shrink (s.l1Cap hall) h.l1
    if r.2.isEmpty then s
    else
      let s1 := s.updHall hall fun h => { h with l1 := r.1 }
      if s1.holdsPrivate then r.2.foldl State.leaveL1 s1 else s1

/-! ### Private lines -/

/-- R251: the bytes of private lines in L1, with one more. -/
def privPut (m : List Host.Cell) (k : Nat) (b : Byte) : List Host.Cell :=
  match m with
  | [] => [(k, b)]
  | (j, c) :: rest => if k < j then (k, b) :: (j, c) :: rest else if k == j then (k, b) :: rest else (j, c) :: privPut rest k b

/-- R251: private bytes that a group's lines in L1 take. -/
def Group.putPriv (cells : List (Nat × Byte)) (g : Group) : Group := { g with priv := cells.foldl (fun m c => privPut m c.1 c.2) g.priv }

/-- R250, R251, R302: a private line comes to L1: read whole from the group's frame, unless it is about to be written whole. -/
def State.holdPriv (s : State) (hall gi : Nat) (x : Touch) (line : Nat) (whole : Bool) : State :=
  if s.holdsL1 hall line (some gi) then s
  else if whole then s.fillL1 hall { line := line, owner := some gi, dirty := 0, va := x.vaOf line / 128 * 128, shr := x.shr }
  else
    let bytes := s.readSpan { s.readerOf gi with shr := x.shr } [] s.free (128 * line) 128
    ((s.touchL2 x line).updGroup gi (Group.putPriv (bytes.zipIdx.map fun b => (128 * line + b.2, b.1)))).fillL1 hall
      { line := line, owner := some gi, dirty := 0, va := x.vaOf line / 128 * 128, shr := x.shr }

/-- R302: the bytes of a private store fill a line. -/
def wholeLine (cells : List (Nat × Byte)) (line : Nat) : Bool := (List.range 128).all fun i => cells.any fun c => c.1 == 128 * line + i

/-- R251, R302: a private store into one line. -/
def State.storePrivLine (s : State) (hall gi : Nat) (x : Touch) (line : Nat) (cells : List (Nat × Byte)) : State :=
  let mine := cells.filter fun c => lineOf c.1 == line
  let dirty := mine.foldl (fun (d : BitVec 4) c => d ||| sectorBit (granOf c.1)) 0
  (((s.holdPriv hall gi x line (wholeLine cells line)).updGroup gi (Group.putPriv mine)).fillL1 hall
    { line := line, owner := some gi, dirty := dirty, va := x.vaOf line / 128 * 128, shr := x.shr })

/-- R251: the hall's lines of a group. -/
def State.privLines (s : State) (gi : Nat) : List (Nat × L1Line) :=
  s.halls.zipIdx.flatMap fun h => (h.1.l1.filter fun l => l.owner == some gi).map fun l => (h.2, l)

/-- R251: a group's private lines leave L1, written back or not. -/
def State.dropPriv (s : State) (gi : Nat) (write : Bool) : State :=
  let ls := s.privLines gi
  let s1 := if write then ls.foldl (fun s x => s.writePrivLine gi x.2) s else s
  let s2 := (ascending (ls.map fun x => x.1)).foldl (fun s h =>
    s.updHall h fun h => { h with l1 := h.l1.filter fun l => l.owner != some gi }) s1
  s2.updGroup gi fun g => { g with priv := [] }

end Sys2Proof.Machine
end

