-- ==== Sys2Proof/Machine/Num.lean ====
section
/-! DEFINITION. Number formats, exact values and the one rounding step (R193 to R207), and the special
functions with one argument as exact values rounded once (R232). -/

namespace Sys2Proof.Machine

/-- R194: the formats. -/
inductive Fmt
  | fp64 | fp32 | fp16 | bf16 | e5m2 | e4m3 | e2m1
deriving DecidableEq, Repr

/-- R194: exponent bits. -/
def Fmt.expBits : Fmt → Nat
  | .fp64 => 11 | .fp32 => 8 | .fp16 => 5 | .bf16 => 8 | .e5m2 => 5 | .e4m3 => 4 | .e2m1 => 2

/-- R194: mantissa bits. -/
def Fmt.man : Fmt → Nat
  | .fp64 => 52 | .fp32 => 23 | .fp16 => 10 | .bf16 => 7 | .e5m2 => 2 | .e4m3 => 3 | .e2m1 => 1

/-- R194: the bias. -/
def Fmt.bias : Fmt → Nat
  | .fp64 => 1023 | .fp32 => 127 | .fp16 => 15 | .bf16 => 127 | .e5m2 => 15 | .e4m3 => 7 | .e2m1 => 1

/-- R194: the width of a code. -/
def Fmt.width (f : Fmt) : Nat := 1 + f.expBits + f.man

/-- R195: the format has infinities. -/
def Fmt.hasInf : Fmt → Bool
  | .e4m3 => false | .e2m1 => false | _ => true

/-- R195: the code of +∞ in a format that has one. -/
def Fmt.infCode (f : Fmt) : Nat := (2 ^ f.expBits - 1) * 2 ^ f.man

/-- R194, R195: the code of the largest finite value. -/
def Fmt.maxCode : Fmt → Nat
  | .e4m3 => 0x7E | .e2m1 => 7 | f => f.infCode - 1

/-- R197: the canonical NaN; E2M1 has none and writes 0 (R201). -/
def Fmt.nanCode : Fmt → Nat
  | .e4m3 => 0x7F | .e2m1 => 0 | f => f.infCode + 2 ^ (f.man - 1)

/-- The sign bit of a format. -/
def Fmt.signBit (f : Fmt) : Nat := 2 ^ (f.width - 1)

/-- A code with a sign. -/
def Fmt.signed (f : Fmt) (neg : Bool) (code : Nat) : Nat := if neg then f.signBit + code else code

/-- A number of R12's exact arithmetic that a floating-point code can stand for: NaN, a signed infinity, a
signed zero, or ±m × 2^e with m > 0. -/
inductive Ext
  | nan
  | inf (neg : Bool)
  | zero (neg : Bool)
  | fin (neg : Bool) (m : Nat) (e : Int)
deriving DecidableEq, Repr

/-- R12, R201: flags: bit 0 invalid, 1 division by zero, 2 overflow, 3 underflow, 4 inexact (R141). -/
abbrev FpFlags := BitVec 5

/-- R141: the flag bits. -/
def flagInvalid : FpFlags := 0x01
/-- R141: division by zero. -/
def flagDivZero : FpFlags := 0x02
/-- R141: overflow. -/
def flagOverflow : FpFlags := 0x04
/-- R141: underflow. -/
def flagUnderflow : FpFlags := 0x08
/-- R141: inexact. -/
def flagInexact : FpFlags := 0x10

/-- An exact value from a sign, a magnitude and an exponent. -/
def Ext.of (neg : Bool) (m : Nat) (e : Int) : Ext := if m = 0 then .zero neg else .fin neg m e

/-- R193 to R196: the value of a code; bits above the format's width are ignored. -/
def Fmt.decode (f : Fmt) (code : Nat) : Ext :=
  let c := code % 2 ^ f.width
  let neg := c / f.signBit == 1
  let mag := c % f.signBit
  let ef := mag / 2 ^ f.man
  let mf := mag % 2 ^ f.man
  if f.hasInf && ef == 2 ^ f.expBits - 1 then (if mf == 0 then .inf neg else .nan)
  else if f == .e4m3 && mag == 0x7F then .nan
  else if ef == 0 then Ext.of neg mf (1 - (f.bias : Int) - f.man)
  else .fin neg (2 ^ f.man + mf) ((ef : Int) - f.bias - f.man)

/-- R223: the sign inverted. -/
def Ext.neg : Ext → Ext
  | .nan => .nan | .inf s => .inf (!s) | .zero s => .zero (!s) | .fin s m e => .fin (!s) m e

/-- R223: the sign cleared. -/
def Ext.abs : Ext → Ext
  | .nan => .nan | .inf _ => .inf false | .zero _ => .zero false | .fin _ m e => .fin false m e

/-- The sign of a value that is no NaN. -/
def Ext.isNeg : Ext → Bool
  | .nan => false | .inf s => s | .zero s => s | .fin s _ _ => s

/-- An integer as an exact value. -/
def Ext.ofInt (x : Int) : Ext := if x < 0 then .fin true x.natAbs 0 else Ext.of false x.natAbs 0

/-! ### Rounding -/

/-- R200: the modes. -/
inductive RMode
  | rne | rtz | rdn | rup | rna | sr
deriving DecidableEq, Repr

/-- R77, R200: the mode of a code; other codes do not occur. -/
def RMode.ofCode (c : BitVec 3) : RMode :=
  match c.toNat with
  | 2 => .rtz | 3 => .rdn | 4 => .rup | 5 => .rna | 6 => .sr | _ => .rne

/-- R200, R205: whether the neighbour away from zero is chosen: `q` the one toward zero in units of the
grid, and the fraction `rem / 2^sh` beyond it, which is not zero; `r` the random word. -/
def RMode.away (mode : RMode) (neg : Bool) (r q rem sh : Nat) : Bool :=
  match mode with
  | .rtz => false
  | .rdn => neg
  | .rup => !neg
  | .rne => 2 ^ sh < 2 * rem || (2 ^ sh == 2 * rem && q % 2 == 1)
  | .rna => 2 ^ sh ≤ 2 * rem
  | .sr => r < rem * 2 ^ 32 / 2 ^ sh

/-- What rounding on a grid gives: the magnitude in grid units, whether it differs from the value, and
whether it was rounded away from zero. -/
structure GridRound where
  q : Nat
  inexact : Bool
  away : Bool
deriving DecidableEq, Repr

/-- R201 step 4: m × 2^e rounded to a multiple of 2^k. A value below 2^(k − 34) has no half and no random
fraction, so it is treated as that much. -/
def roundGrid (mode : RMode) (neg : Bool) (r m : Nat) (e k : Int) : GridRound :=
  if k ≤ e then { q := m * 2 ^ (e - k).toNat, inexact := false, away := false }
  else
    let full := (k - e).toNat
    let low := Nat.log2 m + 40 < full
    let sh := if low then 40 else full
    let mm := if low then 1 else m
    let q := mm / 2 ^ sh
    let rem := mm % 2 ^ sh
    if rem = 0 then { q := q, inexact := false, away := false }
    else
      let up := mode.away neg r q rem sh
      { q := if up then q + 1 else q, inexact := true, away := up }

/-- A rounded code with its flags. -/
structure Rounded where
  code : Nat
  flags : FpFlags
deriving DecidableEq, Repr

/-- R202: what stands in place of a value beyond the largest finite one. -/
def Fmt.overflow (f : Fmt) (mode : RMode) (neg away : Bool) : Nat :=
  let toInf := match mode with
    | .rne => true
    | .rna => true
    | .rtz => false
    | .rdn => neg
    | .rup => !neg
    | .sr => away
  if !toInf then f.signed neg f.maxCode
  else
    match f with
    | .e4m3 => f.nanCode
    | .e2m1 => f.signed neg f.maxCode
    | _ => f.signed neg f.infCode

/-- R201 steps 4 and 5, R202: a finite non-zero value rounded to a format. -/
def Fmt.roundFin (f : Fmt) (mode : RMode) (r : Nat) (neg : Bool) (m : Nat) (e : Int) : Rounded :=
  let least : Int := 1 - (f.bias : Int) - f.man
  let k := max ((Nat.log2 m : Int) + e - f.man) least
  let g := roundGrid mode neg r m e k
  let carried := 2 ^ (f.man + 1) ≤ g.q
  let q := if carried then g.q / 2 else g.q
  let k' := if carried then k + 1 else k
  if q < 2 ^ f.man then
    { code := if q = 0 then (if f == .e2m1 then 0 else f.signed neg 0) else f.signed neg q,
      flags := if g.inexact then flagUnderflow ||| flagInexact else 0 }
  else
    let ef := (k' - least + 1).toNat
    let mag := if ef ≤ 2 ^ f.expBits then ef * 2 ^ f.man + (q - 2 ^ f.man) else f.maxCode + 1
    if f.maxCode < mag then { code := f.overflow mode neg g.away, flags := flagOverflow ||| flagInexact }
    else { code := f.signed neg mag, flags := if g.inexact then flagInexact else 0 }

/-- R201: rnd(mode, x) for a destination format. -/
def Fmt.round (f : Fmt) (mode : RMode) (r : Nat) (x : Ext) : Rounded :=
  match x with
  | .nan => { code := f.nanCode, flags := if f == .e2m1 then flagInvalid else 0 }
  | .inf neg =>
    match f with
    | .e4m3 => { code := f.nanCode, flags := flagInvalid }
    | .e2m1 => { code := f.signed neg f.maxCode, flags := flagInvalid }
    | _ => { code := f.signed neg f.infCode, flags := 0 }
  | .zero neg => { code := if f == .e2m1 then 0 else f.signed neg 0, flags := 0 }
  | .fin neg m e => f.roundFin mode r neg m e

/-- R231, R235: a value rounded to an integer in a mode; NaN and infinities give 0. -/
def Ext.toInt (mode : RMode) (r : Nat) (x : Ext) : Int × Bool :=
  match x with
  | .fin neg m e =>
    let g := roundGrid mode neg r m e 0
    (if neg then -(g.q : Int) else (g.q : Int), g.inexact)
  | _ => (0, false)

/-! ### Exact arithmetic -/

/-- A value with the flags that the operation raised before rounding. -/
abbrev Pre := Ext × FpFlags

/-- R198, R223: the sum; `rdn` says the mode is RDN. -/
def Ext.add (rdn : Bool) (a b : Ext) : Pre :=
  match a, b with
  | .nan, _ => (.nan, 0)
  | _, .nan => (.nan, 0)
  | .inf s, .inf t => if s == t then (.inf s, 0) else (.nan, flagInvalid)
  | .inf s, _ => (.inf s, 0)
  | _, .inf t => (.inf t, 0)
  | .zero s, .zero t => if s == t then (.zero s, 0) else (.zero rdn, 0)
  | .zero _, y => (y, 0)
  | x, .zero _ => (x, 0)
  | .fin s m e, .fin t n d =>
    let k := min e d
    let x : Int := (m * 2 ^ (e - k).toNat : Nat)
    let y : Int := (n * 2 ^ (d - k).toNat : Nat)
    let z := (if s then -x else x) + (if t then -y else y)
    if z = 0 then (.zero rdn, 0) else (.fin (z < 0) z.natAbs k, 0)

/-- R198, R223: the product. -/
def Ext.mul (a b : Ext) : Pre :=
  match a, b with
  | .inf _, .zero _ => (.nan, flagInvalid)
  | .zero _, .inf _ => (.nan, flagInvalid)
  | .nan, _ => (.nan, 0)
  | _, .nan => (.nan, 0)
  | .inf s, y => (.inf (s != y.isNeg), 0)
  | x, .inf t => (.inf (x.isNeg != t), 0)
  | .zero s, y => (.zero (s != y.isNeg), 0)
  | x, .zero t => (.zero (x.isNeg != t), 0)
  | .fin s m e, .fin t n d => (.fin (s != t) (m * n) (e + d), 0)

/-- R223: A × B + C, exact; a zero times an infinity is invalid even when C is a NaN. -/
def Ext.mac (rdn : Bool) (a b c : Ext) : Pre :=
  let p := a.mul b
  if p.2 != 0 then p else Ext.add rdn p.1 c

/-- Multiply by a power of two. -/
def Ext.scale (x : Ext) (k : Int) : Ext :=
  match x with
  | .fin s m e => .fin s m (e + k)
  | y => y

/-- Compare two finite or zero values' magnitudes: a ≤ b. -/
def Ext.magLe (a b : Ext) : Bool :=
  match a, b with
  | .fin _ m e, .fin _ n d =>
    let k := min e d
    m * 2 ^ (e - k).toNat ≤ n * 2 ^ (d - k).toNat
  | .fin _ _ _, .zero _ => false
  | _, _ => true

/-- R224: the order of codes: −∞ < … < −0.0 < +0.0 < … < +∞. -/
def Fmt.key (f : Fmt) (code : Nat) : Int :=
  let mag : Int := (code % f.signBit : Nat)
  if code / f.signBit % 2 == 1 then -1 - mag else mag

/-- A code is a NaN. -/
def Fmt.isNan (f : Fmt) (code : Nat) : Bool := f.decode code == .nan

/-- R224: the smaller, or with `max` the larger, of two codes. -/
def Fmt.pick (f : Fmt) (max : Bool) (a b : Nat) : Nat :=
  match f.isNan a, f.isNan b with
  | true, true => f.nanCode
  | true, false => b
  | false, true => a
  | false, false => if (if max then f.key a < f.key b else f.key b < f.key a) then b else a

/-- R240: the key order, every NaN below −∞. -/
def Fmt.rankKey (f : Fmt) (code : Nat) : Int := if f.isNan code then -1 - (f.signBit : Int) else f.key code

/-- R228: A = B, with −0.0 = +0.0. -/
def Fmt.eqv (f : Fmt) (a b : Nat) : Bool :=
  !f.isNan a && !f.isNan b && (f.key a == f.key b || (a % f.signBit == 0 && b % f.signBit == 0))

/-- R228: A < B. -/
def Fmt.less (f : Fmt) (a b : Nat) : Bool := !f.isNan a && !f.isNan b && !f.eqv a b && f.key a < f.key b

/-- R228: a NaN among the two. -/
def Fmt.unordered (f : Fmt) (a b : Nat) : Bool := f.isNan a || f.isNan b

/-! ### Stochastic rounding -/

/-- R204: mix32. -/
def mix32 (x : Word) : Word :=
  let a := x ^^^ (x >>> 16)
  let b := a * 0x7FEB352D
  let c := b ^^^ (b >>> 15)
  let d := c * 0x846CA68B
  d ^^^ (d >>> 16)

/-- R204: srbits. -/
def srbits (seed : Word) (count : DWord) (l e : Nat) : Nat :=
  let h := mix32 (seed ^^^ loWord count)
  let h := mix32 (h ^^^ hiWord count)
  (mix32 (h ^^^ BitVec.ofNat 32 (l + 32 * e))).toNat

/-! ### Inline constants -/

/-- R63: the magnitude m of a float constant, in quarters; none for infinity and NaN. -/
def constQuarters (m : Nat) : Option Nat :=
  if m < 16 then some m
  else match m with
    | 16 => some 16 | 17 => some 20 | 18 => some 24 | 19 => some 28 | 20 => some 32 | 21 => some 40 | 22 => some 48
    | 23 => some 64 | 24 => some 128 | 25 => some 256 | 26 => some 512 | 27 => some 1024 | 28 => some 4096
    | 29 => some 16384 | _ => none

/-- R63: the value of a float constant. -/
def constExt (i : BitVec 6) : Ext :=
  let m := i.toNat % 32
  let neg := i.toNat / 32 == 1
  match constQuarters m with
  | some q => Ext.of neg q (-2)
  | none => if m == 30 then .inf neg else .nan

/-- R63: the code of a float constant in a format. -/
def Fmt.const (f : Fmt) (i : BitVec 6) : Nat := (f.round .rne 0 (constExt i)).code

/-! ### Integer types -/

/-- R206, R207: a value outside its type's range clamps. -/
def satTo (lo hi x : Int) : Int := if x < lo then lo else if hi < x then hi else x

/-- R207: sat(i32, x). -/
def satI32 (x : Int) : Int := satTo (-(2 ^ 31)) (2 ^ 31 - 1) x

/-! ### Correctly rounded functions (R232)

An irrational value is carried with a mantissa of at least 60 bits more than it needs, whose last bit is 1
(`stick`): it then lies strictly between the same neighbours, the same midpoints and the same random thresholds as
the real value. -/

/-- A value strictly between q and q + 1 units of 2^e, or exactly q units. -/
def stick (neg : Bool) (q : Nat) (e : Int) (exact : Bool) : Ext :=
  if exact then Ext.of neg q e else .fin neg (2 * q + 1) (e - 1)

/-- ⌊√n⌋ from bit `b` down. -/
def isqrtFrom : Nat → Nat → Nat → Nat
  | 0, _, r => r
  | b + 1, n, r => isqrtFrom b n (if (r + 2 ^ b) * (r + 2 ^ b) ≤ n then r + 2 ^ b else r)

/-- ⌊√n⌋. -/
def isqrt (n : Nat) : Nat := isqrtFrom (Nat.log2 n / 2 + 1) n 0

/-- Bits kept by the algebraic functions. -/
def keep : Nat := 128

/-- 1 ÷ (m × 2^e). -/
def recip (neg : Bool) (m : Nat) (e : Int) : Ext :=
  let p := Nat.log2 m + keep
  stick neg (2 ^ p / m) (-e - p) (2 ^ p % m == 0)

/-- √(m × 2^e). -/
def root (m : Nat) (e : Int) : Ext :=
  let odd := e % 2 == 1
  let n := (if odd then 2 * m else m) * 2 ^ (2 * keep)
  let e2 := (if odd then e - 1 else e) / 2 - keep
  let q := isqrt n
  stick false q e2 (q * q == n)

/-- 1 ÷ √(m × 2^e). -/
def recipRoot (m : Nat) (e : Int) : Ext :=
  let odd := e % 2 == 1
  let mm := if odd then 2 * m else m
  let e2 := (if odd then e - 1 else e) / 2
  let p := Nat.log2 mm + keep
  let q := isqrt (2 ^ (2 * p) / mm)
  stick false q (-e2 - p) (q * q * mm == 2 ^ (2 * p))

/-- FRCP and DRCP. -/
def Ext.rcp : Ext → Pre
  | .nan => (.nan, 0)
  | .zero s => (.inf s, flagDivZero)
  | .inf s => (.zero s, 0)
  | .fin s m e => (recip s m e, 0)

/-- FRSQ. -/
def Ext.rsq : Ext → Pre
  | .nan => (.nan, 0)
  | .zero s => (.inf s, flagDivZero)
  | .inf false => (.zero false, 0)
  | .inf true => (.nan, flagInvalid)
  | .fin true _ _ => (.nan, flagInvalid)
  | .fin false m e => (recipRoot m e, 0)

/-- FSQRT and DSQRT. -/
def Ext.sqrt : Ext → Pre
  | .nan => (.nan, 0)
  | .zero s => (.zero s, 0)
  | .inf false => (.inf false, 0)
  | .inf true => (.nan, flagInvalid)
  | .fin true _ _ => (.nan, flagInvalid)
  | .fin false m e => (root m e, 0)

/-! #### Series in fixed point

A value x is held as an integer near x × 2^p. Each step loses less than one unit, so the sum of n steps lies
within 4n units of the true value for the arguments used here (|x| ≤ 2). -/

/-- Σ x^j ÷ j!: `j` the next index, `t` the last term. -/
def expTerms (p : Nat) (x : Int) : Nat → Nat → Int → Int → Int
  | 0, _, _, sum => sum
  | n + 1, j, t, sum =>
    let t' := t * x / 2 ^ p / (j : Int)
    if t' = 0 then sum else expTerms p x n (j + 1) t' (sum + t')

/-- exp x for x in fixed point. -/
def fixExp (p : Nat) (x : Int) : Int := expTerms p x (2 * p) 1 (2 ^ p) (2 ^ p)

/-- Σ z^(2j+1) ÷ (2j+1) with alternate signs when `alt`: `w` the power, `sq` z² in fixed point. -/
def oddTerms (p : Nat) (alt : Bool) (sq : Int) : Nat → Nat → Int → Int → Int
  | 0, _, _, sum => sum
  | n + 1, j, w, sum =>
    if w = 0 then sum
    else
      let term := w / ((2 * j + 1 : Nat) : Int)
      oddTerms p alt sq n (j + 1) (w * sq / 2 ^ p) (if alt && j % 2 == 1 then sum - term else sum + term)

/-- artanh of a ÷ b, in fixed point. -/
def fixArtanh (p : Nat) (a b : Int) : Int :=
  let z := a * 2 ^ p / b
  oddTerms p false (z * z / 2 ^ p) (2 * p) 0 z 0

/-- arctan of 1 ÷ b, in fixed point. -/
def fixArctan (p b : Nat) : Int :=
  let z : Int := 2 ^ p / (b : Int)
  oddTerms p true (z * z / 2 ^ p) (2 * p) 0 z 0

/-- ln 2 in fixed point. -/
def fixLn2 (p : Nat) : Int := 2 * fixArtanh p 1 3

/-- π in fixed point, by Machin's formula. -/
def fixPi (p : Nat) : Int := 16 * fixArctan p 5 - 4 * fixArctan p 239

/-- Σ of the sine (from t = x) or cosine (from t = 1) series: `j` the next factor. -/
def trigTerms (p : Nat) (sq : Int) : Nat → Nat → Int → Int → Int
  | 0, _, _, sum => sum
  | n + 1, j, t, sum =>
    let t' := -(t * sq / 2 ^ p / ((j * (j + 1) : Nat) : Int))
    if t' = 0 || t' = -1 then sum else trigTerms p sq n (j + 2) t' (sum + t')

/-- An approximation x × 2^p with its error in units. -/
structure Approx where
  neg : Bool
  mag : Nat
  err : Nat
  e : Int
deriving DecidableEq, Repr

/-- The sticky value of an approximation, when its interval lies within one step of a 62-bit mantissa. -/
def Approx.settle (a : Approx) : Option Ext :=
  if a.mag ≤ a.err then none
  else
    let lo := a.mag - a.err
    let hi := a.mag + a.err
    let n := Nat.log2 lo
    if n < 62 then none
    else
      let sh := n - 62
      if lo / 2 ^ sh == hi / 2 ^ sh then some (stick a.neg (lo / 2 ^ sh) (a.e + sh) false) else none

/-- The sticky value of an approximation, whether its interval is narrow or not. -/
def Approx.force (a : Approx) : Ext := stick a.neg a.mag a.e false

/-- Try growing precisions until an approximation settles (log 11). -/
def refine (f : Nat → Approx) : Nat → Nat → Ext
  | 0, p => (f p).force
  | n + 1, p =>
    match (f p).settle with
    | some x => x
    | none => refine f n (2 * p)

/-- The first precision, and how often it doubles. -/
def refineFrom (f : Nat → Approx) : Ext := refine f 6 96

/-- ±m × 2^e in fixed point, rounded down. -/
def fixOf (p : Nat) (neg : Bool) (m : Nat) (e : Int) : Int :=
  let k := e + p
  let x : Int := if 0 ≤ k then (m * 2 ^ k.toNat : Nat) else (m / 2 ^ (-k).toNat : Nat)
  if neg then -x else x

/-- 2^x for a finite x that is no integer. -/
def exp2Approx (neg : Bool) (m : Nat) (e : Int) (p : Nat) : Approx :=
  let x := fixOf p neg m e
  let n := x / 2 ^ p
  let f := x % 2 ^ p
  let y := fixExp p (f * fixLn2 p / 2 ^ p)
  { neg := false, mag := y.natAbs, err := 64 * p, e := n - p }

/-- FEXP2. -/
def Ext.exp2 : Ext → Pre
  | .nan => (.nan, 0)
  | .zero _ => (.fin false 1 0, 0)
  | .inf false => (.inf false, 0)
  | .inf true => (.zero false, 0)
  | .fin s m e =>
    if 0 ≤ e then (.fin false 1 (if s then -((m * 2 ^ e.toNat : Nat) : Int) else ((m * 2 ^ e.toNat : Nat) : Int)), 0)
    else if m % 2 ^ (-e).toNat == 0 then
      (.fin false 1 (if s then -((m / 2 ^ (-e).toNat : Nat) : Int) else ((m / 2 ^ (-e).toNat : Nat) : Int)), 0)
    else (refineFrom (exp2Approx s m e), 0)

/-- log2 of m × 2^e, no power of two. -/
def log2Approx (m : Nat) (e : Int) (p : Nat) : Approx :=
  let n := Nat.log2 m
  let lnm := 2 * fixArtanh p ((m : Int) - 2 ^ n) ((m : Int) + 2 ^ n)
  let x := (e + n) * 2 ^ p + lnm * 2 ^ p / fixLn2 p
  { neg := x < 0, mag := x.natAbs, err := 64 * p, e := -p }

/-- FLOG2. -/
def Ext.log2 : Ext → Pre
  | .nan => (.nan, 0)
  | .zero _ => (.inf true, flagDivZero)
  | .inf false => (.inf false, 0)
  | .inf true => (.nan, flagInvalid)
  | .fin true _ _ => (.nan, flagInvalid)
  | .fin false m e =>
    let n := Nat.log2 m
    if m == 2 ^ n then (Ext.ofInt (e + n), 0) else (refineFrom (log2Approx m e), 0)

/-- sin or cos of ±m × 2^e: reduced to r in [0, π/2) and a quadrant with `p` bits more than the argument has. -/
def trigApprox (cosine neg : Bool) (m : Nat) (e : Int) (p : Nat) : Approx :=
  let extra := ((Nat.log2 m : Int) + e).toNat
  let w := p + extra + 2
  let half := fixPi w / 2
  let x := fixOf w false m e
  let q := x / half
  let r := (x - q * half) / 2 ^ (extra + 2)
  let sq := r * r / 2 ^ p
  let s := trigTerms p sq (2 * p) 2 r r
  let c := trigTerms p sq (2 * p) 1 (2 ^ p) (2 ^ p)
  let quad := (q % 4).toNat + (if cosine then 1 else 0)
  let v := if quad % 2 == 0 then s else c
  let flip := quad % 4 ≥ 2
  { neg := flip != (neg && !cosine), mag := v.natAbs, err := 64 * p, e := -p }

/-- FSIN. -/
def Ext.sin : Ext → Pre
  | .nan => (.nan, 0)
  | .zero s => (.zero s, 0)
  | .inf _ => (.nan, flagInvalid)
  | .fin s m e => (refineFrom (trigApprox false s m e), 0)

/-- FCOS. -/
def Ext.cos : Ext → Pre
  | .nan => (.nan, 0)
  | .zero _ => (.fin false 1 0, 0)
  | .inf _ => (.nan, flagInvalid)
  | .fin s m e => (refineFrom (trigApprox true s m e), 0)

/-- tanh of ±m × 2^e, below 64: (u − 1) ÷ (u + 1) with u = exp(2x) = 2^n × exp f. -/
def tanhApprox (neg : Bool) (m : Nat) (e : Int) (p : Nat) : Approx :=
  let w := p + 16
  let x2 := fixOf w false m (e + 1)
  let ln2 := fixLn2 w
  let n := x2 / ln2
  let u := fixExp w (x2 - n * ln2) * 2 ^ n.toNat
  let t := (u - 2 ^ w) * 2 ^ w / (u + 2 ^ w)
  { neg := neg, mag := t.natAbs, err := 64 * w, e := -w }

/-- FTANH. From 64 on the value lies between 1 − 2^−180 and 1. -/
def Ext.tanh : Ext → Pre
  | .nan => (.nan, 0)
  | .zero s => (.zero s, 0)
  | .inf s => (.fin s 1 0, 0)
  | .fin s m e =>
    if 6 ≤ (Nat.log2 m : Int) + e then (stick s (2 ^ 128 - 1) (-128) false, 0) else (refineFrom (tanhApprox s m e), 0)

end Sys2Proof.Machine
end

