-- ==== Sys2Proof/Machine/Strands.lean ====
section
/-! DEFINITION. The strand table and the serial stack (R20 to R22, R145 to R149, R162, R169): splits,
serial execution, fusion, exit. -/

namespace Sys2Proof.Machine

/-- An entry of the table. -/
def Control.get (c : Control) (k : Fin 8) : Option Entry := c.entries[k]

/-- Replace an entry. -/
def Control.put (c : Control) (k : Fin 8) (e : Option Entry) : Control := { c with entries := c.entries.set k.val e k.isLt }

/-- The indexes of the entries that satisfy a test, ascending. -/
def Control.indexes (c : Control) (p : Entry → Bool) : List (Fin 8) :=
  [0, 1, 2, 3, 4, 5, 6, 7].filter fun k => (c.get k).any p

/-- Entries in use. -/
def Control.used (c : Control) : Nat := (c.indexes fun _ => true).length

/-- The free indexes, ascending. -/
def Control.freeIndexes (c : Control) : List (Fin 8) := [0, 1, 2, 3, 4, 5, 6, 7].filter fun k => (c.get k).isNone

/-- R147: entries on the serial stack. -/
def Control.stackUse (c : Control) : Nat := (c.serial.map fun f => f.todo.length).foldl (· + ·) 0

/-- R20, R149: the lanes that have not exited. -/
def Control.live (c : Control) : LaneMask :=
  let strands := (c.indexes fun e => e.kind == .strand).foldl (fun m k => m ||| ((c.get k).map Entry.owned).getD 0) 0
  let held := (c.indexes fun e => e.kind == .splice).foldl (fun m k => m ||| ((c.get k).map Entry.active).getD 0) 0
  let serial := c.serial.foldl (fun m f => f.todo.foldl (fun m t => m ||| t.2.1) (m ||| f.doneOwned)) 0
  strands ||| held ||| serial

/-- R144: a strand at a word, with no hints pending. -/
def Entry.strandAt (pc : CodeRef) (owned active : LaneMask) (parent : Option (Fin 8)) : Entry :=
  { kind := .strand, pc := pc, owned := owned, active := active, parent := parent, pend := none, hints := [],
    rpt := 0, wait := .ready, grant := none, missRegs := [], missData := none, overdue := none, drawn := none, appended := [] }

/-- R145: a table with one strand, an empty serial stack. -/
def Control.single (pc : CodeRef) (mask : LaneMask) : Control :=
  { entries := (Vector.replicate 8 none).set 0 (some (Entry.strandAt pc mask mask none)), cur := 0, serial := [] }

/-- Hand the serial executions of one entry to another. -/
def Control.retarget (c : Control) (k j : Fin 8) : Control :=
  { c with serial := c.serial.map fun f => if f.strand == k then { f with strand := j } else f }

/-- R148: hand what stands under one entry of the table to that entry's own parent, in the serial executions too. -/
def Control.reparent (c : Control) (m : Fin 8) (up : Option (Fin 8)) : Control :=
  { c with serial := c.serial.map fun f => if f.parent == some m then { f with parent := up } else f }

/-- R146, R169: split strand `k`: the taken lanes at a target, the rest at the word after the branch. -/
def Control.split (c : Control) (k p t : Fin 8) (e : Entry) (taken : LaneMask) (target fall splice : CodeRef) : Control :=
  let sp : Entry := { Entry.strandAt splice e.owned 0 e.parent with kind := .splice }
  let tk := Entry.strandAt target taken taken (some p)
  let rest := Entry.strandAt fall (e.owned &&& ~~~taken) (e.active &&& ~~~taken) (some p)
  (((c.retarget k p).put p (some sp)).put t (some tk)).put k (some rest)

/-- R147: run the taken lanes first; the rest wait on the serial stack. -/
def Control.serialize (c : Control) (k : Fin 8) (e : Entry) (taken : LaneMask) (target splice : CodeRef)
    (todo : List (CodeRef × LaneMask × LaneMask)) : Control :=
  let f : Serial := { strand := k, parent := e.parent, splice := splice, todo := todo, doneOwned := 0, doneActive := 0 }
  { c.put k (some (Entry.strandAt target taken taken e.parent)) with serial := f :: c.serial }

/-- R148: a miss split: the missing lanes as strand `j` under the miss entry `m`. -/
def Control.missSplit (c : Control) (k m j : Fin 8) (e : Entry) (next : CodeRef) (miss : LaneMask) (regs : List VReg)
    (d : MissData) : Control :=
  let me : Entry := { Entry.strandAt next e.owned 0 e.parent with kind := .miss, missRegs := regs }
  let js : Entry := { Entry.strandAt next miss miss (some m) with wait := .data, missData := some d }
  let rest := { Entry.strandAt next (e.owned &&& ~~~miss) (e.active &&& ~~~miss) (some m) with pend := none }
  (((c.retarget k m).put m (some me)).put j (some js)).put k (some rest)

/-- R146 to R148: the address at which a strand stops: that of the innermost splice or serial execution above
it, looking through miss entries. -/
def Control.stopAt (c : Control) : Nat → Option (Fin 8) → Option CodeRef
  | 0, _ => none
  | _, none => none
  | fuel + 1, some p =>
    match c.get p with
    | none => none
    | some e =>
      match e.kind with
      | .splice => some e.pc
      | .strand => none
      | .miss =>
        match c.serial.find? fun f => f.strand == p with
        | some f => some f.splice
        | none => c.stopAt fuel e.parent

/-- R148: the registers of every miss entry above a strand. -/
def Control.missAbove (c : Control) : Nat → Option (Fin 8) → List VReg
  | 0, _ => []
  | _, none => []
  | fuel + 1, some p =>
    match c.get p with
    | none => []
    | some e => (if e.kind == .miss then e.missRegs else []) ++ c.missAbove fuel e.parent

/-- R148: entry `k` lies under entry `m`. -/
def Control.under (c : Control) (m : Fin 8) : Nat → Fin 8 → Bool
  | 0, _ => false
  | fuel + 1, k =>
    match (c.get k).bind Entry.parent with
    | none => false
    | some p => p == m || c.under m fuel p

/-- R147: a serial execution whose strand is at its splice, or has no lane left. -/
def Control.serialStep (c : Control) : Option Control :=
  match c.serial with
  | [] => none
  | _ =>
    match c.serial.find? fun f => match c.get f.strand with
        | none => true
        | some e => e.kind == .strand && e.pc == f.splice && e.wait != .data with
    | none => none
    | some f =>
      let run := c.get f.strand
      let owned := f.doneOwned ||| (run.map Entry.owned).getD 0
      let active := f.doneActive ||| (run.map Entry.active).getD 0
      let others := c.serial.erase f
      match f.todo with
      | (pc, o, a) :: rest =>
        if o == 0 then some { c with serial := { f with todo := rest } :: others }
        else
          some { c.put f.strand (some (Entry.strandAt pc o a f.parent)) with
                 serial := { f with todo := rest, doneOwned := owned, doneActive := active } :: others }
      | [] =>
        some { c.put f.strand (if owned == 0 then none else some (Entry.strandAt f.splice owned active f.parent)) with
               serial := others }

/-- R146: a strand at its stop address begins to wait there. -/
def Control.waitStep (c : Control) : Option Control :=
  match c.indexes fun e => e.kind == .strand && e.wait == .ready && e.parent.isSome && c.stopAt 8 e.parent == some e.pc with
  | [] => none
  | k :: _ => (c.get k).map fun e => c.put k (some { e with wait := .splice })

/-- R146: the strands directly under an entry. -/
def Control.children (c : Control) (p : Fin 8) : List (Fin 8) := c.indexes fun e => e.parent == some p

/-- The union of a mask over some entries. -/
def Control.union (c : Control) (ks : List (Fin 8)) (f : Entry → LaneMask) : LaneMask :=
  ks.foldl (fun m k => m ||| ((c.get k).map f).getD 0) 0

/-- Free some entries. -/
def Control.clear (c : Control) (ks : List (Fin 8)) : Control := ks.foldl (fun c k => c.put k none) c

/-- R146, R169: fuse the strands under a splice whose mask they cover; a splice without lanes goes. -/
def Control.fuseStep (c : Control) : Option Control :=
  let whole := c.indexes fun e => e.kind == .splice
  match whole.find? fun p =>
      let ks := c.children p
      ks.all (fun k => (c.get k).any fun e => e.kind == .strand && e.wait == .splice) &&
        (c.union ks Entry.owned ||| ((c.get p).map Entry.active).getD 0) == ((c.get p).map Entry.owned).getD 0 with
  | none => none
  | some p =>
    match c.get p with
    | none => none
    | some sp =>
      let ks := c.children p
      let owned := sp.owned
      let active := c.union ks Entry.active
      some (((ks.foldl (fun c k => c.retarget k p) (c.clear ks)).reparent p sp.parent).put p
        (if owned == 0 then none else some (Entry.strandAt sp.pc owned active sp.parent)))

/-- R148: a strand is waiting as the rules of a miss entry count it. -/
def Entry.missWaiting (e : Entry) : Bool := e.wait == .missRead || e.wait == .splice

/-- R148: two strands wait at one word: its address, its hints and its repeat. -/
def Entry.sameWord (a b : Entry) : Bool := a.pc == b.pc && a.hints == b.hints && a.rpt == b.rpt

/-- R171: the pending splice of strands that fuse under a miss entry: the first of them that has one (log 13). -/
def Control.firstPend (c : Control) (ks : List (Fin 8)) : Option CodeRef := (ks.filterMap fun k => (c.get k).bind Entry.pend).head?

/-- R148, R169: the strands directly under a miss entry fuse, at the word at which the first of them waits. -/
def Control.missFuse (c : Control) (m : Fin 8) (up : Option (Fin 8)) (ks : List (Fin 8)) (e : Entry) : Control :=
  let fused : Entry :=
    { Entry.strandAt e.pc (c.union ks Entry.owned) (c.union ks Entry.active) up with hints := e.hints, rpt := e.rpt, pend := c.firstPend ks }
  ((ks.foldl (fun c k => c.retarget k m) (c.clear ks)).reparent m up).put m (some fused)

/-- R148: a miss entry dissolves: the strands under it take its parent and go on. -/
def Control.dissolve (c : Control) (m : Fin 8) (up : Option (Fin 8)) : Control :=
  let freed := (c.reparent m up).put m none
  let on := fun e : Entry =>
    if e.parent == some m then { e with parent := up, wait := if e.missWaiting then .ready else e.wait }
    else if e.kind == .strand && e.wait == .missRead then { e with wait := .ready } else e
  { freed with entries := freed.entries.map fun x => x.map on }

/-- R147, R148: a miss entry over a strand that ran serially dissolves into the splice of that serial execution. -/
def Control.dissolveSerial (c : Control) (m : Fin 8) (me : Entry) (f : Serial) : Control :=
  let held := c.put m (some { me with kind := .splice, pc := f.splice })
  let on := fun e : Entry => if e.parent == some m && e.wait == .missRead then { e with wait := .ready } else e
  { held with entries := held.entries.map fun x => x.map on }

/-- R148: fuse the strands under a miss entry that wait at one word, or dissolve it when they wait apart. -/
def Control.missStep (c : Control) : Option Control :=
  let misses := c.indexes fun e => e.kind == .miss
  match misses.find? fun m =>
      let ks := (c.indexes fun e => e.kind == .strand).filter fun k => c.under m 8 k
      ks.all fun k => (c.get k).any Entry.missWaiting with
  | none => none
  | some m =>
    match c.get m with
    | none => none
    | some me =>
      let ks := c.children m
      match ks.head?.bind c.get with
      | none => some ((c.reparent m me.parent).put m none)
      | some e0 =>
        if ks.all fun k => (c.get k).any fun e => e.kind == .strand && e.sameWord e0 then some (c.missFuse m me.parent ks e0)
        else
          match c.serial.find? fun f => f.strand == m with
          | some f => some (c.dissolveSerial m me f)
          | none => some (c.dissolve m me.parent)

/-- One rule of R146 to R148 that applies, with whether it fused strands. -/
def Control.settleStep (c : Control) : Option (Control × Bool) :=
  match c.serialStep with
  | some c' => some (c', true)
  | none =>
    match c.fuseStep with
    | some c' => some (c', true)
    | none =>
      match c.waitStep with
      | some c' => some (c', false)
      | none =>
        match c.missStep with
        | some c' => some (c', true)
        | none => none

/-- R146 to R149: apply the rules until none applies. -/
def Control.settle : Nat → Control → Bool → Control × Bool
  | 0, c, b => (c, b)
  | fuel + 1, c, b =>
    match c.settleStep with
    | none => (c, b)
    | some (c', f) => Control.settle fuel c' (b || f)

/-- Enough applications for a table of eight entries and a stack of sixteen. -/
def settleFuel : Nat := 64

/-- R149: remove lanes from an entry; a strand without lanes is freed. -/
def Entry.drop (m : LaneMask) (e : Entry) : Option Entry :=
  let owned := e.owned &&& ~~~m
  if owned == 0 && e.kind == .strand then none else some { e with owned := owned, active := e.active &&& ~~~m }

/-- R149: lanes leave the table and the serial stack. -/
def Control.exitLanes (c : Control) (m : LaneMask) : Control :=
  { c with
    entries := c.entries.map fun x => x.bind (Entry.drop m)
    serial := c.serial.map fun f =>
      { f with todo := f.todo.map fun t => (t.1, t.2.1 &&& ~~~m, t.2.2 &&& ~~~m),
               doneOwned := f.doneOwned &&& ~~~m, doneActive := f.doneActive &&& ~~~m } }

end Sys2Proof.Machine
end

