-- ==== Sys2Proof/Machine/Operands.lean ====
section
/-! DEFINITION. Operands: the hints before a word (R73 to R79), the context it issues in, the values its
operands have (R61 to R65, R67, R220), and the registers and handles it names (R97). -/

namespace Sys2Proof.Machine

/-- R78: a REP hint: the count and the steps of d, a and b. -/
structure RepSteps where
  count : Nat
  d : Nat
  a : Nat
  b : Nat
deriving DecidableEq, Repr

/-- R73: the hints pending at a word. -/
structure HintSet where
  imms : List (BitVec 22)
  grd : Option (Bool × BitVec 3)
  src3 : Option (Bool × Bool × Src)
  modh : Option ModForm
  rep : Option RepSteps
  /-- R79: the group yields after the word. -/
  yields : Bool
  live : Option (BitVec 16)
deriving DecidableEq, Repr

/-- No hint. -/
def HintSet.none : HintSet :=
  { imms := [], grd := Option.none, src3 := Option.none, modh := Option.none, rep := Option.none, yields := false, live := Option.none }

/-- R78: a step code. -/
def repStep (c : BitVec 2) : Nat :=
  match c.toNat with
  | 0 => 0 | 1 => 1 | 2 => 2 | _ => 4

/-- R74 to R79: one more hint. -/
def HintSet.add (h : HintSet) (w : Word) : HintSet :=
  match decode w with
  | .ok (.imm i) => { h with imms := h.imms ++ [i] }
  | .ok (.grd n g) => { h with grd := some (n, g) }
  | .ok (.src3 n a x) => { h with src3 := some (n, a, x) }
  | .ok (.modh f) => { h with modh := some f }
  | .ok (.rep n d a b) => { h with rep := some { count := n.toNat + 1, d := repStep d, a := repStep a, b := repStep b } }
  | .ok (.sched _ yld _) => { h with yields := h.yields || yld }
  | .ok (.live l) => { h with live := some l }
  | _ => h

/-- The hints of some hint words. -/
def HintSet.of (ws : List Word) : HintSet := ws.foldl HintSet.add HintSet.none

/-- R75: the value of a field of `k` bits with the IMM hints before the word; without one, its sign extension. -/
def HintSet.imm (h : HintSet) (k : Nat) (field : Nat) : Int :=
  match h.imms with
  | [] => signedOf k field
  | [a] => signedOf (22 + k) (a.toNat * 2 ^ k + field)
  | a :: b :: _ => signedOf (44 + k) (a.toNat * 2 ^ (22 + k) + b.toNat * 2 ^ k + field)

/-- The context a word issues in. -/
structure Cx where
  gi : Nat
  g : Group
  t : Team
  p : Part
  k : Fin 8
  e : Entry
  hs : HintSet
deriving DecidableEq, Repr

/-- R292: an entry of the watch table has fired, or PREQ is 1. -/
def Group.wakes (g : Group) : Bool := g.ctrl.preq || g.watch.any fun w => w.fired

/-- R292, R378: a strand waits for nothing; one asleep in WAITW no longer does once its wait has ended. -/
def Entry.isReady (g : Group) (e : Entry) : Bool := e.kind == .strand && (e.wait == .ready || (e.wait == .watch && g.wakes))

/-- A group may issue: it runs, is not saved, and its team is resident. -/
def State.canRun (s : State) (g : Group) : Bool :=
  g.phase == .running && g.saved.isNone && (s.teamOf g).any fun t => t.phase == .resident

/-- The context of the selected group's selected strand. -/
def State.cx? (s : State) : Option Cx :=
  match s.cur with
  | none => none
  | some gi =>
    match s.groups[gi]? with
    | none => none
    | some g =>
      match s.teamOf g with
      | none => none
      | some t =>
        match s.part? t.part with
        | none => none
        | some p =>
          match g.ctl.get g.ctl.cur with
          | none => none
          | some e =>
            if e.kind == .strand && s.canRun g then
              some { gi := gi, g := g, t := t, p := p, k := g.ctl.cur, e := e, hs := HintSet.of e.hints }
            else none

/-- R18: the group is of the producer role. -/
def Cx.producer (c : Cx) : Bool := c.g.id < c.t.hdr.pgroups

/-- R18: the role's register budget. -/
def Cx.budget (c : Cx) : Nat := if c.producer then c.t.hdr.pregs else c.t.hdr.cregs

/-- R11: vector register `n` of a group. -/
def Regs.vreg (r : Regs) (n : Nat) : Lanes Word := r.v.toList.getD n (Vector.replicate 32 0)

/-- Write vector register `n`. -/
def Regs.setV (r : Regs) (n : Nat) (x : Lanes Word) : Regs := { r with v := r.v.setIfInBounds n x }

/-- R11: scalar register `n` of a group. -/
def Regs.sreg (r : Regs) (n : Nat) : Word := r.s.toList.getD n 0

/-- Write scalar register `n`. -/
def Regs.setS (r : Regs) (n : Nat) (x : Word) : Regs := { r with s := r.s.setIfInBounds n x }

/-- R11: guard `n`. -/
def Regs.guard (r : Regs) (n : BitVec 3) : LaneMask := r.g.toList.getD n.toNat 0

/-- Write guard `n`. -/
def Regs.setG (r : Regs) (n : BitVec 3) (x : LaneMask) : Regs := { r with g := r.g.setIfInBounds n.toNat x }

/-- R11, R140: translation base register `n`. -/
def Regs.tbReg (r : Regs) (n : BitVec 3) : TbReg := r.tb[n.toFin]

/-- Write translation base register `n`. -/
def Regs.setTb (r : Regs) (n : BitVec 3) (x : TbReg) : Regs := { r with tb := r.tb.set n.toNat x n.isLt }

/-- R65: the even pair from scalar register `n`. -/
def Regs.spair (r : Regs) (n : Nat) : DWord := pairOf (r.sreg n) (r.sreg (n + 1))

/-- Write the even pair from scalar register `n`. -/
def Regs.setPair (r : Regs) (n : Nat) (x : DWord) : Regs := (r.setS n (loWord x)).setS (n + 1) (hiWord x)

/-- R140: the tile size of xp. -/
def tileSize (xp : BitVec 3) : Nat := 2 ^ (min xp.toNat 5)

/-- R71: every latch becomes invalid. -/
def Regs.loseLatches (r : Regs) : Regs := { r with bOk := Vector.replicate 4 false }

/-- R70: shift a result into the latches. -/
def Regs.pushLatch (r : Regs) (x : Lanes DWord) : Regs :=
  { r with b := #v[x, r.b[0], r.b[1], r.b[2]], bOk := #v[true, r.bOk[0], r.bOk[1], r.bOk[2]] }

/-- R14, R62: the partition-relative number of a logical hall. -/
def Part.relHall (p : Part) (hall : Nat) : Nat := (p.halls.takeWhile (· != hall)).length

/-- R62, R150: a special in a lane. -/
def Cx.special (c : Cx) (x : Special) (l : Nat) : Word :=
  let lane := if c.t.hdr.compat then l % 16 else l
  let tile := tileSize c.g.regs.xp
  match x with
  | .zero => 0
  | .laneid => BitVec.ofNat 32 lane
  | .tlane => BitVec.ofNat 32 (l % tile)
  | .tindex => BitVec.ofNat 32 (l / tile)
  | .gid => BitVec.ofNat 32 c.g.id
  | .teamid => BitVec.ofNat 32 c.t.teamId
  | .hallid => BitVec.ofNat 32 (c.p.relHall c.t.hall)
  | .bayid => BitVec.ofNat 32 (c.g.id % 4)
  | .ngroups => BitVec.ofNat 32 c.t.groups.length
  | .xmval => c.e.active
  | .tsize => BitVec.ofNat 32 tile
  | .ones => 0xFFFFFFFF

/-- R63: an inline constant read as an integer. -/
def constInt (i : BitVec 6) : Int := (i.toNat : Int) - 32

/-- R61, R220: a source as 32 bits in a lane, constants read as integers. -/
def Cx.src (c : Cx) (x : Src) (l : Nat) : Word :=
  match x with
  | .v n => Lanes.at (c.g.regs.vreg n.toNat) l
  | .s n => c.g.regs.sreg n.val
  | .latch n => loWord (Lanes.at (c.g.regs.b[n.toFin]) l)
  | .special y => c.special y l
  | .const i => wordOf (constInt i)

/-- R65: a source as 64 bits in a lane, constants read as integers. -/
def Cx.src64 (c : Cx) (x : Src) (l : Nat) : DWord :=
  match x with
  | .v n => pairOf (Lanes.at (c.g.regs.vreg n.toNat) l) (Lanes.at (c.g.regs.vreg (n.toNat + 1)) l)
  | .s n => c.g.regs.spair n.val
  | .latch n => Lanes.at (c.g.regs.b[n.toFin]) l
  | .special y => pairOf (c.special y l) 0
  | .const i => BitVec.ofInt 64 (constInt i)

/-- R61: a source in every lane. -/
def Cx.srcLanes (c : Cx) (x : Src) : Lanes Word := Lanes.tabulate (c.src x)

/-- R64: a 7-bit operand. -/
def Cx.sop (c : Cx) (x : SOp) : Word :=
  match x with
  | .s n => c.g.regs.sreg n.val
  | .special y => c.special y 0
  | .const i => wordOf (constInt i)

/-- R65: a 7-bit operand as 64 bits. -/
def Cx.sop64 (c : Cx) (x : SOp) : DWord :=
  match x with
  | .s n => c.g.regs.spair n.val
  | .special y => pairOf (c.special y 0) 0
  | .const i => BitVec.ofInt 64 (constInt i)

/-- R67: the lanes a guard field selects. -/
def Cx.guardMask (c : Cx) (gd : BitVec 2) : LaneMask :=
  match gd.toNat with
  | 0 => allLanes
  | 1 => c.g.regs.guard 0
  | 2 => ~~~(c.g.regs.guard 0)
  | _ =>
    match c.hs.grd with
    | some (neg, n) => if neg then ~~~(c.g.regs.guard n) else c.g.regs.guard n
    | none => allLanes

/-- R12, R67: act, the active lanes whose guard holds. -/
def Cx.act (c : Cx) (gd : BitVec 2) : LaneMask := c.e.active &&& c.guardMask gd

end Sys2Proof.Machine

namespace Sys2Proof

open Sys2Proof.Machine

/-- R78: a source advanced for repeat `j`; a step other than 0 needs a v register. -/
def Src.advance (x : Src) (j step : Nat) : Option Src :=
  match x with
  | .v r => if r.toNat + j * step < 128 then some (.v (BitVec.ofNat 7 (r.toNat + j * step))) else none
  | y => if step == 0 then some y else none

end Sys2Proof

namespace Sys2Proof.Machine

/-- R78: a destination advanced. -/
def advanceD (d : VReg) (n : Nat) : Option VReg := if d.toNat + n < 128 then some (BitVec.ofNat 7 (d.toNat + n)) else none

end Sys2Proof.Machine

namespace Sys2Proof

open Sys2Proof.Machine

/-- R78: the V form of repeat `j`; none when a number goes beyond v127 or a step meets no v register. -/
def VForm.advance (f : VForm) (r : RepSteps) (j : Nat) : Option VForm := do
  let d ← advanceD f.d (j * r.d)
  let a ← Src.advance f.a j r.a
  let b ← Src.advance f.b j r.b
  some { f with d := d, a := a, b := b }

/-- R78: the U form of repeat `j`; it has no b. -/
def UForm.advance (f : UForm) (r : RepSteps) (j : Nat) : Option UForm := do
  let d ← advanceD f.d (j * r.d)
  let a ← Src.advance f.a j r.a
  if r.b == 0 then some { f with d := d, a := a } else none

/-- R78: the VCMP form of repeat `j`; it has no d to advance. -/
def VCmpForm.advance (f : VCmpForm) (r : RepSteps) (j : Nat) : Option VCmpForm := do
  let a ← Src.advance f.a j r.a
  let b ← Src.advance f.b j r.b
  if r.d == 0 then some { f with a := a, b := b } else none

end Sys2Proof

namespace Sys2Proof.Machine

/-- R78: the form that the present repeat executes. -/
def Cx.vForm (c : Cx) (f : VForm) : VForm :=
  match c.hs.rep with
  | some r => (f.advance r c.e.rpt).getD f
  | none => f

/-- R78: the form that the present repeat executes. -/
def Cx.uForm (c : Cx) (f : UForm) : UForm :=
  match c.hs.rep with
  | some r => (f.advance r c.e.rpt).getD f
  | none => f

/-- R78: the form that the present repeat executes. -/
def Cx.cmpForm (c : Cx) (f : VCmpForm) : VCmpForm :=
  match c.hs.rep with
  | some r => (f.advance r c.e.rpt).getD f
  | none => f

/-- The registers and handles that a word names: for each field its value and how many registers it spans. -/
structure Uses where
  gd : Option (BitVec 2) := none
  /-- Vector registers read, and written. -/
  rd : List (VReg × Nat) := []
  wr : List (VReg × Nat) := []
  src : List (Src × Nat) := []
  sregs : List (SReg × Nat) := []
  sops : List (SOp × Nat) := []
  knot : Option (BitVec 8) := none
  bar : Option (BitVec 4) := none
  slot : Option (BitVec 2) := none
  tile : Option (BitVec 8) := none
  /-- A third source unless a SRC3 hint supplies it (R66). -/
  third : Bool := false
deriving DecidableEq, Repr

end Sys2Proof.Machine

namespace Sys2Proof

open Sys2Proof.Machine

/-- A V word of one-register operands. -/
def VForm.uses (f : VForm) (dn n : Nat) (third : Bool) : Uses :=
  { gd := some f.gd, wr := [(f.d, dn)], src := [(f.a, n), (f.b, n)], third := third }

/-- A U word. -/
def UForm.uses (f : UForm) (dn n : Nat) : Uses := { gd := some f.gd, wr := [(f.d, dn)], src := [(f.a, n)] }

/-- An S word. -/
def SForm.uses (f : SForm) (n : Nat) : Uses := { sregs := [(f.d, n)], sops := [(f.a, n), (f.b, n)] }

end Sys2Proof

namespace Sys2Proof.Machine

/-- R65: registers of an access of a size. -/
def sizeRegs (z : Size) : Nat :=
  match z with
  | .double => 2
  | .quad => 4
  | _ => 1

end Sys2Proof.Machine

namespace Sys2Proof

open Sys2Proof.Machine

/-- An atomic word; `n` registers read and `m` written. -/
def AForm.uses (f : AForm) (n m : Nat) : Uses :=
  { gd := some f.gd, rd := if n == 0 then [] else [(f.d, n)], wr := if m == 0 then [] else [(f.d, m)], src := [(f.x, 1)] }

end Sys2Proof

namespace Sys2Proof.Machine

/-- R84: registers of a conversion type. -/
def cvtRegs (t : CvtType) : Nat := if t == .f64 then 2 else 1

end Sys2Proof.Machine

namespace Sys2Proof

open Sys2Proof.Machine

/-- The registers and handles that a word names (R97, R243, R294). -/
def Instr.uses : Instr → Uses
  | .iadd f | .isub f | .imul f | .imulh f | .and f | .or f | .xor f | .shl f | .shr f | .sar f | .imin f | .imax f
  | .nmin f | .nmax f | .fadd f | .fmul f | .fmin f | .fmax f | .hadd2 f | .hmul2 f | .sel f | .bfx f
  | .shfi f | .shfu f | .shfd f | .shfx f | .topk f | .append f => f.uses 1 1 false
  | .imac f | .fmac f | .hmac2 f => f.uses 1 1 true
  | .bfi f => { f.uses 1 1 false with rd := [(f.d, 1)] }
  | .dadd f | .dmul f => f.uses 2 2 false
  | .dmac f => f.uses 2 2 true
  | .vcmp f => { gd := some f.gd, src := [(f.a, 1), (f.b, 1)] }
  | .mov f | .not f | .ineg f | .iabs f | .popc f | .clz f | .ctz f | .brev f | .bswap f | .fneg f | .fabs f | .frcp f
  | .frsq f | .fsqrt f | .fexp2 f | .flog2 f | .fsin f | .fcos f | .ftanh f | .ffloor f | .fceil f | .ftrunc f
  | .frint f | .fclass f | .hneg2 f | .habs2 f | .ballot f | .vany f | .vall f | .first f => f.uses 1 1
  | .mov64 f | .dneg f | .dabs f | .dsqrt f | .drcp f => f.uses 2 2
  | .psum _ _ f | .rsum _ f | .rmin _ f | .rmax _ f => f.uses 1 1
  | .vcvt t u f => f.uses (cvtRegs t) (cvtRegs u)
  | .qpack t f => f.uses 1 t.count
  | .sadd f | .ssub f | .smul f | .smulh f | .sand f | .sor f | .sxor f | .sshl f | .sshr f | .ssar f | .smin f | .smax f
  | .snmin f | .snmax f => f.uses 1
  | .sadd64 f | .ssub64 f => f.uses 2
  | .scmp _ f => f.uses 1
  | .srdv d a b => { sregs := [(d, 1)], sops := [(a, 1)], rd := [(b, 1)] }
  | .sli d _ | .slui d _ | .saddi d _ => { sregs := [(d, 1)] }
  | .jsz s _ | .jsnz s _ => { sregs := [(s, 1)] }
  | .call s _ => { sregs := [(s, 2)] }
  | .calli v s => { rd := [(v, 2)], sregs := [(s, 2)] }
  | .ret s => { sregs := [(s, 2)] }
  | .waitk k | .yieldk k _ => { knot := some k }
  | .kinit k x => { knot := some k, sops := [(x, 1)] }
  | .ktie k s => { knot := some k, sregs := [(s, 2)] }
  | .bar n | .bara n | .barw n => { bar := some n }
  | .getxm d => { sregs := [(d, 1)] }
  | .setxm x => { sops := [(x, 1)] }
  | .getc c d => { sregs := [(d, if c == .frame then 2 else 1)] }
  | .setc _ x => { sops := [(x, 1)] }
  | .rdx f _ _ v => { wr := [(v, if f == 0 then 2 else 1)] }
  | .wrx _ _ _ v => { rd := [(v, 1)] }
  | .ld f => { gd := some f.gd, wr := [(f.d, sizeRegs f.size)], src := [(f.x, 1)] }
  | .sld d _ x _ => { sregs := [(d, 1)], src := [(x, 1)] }
  | .st f => { gd := some f.gd, rd := [(f.d, sizeRegs f.size)], src := [(f.x, 1)] }
  | .lds f | .ldp f => { gd := some f.gd, wr := [(f.d, sizeRegs f.size)], src := [(f.x, 1)] }
  | .sts f | .stp f => { gd := some f.gd, rd := [(f.d, sizeRegs f.size)], src := [(f.x, 1)] }
  | .atomSwap f | .atomAdd f | .atomAnd f | .atomOr f | .atomXor f | .atomMin f | .atomMax f | .atomNmin f | .atomNmax f
  | .atomFadd f => f.uses (if f.wide then 2 else 1) (if f.wide then 2 else 1)
  | .atomCas f => f.uses (if f.wide then 4 else 2) (if f.wide then 2 else 1)
  | .atomLoad f => f.uses 0 (if f.wide then 2 else 1)
  | .atomStore f => f.uses (if f.wide then 2 else 1) 0
  | .tbset _ p l => { sregs := [(p, 2), (l, 1)] }
  | .discard _ o c => { sregs := [(o, 1), (c, 1)] }
  | .pfetch _ x => { src := [(x, 1)] }
  | .watch _ o => { sregs := [(o, 1)] }
  | .stepCounter x => { sops := [(x, 1)] }
  | .mma f => { slot := some f.slot, sregs := [(f.as, if f.fmt == .blk24 then 2 else 1), (f.bs, 1)] }
  | .zero z t => { slot := some z, tile := some t }
  | .drainSlot z | .fold z => { slot := some z }
  | .accrd z v _ => { slot := some z, wr := [(v, 1)] }
  | .accwr z v _ => { slot := some z, rd := [(v, 1)] }
  | .accld t s | .accst t s => { tile := some t, sregs := [(s, 1)] }
  | .galst z s => { slot := some z, sregs := [(s, 1)] }
  | .stair k s | .stairg k s | .hoist _ k s | .braid _ k s | .cmpr _ k s | .dcmp _ k s => { knot := some k, sregs := [(s, 2)] }
  | .kquery k d => { knot := some k, sregs := [(d, 1)] }
  | .launch d a => { sregs := [(d, 1), (a, 2)] }
  | .lquery d a => { sregs := [(d, 2), (a, 1)] }
  | .publish d a b => { sregs := [(d, 2), (a, 2), (b, 1)] }
  | .bindSlot d a b | .unbind d a b | .unbindReleaseHold d a b => { sregs := [(d, 1), (a, 2), (b, 2)] }
  | .place d a b => { sregs := [(d, 1), (a, 1), (b, 2)] }
  | .preempt d a b => { sregs := [(d, 1), (a, 1), (b, 1)] }
  | .pcancel d a => { sregs := [(d, 1), (a, 1)] }
  | .exportCtx d a | .importCtx d a | .seal d a => { sregs := [(d, 1), (a, 2)] }
  | .cntrd d a => { sregs := [(d, 2), (a, 1)] }
  | _ => {}

/-- R78: the instruction that repeat `j` of a word executes. -/
def Instr.advance (i : Instr) (r : RepSteps) (j : Nat) : Option Instr :=
  match i with
  | .iadd f => (f.advance r j).map .iadd | .isub f => (f.advance r j).map .isub | .imul f => (f.advance r j).map .imul
  | .imulh f => (f.advance r j).map .imulh | .imac f => (f.advance r j).map .imac | .and f => (f.advance r j).map .and
  | .or f => (f.advance r j).map .or | .xor f => (f.advance r j).map .xor | .shl f => (f.advance r j).map .shl
  | .shr f => (f.advance r j).map .shr | .sar f => (f.advance r j).map .sar | .imin f => (f.advance r j).map .imin
  | .imax f => (f.advance r j).map .imax | .nmin f => (f.advance r j).map .nmin | .nmax f => (f.advance r j).map .nmax
  | .fadd f => (f.advance r j).map .fadd | .fmul f => (f.advance r j).map .fmul | .fmac f => (f.advance r j).map .fmac
  | .fmin f => (f.advance r j).map .fmin | .fmax f => (f.advance r j).map .fmax | .hadd2 f => (f.advance r j).map .hadd2
  | .hmul2 f => (f.advance r j).map .hmul2 | .hmac2 f => (f.advance r j).map .hmac2 | .dadd f => (f.advance r j).map .dadd
  | .dmul f => (f.advance r j).map .dmul | .dmac f => (f.advance r j).map .dmac | .sel f => (f.advance r j).map .sel
  | .vcmp f => (f.advance r j).map .vcmp | .bfx f => (f.advance r j).map .bfx | .bfi f => (f.advance r j).map .bfi
  | .shfi f => (f.advance r j).map .shfi | .shfu f => (f.advance r j).map .shfu | .shfd f => (f.advance r j).map .shfd
  | .shfx f => (f.advance r j).map .shfx | .topk f => (f.advance r j).map .topk | .append f => (f.advance r j).map .append
  | .mov f => (f.advance r j).map .mov | .not f => (f.advance r j).map .not | .ineg f => (f.advance r j).map .ineg
  | .iabs f => (f.advance r j).map .iabs | .popc f => (f.advance r j).map .popc | .clz f => (f.advance r j).map .clz
  | .ctz f => (f.advance r j).map .ctz | .brev f => (f.advance r j).map .brev | .bswap f => (f.advance r j).map .bswap
  | .mov64 f => (f.advance r j).map .mov64 | .fneg f => (f.advance r j).map .fneg | .fabs f => (f.advance r j).map .fabs
  | .frcp f => (f.advance r j).map .frcp | .frsq f => (f.advance r j).map .frsq | .fsqrt f => (f.advance r j).map .fsqrt
  | .fexp2 f => (f.advance r j).map .fexp2 | .flog2 f => (f.advance r j).map .flog2 | .fsin f => (f.advance r j).map .fsin
  | .fcos f => (f.advance r j).map .fcos | .ftanh f => (f.advance r j).map .ftanh | .ffloor f => (f.advance r j).map .ffloor
  | .fceil f => (f.advance r j).map .fceil | .ftrunc f => (f.advance r j).map .ftrunc | .frint f => (f.advance r j).map .frint
  | .fclass f => (f.advance r j).map .fclass | .dneg f => (f.advance r j).map .dneg | .dabs f => (f.advance r j).map .dabs
  | .dsqrt f => (f.advance r j).map .dsqrt | .drcp f => (f.advance r j).map .drcp | .hneg2 f => (f.advance r j).map .hneg2
  | .habs2 f => (f.advance r j).map .habs2 | .vcvt t u f => (f.advance r j).map (.vcvt t u)
  | .qpack t f => (f.advance r j).map (.qpack t) | .ballot f => (f.advance r j).map .ballot
  | .vany f => (f.advance r j).map .vany | .vall f => (f.advance r j).map .vall | .first f => (f.advance r j).map .first
  | .psum t x f => (f.advance r j).map (.psum t x) | .rsum t f => (f.advance r j).map (.rsum t)
  | .rmin t f => (f.advance r j).map (.rmin t) | .rmax t f => (f.advance r j).map (.rmax t)
  | _ => none

/-- R76: the word has a third source that a SRC3 hint may name, and whether it reads it as a float. -/
def Instr.takesSrc3 : Instr → Option Bool
  | .imac _ => some false
  | .fmac _ => some true
  | .hmac2 _ => some true
  | .dmac _ => some true
  | _ => none

/-- R75: an IMM hint may stand before the word. -/
def Instr.takesImm : Instr → Bool
  | .sli _ _ | .saddi _ _ | .jmp _ | .jsz _ _ | .jsnz _ _ | .jg _ _ _ | .jgx _ _ _ | .call _ _ | .jany _ _ _ | .jall _ _ _
  | .yieldk _ _ | .splice _ | .trap _ | .ld _ | .sld _ _ _ _ | .st _ | .lds _ | .sts _ | .ldp _ | .stp _
  | .atomSwap _ | .atomAdd _ | .atomAnd _ | .atomOr _ | .atomXor _ | .atomMin _ | .atomMax _ | .atomNmin _
  | .atomNmax _ | .atomCas _ | .atomFadd _ | .atomLoad _ | .atomStore _ => true
  | _ => false

/-- R77: the word accepts a rounding field. -/
def Instr.takesRounding : Instr → Bool
  | .fadd _ | .fmul _ | .fmac _ | .fmin _ | .fmax _ | .hadd2 _ | .hmul2 _ | .hmac2 _ | .dadd _ | .dmul _ | .dmac _
  | .fneg _ | .fabs _ | .frcp _ | .frsq _ | .fsqrt _ | .fexp2 _ | .flog2 _ | .fsin _ | .fcos _ | .ftanh _ | .ffloor _
  | .fceil _ | .ftrunc _ | .frint _ | .fclass _ | .dneg _ | .dabs _ | .dsqrt _ | .drcp _ | .hneg2 _ | .habs2 _
  | .vcvt _ _ _ | .qpack _ _ => true
  | .psum t _ _ | .rsum t _ | .rmin t _ | .rmax t _ => t == .f32
  | .mma f => f.fmt != .int8 && f.fmt != .int4
  | _ => false

/-- R77: the word accepts .sat. -/
def Instr.takesSat : Instr → Bool
  | .iadd _ | .isub _ | .imul _ | .imac _ => true
  | .vcvt t _ _ => t == .i32 || t == .n32 || t == .i8 || t == .n8 || t == .i16 || t == .n16 || t == .i4
  | .qpack t _ => t == .i8 || t == .i4
  | _ => false

/-- R77: the word accepts .bf. -/
def Instr.takesBf : Instr → Bool
  | .hadd2 _ | .hmul2 _ | .hmac2 _ | .hneg2 _ | .habs2 _ => true
  | _ => false

/-- R30, R90: an atomic, which accepts a scope, .acq and .rel (R77). -/
def Instr.isAtom : Instr → Bool
  | .atomSwap _ | .atomAdd _ | .atomAnd _ | .atomOr _ | .atomXor _ | .atomMin _ | .atomMax _ | .atomNmin _ | .atomNmax _
  | .atomCas _ | .atomFadd _ | .atomLoad _ | .atomStore _ => true
  | _ => false

/-- R93: a MATCTL word. -/
def Instr.isMatctl : Instr → Bool
  | .zero _ _ | .drainSlot _ | .fold _ | .accrd _ _ _ | .accwr _ _ _ | .accld _ _ | .accst _ _ | .galst _ _ => true
  | _ => false

/-- R73: the kinds of hint, for the rule that two pending hints differ; none for other words. -/
def Instr.hintKind : Instr → Option Nat
  | .imm _ => some 0 | .grd _ _ => some 1 | .src3 _ _ _ => some 2 | .modh _ => some 3 | .rep _ _ _ _ => some 4
  | .sched _ _ _ => some 5 | .live _ => some 5
  | _ => none

end Sys2Proof
end

