-- ==== Sys2Proof/Machine/Ops.lean ====
section
/-! DEFINITION. The operations every meaning shares: the checks before a word issues (R96, R97), retirement
and transfers (R70, R71, R80, R203), taking a trap (R151 to R154), landing (R155 to R158), parking (R395),
barriers (R161) and knots (R28). -/

namespace Sys2Proof.Machine

/-! ### Memory by virtual address -/

/-- R262: a translation of an address that some TLB holds for the partition. -/
def PartXlat.cached (x : PartXlat) (va : Nat) : Option Xlate := (x.tlb.find? fun e => e.x.covers va).map TlbEntry.x

/-- R433, R434: a protected read of a granule finds a tag that does not match: its sector is not one that the partition's material sealed, or
what stands at its system home is not what its side band names, and L2 holds no plaintext of it; or no key opens it. -/
def State.torn (s : State) (own : Option Nat) (shr : Bool) (gran : Nat) : Bool :=
  match s.sealer own shr gran with
  | none => s.keyless own shr gran
  | some m =>
    s.broken.contains gran || s.foreign m (gran / 2) ||
      (s.homes.seal? (gran / 2)).any fun x => !holdsSector s.homes.l2 gran && !s.homes.tagHolds x

/-- R275, R434: granules that a walker may not read: poisoned ones, and for a protected partition those of torn sectors. -/
def State.unreadable (s : State) (p : Part) : List Nat :=
  if p.cfg.protect then
    s.poisonNow ++ s.broken ++ (s.homes.seals.flatMap fun x => [2 * x.sec, 2 * x.sec + 1]).filter (s.torn (some p.id) false)
  else s.poisonNow

/-- The translation of a virtual address for the device in a partition: a cached one, or what a walk gives. -/
def State.vaXlate (s : State) (p : Part) (va : Nat) : Option Xlate :=
  if classBase ≤ va then none
  else
    match p.xlat.cached va with
    | some x => some x
    | none => (s.translate (s.unreadable p) p va).toOption

/-- The bytes of a list in pieces that no granule boundary cuts, with their addresses. -/
def pieces : Nat → Nat → List Byte → List (Nat × List Byte)
  | 0, _, _ => []
  | fuel + 1, va, bytes =>
    match bytes with
    | [] => []
    | _ => (va, bytes.take (16 - va % 16)) :: pieces fuel (va + (16 - va % 16)) (bytes.drop (16 - va % 16))

/-- R301: what a frame write puts at the homes of its pieces; a piece whose page does not translate is lost, and one whose page is not
writable is written all the same, DESIGN CHOICE (log 10). -/
def State.frameWrites (s : State) (p : Part) (va : Nat) (bytes : List Byte) : List GranWrite :=
  (pieces (bytes.length + 1) va bytes).flatMap fun pc =>
    match s.vaXlate p pc.1 with
    | some x => writesAt pc.1 x.shr (spanWrites (x.at pc.1) pc.2)
    | none => []

/-- R301, R384: write a frame as stores of a group, committed at p, that carry no other store of it. -/
def State.frameWrite (s : State) (gi : Nat) (p : Part) (va : Nat) (bytes : List Byte) : State :=
  let ws := s.frameWrites p va bytes
  (s.commit { party := s.partyOf gi, scope := .p, atHome := true, atomic := true, sector := false, discard := false } ws).updGroup gi (Group.ownFrame ws)

/-- Read bytes by virtual address as a reader; none where a page does not translate. -/
def State.readVa (s : State) (p : Part) (r : Reader) (own : List OwnStore) (n va count : Nat) : Option (List Byte) :=
  (pieces (count + 1) va (List.replicate count 0)).foldl (fun acc pc =>
    match acc, s.vaXlate p pc.1 with
    | some bs, some x => some (bs ++ s.readSpan { r with own := some p.id, shr := x.shr } own n (x.at pc.1) pc.2.length)
    | _, _ => none) (some [])

/-- R434: some of `n` bytes by virtual address lie in a sector that the device's protected read finds torn. -/
def State.tornVa (s : State) (p : Part) (va n : Nat) : Bool :=
  p.cfg.protect && (pieces (n + 1) va (List.replicate n 0)).any fun pc =>
    (s.vaXlate p pc.1).any fun x => s.torn (some p.id) x.shr (granOf (x.at pc.1))

/-- Use up a free value. -/
def State.spend (s : State) : State := { s with free := s.free + 1 }

/-! ### Code -/

/-- The object of an id in a partition. -/
def Part.object? (p : Part) (id : Word) : Option CodeObject := p.objects.find? fun o => o.id == id

/-- R131: a code reference into the code region of an object that is not retiring or retired, at a word. -/
def Part.refOk (p : Part) (r : CodeRef) : Bool :=
  match p.object? r.obj with
  | some o => !o.retiring && !o.retired && r.off.toNat % 4 == 0 && r.off.toNat < o.code.length
  | none => false

/-- R167: an offset lies in the code region of the executing object. -/
def Part.inRegion (p : Part) (r : CodeRef) : Bool :=
  match p.object? r.obj with
  | some o => r.off.toNat % 4 == 0 && r.off.toNat + 4 ≤ o.code.length
  | none => false

/-- R58: the word at a code reference. -/
def Part.codeWord (p : Part) (r : CodeRef) : Option Word :=
  match p.object? r.obj with
  | some o =>
    if r.off.toNat % 4 == 0 && r.off.toNat + 4 ≤ o.code.length then
      some (BitVec.ofNat 32 (fieldAt o.code r.off.toNat 4))
    else none
  | none => none

/-- R142: a LANDBASE or TRAPBASE value names a handler. -/
def Part.handlerOk (p : Part) (r : CodeRef) : Bool := r.off != 0 && p.inRegion r

/-! ### Groups -/

/-- Some entry of a group, frozen or not, satisfies a test. -/
def Group.anyEntry (f : Entry → Bool) (g : Group) : Bool :=
  g.ctl.entries.any (fun x => x.any f) || g.ctxs.any fun x => x.ctl.entries.any fun y => y.any f

/-- R145, R151: entries free to a group, those that a trap or landing froze counted. -/
def Group.freeEntries (g : Group) : Nat :=
  8 - g.ctl.used - (g.ctxs.map fun x => x.ctl.used - 1).foldl (· + ·) 0

/-- R146, R71: settle the table; a fusion invalidates the latches. -/
def Group.settle (g : Group) : Group :=
  let r := g.ctl.settle settleFuel false
  { g with ctl := r.1, regs := if r.2 then g.regs.loseLatches else g.regs }

/-- Change the current strand's entry. -/
def Group.setEntry (k : Fin 8) (f : Entry → Entry) (g : Group) : Group :=
  { g with ctl := g.ctl.put k ((g.ctl.get k).map f) }

/-- A chain with its translation base registers changed. -/
def Chain.mapTb (f : TbReg → TbReg) (ch : Chain) : Chain := { ch with tba := f ch.tba, tbb := f ch.tbb }

/-- Operands with the translation base registers that they hold changed. -/
def Operands.mapTb (f : TbReg → TbReg) (o : Operands) : Operands := { o with tb := f o.tb, chain := o.chain.map (Chain.mapTb f) }

/-- A region with its captured translation base registers changed. -/
def Region.mapTb (f : TbReg → TbReg) (r : Region) : Region := { r with regs := { r.regs with tb := r.regs.tb.map f } }

/-- R261: every copy of a group's translation base registers: its own, those of its region, its chain and its log. -/
def Group.mapTb (f : TbReg → TbReg) (g : Group) : Group :=
  { g with
    regs := { g.regs with tb := g.regs.tb.map f }
    region := g.region.map (Region.mapTb f)
    chain := g.chain.map (Chain.mapTb f)
    log := g.log.map fun l => { l with ops := l.ops.mapTb f, before := l.before.map (Region.mapTb f) } }

/-- R261: a translation base register whose hidden frame is released. -/
def TbReg.noFrame (b : TbReg) : TbReg := { b with frame := Option.none, released := b.released || b.frame.isSome }

/-- The strands that wait for some reason look again. -/
def Group.wake (w : Wait → Bool) (g : Group) : Group :=
  g.mapEntries fun e => if w e.wait then { e with wait := .ready } else e

/-- The strands of a partition's groups that wait for some reason look again. -/
def State.wakePart (s : State) (pid : Nat) (w : Wait → Bool) : State :=
  { s with groups := s.groups.map fun g =>
      if ((s.teamOf g).any fun t => t.part == pid) && g.anyEntry (fun e => w e.wait) then g.wake w else g }

/-- R151: a trap is being handled. -/
def Group.inTrap (g : Group) : Bool := g.ctxs.any fun x => !x.landing

/-- R155, R158: the landing depth. -/
def Group.depth (g : Group) : Nat := g.land.length

/-- R160: operand-log entries in use. -/
def Group.logUsed (g : Group) : Nat := g.log.length + g.land.length

/-- R459: the handlers up to that of a deferred trap, the outermost counted first; 0 when there is none. -/
def deferredLevel : List Ctx → Nat
  | [] => 0
  | x :: rest => if x.deferred.isSome then rest.length + 1 else deferredLevel rest

/-- R266, R459: the faulted accesses that words wait for and that may replay: while a deferred trap is handled, those
of its handler only. -/
def Group.activeLog (g : Group) : List LogEntry := g.log.filter fun l => deferredLevel g.ctxs ≤ l.level

/-- R242: an APPEND of the group has performed some of its tiles; no trap falls there (R78), so that none is frozen. -/
def Group.midWord (g : Group) : Bool := g.ctl.entries.any fun x => x.any fun e => !e.appended.isEmpty

/-- R354: a chain of the group runs whose strand has gone on. -/
def Group.freeChain (g : Group) : Bool := g.chain.any fun ch => ch.strand.isNone && ch.log.isNone

/-- R161: a group is live for the barrier test. -/
def Group.live (g : Group) : Bool := g.phase == .running

/-- R177: a group has exited or been killed. -/
def Group.gone (g : Group) : Bool := g.phase == .exited

/-! ### Counters -/

/-- R403: one word issued. -/
def State.countIssued (s : State) (p : Nat) : State :=
  s.updPart p fun q => { q with counters := { q.counters with issued := q.counters.issued + 1 } }

/-- R403: one word issued and retired. -/
def State.countRetired (s : State) (p : Nat) : State :=
  s.updPart p fun q => { q with counters := { q.counters with issued := q.counters.issued + 1, retired := q.counters.retired + 1 } }

/-- R203, R403: one word issued, and two retired: EMURET and the word it emulated. -/
def State.countEmulated (s : State) (p : Nat) : State :=
  s.updPart p fun q => { q with counters := { q.counters with issued := q.counters.issued + 1, retired := q.counters.retired + 2 } }

/-! ### Retiring and transferring -/

/-- R81: the address of the first pending hint, or of the word. -/
def Entry.first (e : Entry) : CodeRef := e.pc.add (-(4 * (e.hints.length : Int)))

/-- R78, R80: repeats of the pending word. -/
def Cx.repeats (c : Cx) : Nat :=
  match c.hs.rep with
  | some r => r.count
  | none => 1

/-- The entry after a word, or after a repeat that is not the last. -/
def Entry.done (rep : Nat) (e : Entry) : Entry :=
  if e.rpt + 1 < rep then { e with rpt := e.rpt + 1, wait := .ready, grant := none, overdue := none, drawn := none, appended := [], turned := [] }
  else { e with pc := e.pc.add 4, hints := [], rpt := 0, wait := .ready, grant := none, overdue := none, drawn := none, appended := [], turned := [] }

/-- R80: the entry after a taken transfer. -/
def Entry.jump (dst : CodeRef) (e : Entry) : Entry :=
  { e with pc := dst, hints := [], rpt := 0, pend := none, wait := .ready, grant := none, overdue := none, drawn := none, appended := [], turned := [] }

/-- R203: a group whose word has retired and whose strand goes on. -/
def Group.retireWord (k : Fin 8) (rep : Nat) (g : Group) : Group :=
  { g.setEntry k (Entry.done rep) with retire := g.retire + 1 }.settle

/-- R71, R80, R203: a group whose word has retired by a taken transfer of its strand. -/
def Group.retireJump (k : Fin 8) (dst : CodeRef) (g : Group) : Group :=
  { g.setEntry k (Entry.jump dst) with retire := g.retire + 1, regs := g.regs.loseLatches }.settle

/-- R178, R378: an age above every group's. -/
def State.youngest (s : State) : Nat := s.groups.foldl (fun n g => max n (g.age + 1)) 0

/-- R79: a SCHED hint with bit 14 set yields the group after the word, which loses it no latch. -/
def State.yieldAfter (s : State) (c : Cx) : State :=
  s.updGroup c.gi fun g => if c.hs.yields && c.repeats ≤ c.e.rpt + 1 then { g with age := s.youngest } else g

/-- R203, R403: the word retires, and the strand goes on after it. -/
def State.retire (s : State) (c : Cx) : State := ((s.updGroup c.gi (Group.retireWord c.k c.repeats)).countRetired c.p.id).yieldAfter c

/-- R167, R203: the word retires by a transfer. -/
def State.retireTo (s : State) (c : Cx) (dst : CodeRef) : State :=
  ((s.updGroup c.gi (Group.retireJump c.k dst)).countRetired c.p.id).yieldAfter c

/-- Change the issuing group's registers. -/
def State.setRegs (s : State) (c : Cx) (f : Regs → Regs) : State := s.updGroup c.gi fun g => { g with regs := f g.regs }

/-- The strand waits at its word. -/
def State.setWait (s : State) (c : Cx) (w : Wait) : State := s.updGroup c.gi (Group.setEntry c.k fun e => { e with wait := w })

/-! ### Regions -/

/-- R56: close the open region. -/
def Group.endRegion (g : Group) : Group :=
  { g with stores := g.stores.map fun o => { o with inRegion := false }, region := none,
           chain := g.chain.map fun ch => { ch with inRegion := false },
           log := g.log.map fun l => { l with inRegion := false } }

/-- R183: what a region captures that opens at a repeat of a word (R78), 0 but of a repeated one. -/
def Group.capture (g : Group) (pc : CodeRef) (retire : DWord) (rpt : Nat := 0) : Region :=
  { pc := pc, rpt := rpt, regs := g.regs, ctrl := g.ctrl,
    active := ((g.ctl.get g.ctl.cur).map Entry.active).getD 0, callRec := g.callRec, retire := retire }

/-- R183: a region may open: one strand, those that a trap or landing froze counted. -/
def Group.mayOpen (g : Group) : Bool := (g.ctl.indexes fun e => e.kind == .strand).length == 1 && g.ctxs.isEmpty

/-- R184: with the header's flag, a region opens at a word, with the registers as they stand. -/
def Group.autoRegion (h : Header) (pc : CodeRef) (retire : DWord) (g : Group) (rpt : Nat := 0) : Group :=
  if h.regions && g.mayOpen then { g with region := some (g.capture pc retire rpt) } else g

/-- R78, R184: what follows the word, or the repeat of it: a code reference, and the index of the next repeat. -/
def Cx.following (c : Cx) : CodeRef × Nat := if c.e.rpt + 1 < c.repeats then (c.e.first, c.e.rpt + 1) else (c.e.pc.add 4, 0)

/-- R56, R184: the word closes an open region; with the header's flag one opens at what follows it. -/
def State.closeRegion (s : State) (c : Cx) : State :=
  s.updGroup c.gi fun g => g.endRegion.autoRegion c.t.hdr c.following.1 (g.retire + 1) c.following.2

/-- R56: an open region ends, and none opens yet. -/
def State.endRegion (s : State) (c : Cx) : State := s.updGroup c.gi Group.endRegion

/-! ### Barriers -/

/-- R161: groups of a team that have neither exited nor been killed. -/
def State.presentGroups (s : State) (t : Team) : Nat :=
  (t.groups.filter fun gi => (s.groups[gi]?).any fun g => !g.gone).length

/-- R161: the barrier's next generation. -/
def State.nextGen (s : State) (t : Team) (b : Barrier) : Barrier :=
  { expected := s.presentGroups t, arrived := 0, gen := b.gen + 1, released := b.released }

/-- R161, R182: give the strands that wait on a generation of a barrier what ended it. -/
def Group.barrierEnd (n gen : Nat) (gr : Grant) (g : Group) : Group :=
  g.mapEntries fun e => if e.wait == .barrier n gen then { e with wait := .ready, grant := some gr } else e

/-- R161: mark the arrivals of a generation that was abandoned. -/
def Group.abandon (n gen : Nat) (g : Group) : Group :=
  match g.arrivals.toList[n]? with
  | some a =>
    if a.gen == some gen then { g with arrivals := g.arrivals.setIfInBounds n { a with abandoned := true } } else g
  | none => g

/-- Change the groups of a team. -/
def State.updTeamGroups (s : State) (t : Team) (f : Group → Group) : State :=
  t.groups.foldl (fun s gi => s.updGroup gi f) s

/-- R161, R182: release a barrier whose arrivals are complete, or abandon one that cannot complete. -/
def State.checkBarrier (s : State) (ti n : Nat) : State :=
  match s.teams[ti]? with
  | none => s
  | some t =>
    match t.barriers[n]? with
    | none => s
    | some b =>
      let put := fun s : State => s.updTeam ti fun t => { t with barriers := t.barriers.set n (s.nextGen t b) }
      if b.expected ≤ b.arrived && b.expected != 0 then
        let came := t.groups.filterMap fun gi =>
          match (s.groups[gi]?).bind fun g => g.arrivals.toList[n]? with
          | some a => if a.gen == some b.gen then some (gi, a.place) else none
          | none => none
        (put (s.updTeamGroups t (Group.barrierEnd n b.gen .barrier))).updTeam ti fun t =>
          { t with barriers := listModify t.barriers n fun x => { x with released := came } }
      else
        let coming := (t.groups.filter fun gi => (s.groups[gi]?).any fun g =>
          g.live && ((g.arrivals.toList[n]?).any fun a => a.gen != some b.gen)).length
        if b.arrived + coming < b.expected && b.expected != 0 then
          put ((s.updTeamGroups t (Group.abandon n b.gen)).updTeamGroups t (Group.barrierEnd n b.gen .broken))
        else s

/-- R161: test every barrier of a team. -/
def State.checkBarriers (s : State) (ti : Nat) : State := (List.range 16).foldl (fun s n => s.checkBarrier ti n) s

/-- R161: a group arrives at a barrier, once in a generation. -/
def State.arrive (s : State) (ti gi n : Nat) : State :=
  match s.teams[ti]?, s.groups[gi]? with
  | some t, some g =>
    match t.barriers[n]?, g.arrivals.toList[n]? with
    | some b, some a =>
      if a.gen == some b.gen then s
      else
        ((s.updTeam ti fun t => { t with barriers := t.barriers.set n { b with arrived := b.arrived + 1 } }).updGroup gi fun g =>
          { g with arrivals := g.arrivals.setIfInBounds n { gen := some b.gen, abandoned := false, place := s.seq } }).checkBarrier ti n
    | _, _ => s
  | _, _ => s

/-! ### Knots -/

/-- R309: give the strands that wait on a knot of a team its join, and the status they take. -/
def Group.knotEnd (n : Nat) (scope : Scope) (status : Nat) (addr : DWord) (g : Group) : Group :=
  g.mapEntries fun e =>
    match e.wait with
    | .knot m _ => if m == n then { e with wait := .ready, grant := some (.knot scope status addr) } else e
    | _ => e

/-- A strand of a group waits on knot `n`. -/
def Group.waitsKnot (n : Nat) (g : Group) : Bool :=
  g.anyEntry fun e => match e.wait with
    | .knot m _ => m == n
    | _ => false

/-- R28, R309, R370: the count of a knot has become zero. -/
def State.knotZero (s : State) (ti n : Nat) : State :=
  match s.teams[ti]? with
  | none => s
  | some t =>
    match t.knots[n]? with
    | none => s
    | some kn =>
      let waiting := t.groups.any fun gi => (s.groups[gi]?).any (Group.waitsKnot n)
      let s1 := s.updTeamGroups t (Group.knotEnd n kn.scope kn.status kn.addr)
      let s2 := if waiting then s1.updTeam ti fun t => { t with knots := t.knots.set n { kn with status := 0, addr := 0 } } else s1
      { s2 with grids := s2.grids.map fun gr =>
          if gr.foyerTeam == ti && gr.queued then
            { gr with deps := gr.deps.map fun d => if d.kind == 0 && d.knot == n then { d with met := true } else d }
          else gr }

/-- R50, R307: a knot after a decrement with a status: the first failing one since its KINIT writes the status, and one that finds the count at
zero writes UNDERFLOW where none has. The scope stays as it stood at zero, which is what a join takes (R53). -/
def Knot.step (kn : Knot) (scope : Scope) (status : Nat) (addr : DWord) (know : List (SpadBy × Nat)) : Knot :=
  let k1 := { kn with scope := if kn.count == 0 then kn.scope else kn.scope.max scope, know := know ++ kn.know }
  let k2 := if status != 0 && !k1.failed then { k1 with status := status, addr := addr, failed := true } else k1
  if kn.count != 0 then { k2 with count := k2.count - 1 }
  else if k2.status == 0 then { k2 with underflow := true, status := 13, addr := 0 }
  else { k2 with underflow := true }

/-- R28, R53, R307: one decrement reaches a knot. -/
def State.decrement (s : State) (ti n : Nat) (scope : Scope) (status : Nat) (addr : DWord) (know : List (SpadBy × Nat) := []) : State :=
  match s.teams[ti]? with
  | none => s
  | some t =>
    match t.phase with
    | .saved => s.updTeam ti fun t => { t with held := t.held ++ [{ knot := n, scope := scope, status := status, addr := addr }] }
    | .released => s
    | .resident =>
      match t.knots[n]? with
      | none => s
      | some kn =>
        let s1 := s.updTeam ti fun t => { t with knots := t.knots.set n (kn.step scope status addr know) }
        if kn.count == 1 then s1.knotZero ti n else s1

/-! ### Parking -/

/-- R395: a group parks: its frame stays, the operator is notified, and the barriers are tested. A foyer that is saved stays so (R366). -/
def State.park (s : State) (gi cls : Nat) : State :=
  match s.groups[gi]? with
  | none => s
  | some g =>
    match s.teamOf g with
    | none => s
    | some t =>
      match s.part? t.part with
      | none => s
      | some p =>
        let serial := p.own.parkSerial
        let note := natLe 1 p.id ++ natLe 1 cls ++ natLe 2 (p.relHall t.hall) ++ natLe 4 serial ++ List.replicate 8 0
        let s1 := s.updGroup gi fun g => { g with phase := .parked serial cls }
        let s2 := s1.updPart p.id fun p =>
          { p with own := { p.own with parkCount := p.own.parkCount + 1, parkFrame := g.ctrl.frame, parkSerial := serial + 1 },
                   sched := if t.foyer && t.phase == .resident then { p.sched with foyerState := 2 } else p.sched }
        let s3 := { s2 with mgmt := { s2.mgmt with parkWaiting := s2.mgmt.parkWaiting ++ [note] } }
        (s3.due .parkNotice).checkBarriers g.team

/-- R435, R436: a hold begins; its saves and its end are the event HOLD_COMPLETE. -/
def State.beginHold (s : State) (p : Nat) (cause : BitVec 2) : State :=
  match s.part? p with
  | none => s
  | some q =>
    if q.cfg.protect && (q.ctxState == 1 || q.ctxState == 2) && q.cc.holdState == 0 then
      (s.updPart p fun q => { q with cc := { q.cc with holdState := 1, holdCause := cause, before := q.ctxState } }).due (.holdComplete p)
    else s

/-! ### Traps -/

/-- R152: what a trap puts into its frame, but the state of the group. -/
structure TrapInfo where
  cause : Cause
  detail : Word
  addr : DWord
  lanes : LaneMask
  ref : CodeRef
  former : LaneMask
  word : Word
  hint1 : Word
  hint2 : Word
  rpt : Nat
  deferred : Option Nat
deriving DecidableEq, Repr

/-- R152: byte 0x01 of a frame. -/
def frameFlags (g : Group) (deferred : Bool) : Nat :=
  (if g.regs.bOk[0] then 1 else 0) + (if g.regs.bOk[1] then 2 else 0) + (if g.regs.bOk[2] then 4 else 0) +
    (if g.regs.bOk[3] then 8 else 0) + (if g.land.isEmpty then 0 else 16) + (if g.region.isSome then 32 else 0) +
    (if deferred then 64 else 0)

/-- R152: the 64 bytes of a frame. -/
def frameBytes (g : Group) (i : TrapInfo) : List Byte :=
  natLe 1 i.cause.code ++ natLe 1 (frameFlags g i.deferred.isSome) ++ natLe 1 i.rpt ++ natLe 1 g.depth ++ natLe 4 0 ++
    natLe 8 i.ref.bits.toNat ++ natLe 8 i.addr.toNat ++ natLe 4 i.lanes.toNat ++ natLe 4 i.former.toNat ++
    natLe 4 i.word.toNat ++ natLe 4 i.hint1.toNat ++ natLe 4 i.hint2.toNat ++ natLe 4 i.detail.toNat ++ natLe 16 0

/-- R152: the latches as the save slot holds them, latch j of lane l at byte (32j + l) × 8. -/
def latchBytes (r : Regs) : List Byte :=
  r.b.toList.flatMap fun b => b.toList.flatMap fun x => natLe 8 x.toNat

/-- R151: enter a handler over every lane that has not exited, freezing the table. -/
def Group.enter (landing : Bool) (base : CodeRef) (deferred : Option Nat) (g : Group) : Group :=
  { g with ctxs := { landing := landing, ctl := g.ctl, deferred := deferred } :: g.ctxs,
           ctl := Control.single base g.ctl.live, regs := g.regs.loseLatches }

/-- R151, R154, R434: take a trap. The group parks without a handler, in its trap handler, or on INTEGRITY, which holds the partition. An
INTEGRITY in the trap handler writes no frame, as every trap there (log 54). -/
def State.takeTrap (s : State) (gi : Nat) (p : Part) (i : TrapInfo) : State :=
  match s.groups[gi]? with
  | none => s
  | some g =>
    let s0 := if i.cause == .rights then s.updPart p.id fun q =>
        { q with counters := { q.counters with rightsTraps := q.counters.rightsTraps + 1 } } else s
    let hold := fun s : State => if i.cause == .integrity then s.beginHold p.id 2 else s
    if g.inTrap then hold (s0.park gi (if i.cause == .integrity then 3 else 1))
    else
      let s1 := s0.frameWrite gi p g.ctrl.frame.toNat (frameBytes g i ++ latchBytes g.regs)
      let s2 := s1.updGroup gi fun g =>
        { g with ctrl := { g.ctrl with cause := BitVec.ofNat 8 i.cause.code, rptIdx := BitVec.ofNat 6 i.rpt } }
      let s3 := s2.updGroup gi (Group.enter false g.ctrl.trapBase i.deferred)
      if i.cause == .integrity then hold (s3.park gi 3)
      else if p.handlerOk g.ctrl.trapBase then s3
      else s3.park gi 0

/-- R151: a trap of the issuing word, which resumes at its first pending hint. Behind a chain of its group, which may trap before it, the word
waits (log 40). -/
def State.trap (s : State) (c : Cx) (word : Word) (cause : Cause) (detail : Word) (addr : DWord) (lanes : LaneMask) : State :=
  if c.g.chain.isSome then s.setWait c .chain
  else (s.countIssued c.p.id).takeTrap c.gi c.p
    { cause := cause, detail := detail, addr := addr, lanes := lanes, ref := c.e.first, former := c.e.active, word := word,
      hint1 := c.e.hints.getD 0 0, hint2 := c.e.hints.getD 1 0, rpt := c.e.rpt, deferred := none }

/-! ### Landing -/

/-- The formats of R60. -/
inductive Format
  | V | U | S | SI | J | C | M | A | MC | MX | MY | E | SY | H
deriving DecidableEq, Repr

/-- R59, R98: the format a word's major has. -/
def formatOf (w : Word) : Format :=
  match (w.field 26 6).toNat with
  | 0x1D => .U | 0x1E => .U | 0x25 => .U | 0x28 => .S | 0x29 => .SI | 0x2A => .J | 0x2B => .C
  | 0x2C => .M | 0x2D => .M | 0x2E => .M | 0x2F => .M | 0x30 => .A | 0x31 => .MC | 0x32 => .MX | 0x33 => .MY
  | 0x34 => .E | 0x35 => .SY | 0x3F => .H | _ => .V

/-- R156: the fields of a word's packet: d, a, b and c as operand codes, where present. -/
structure PacketFields where
  fn : Nat
  d : Option (BitVec 8)
  a : Option (BitVec 8)
  b : Option (BitVec 8)
  c : Option (BitVec 8)
  tb : Nat
  wb : Bool
  gd : Nat
deriving DecidableEq, Repr

/-- R156: a 6-bit scalar field as an operand code. -/
def sregCode (n : BitVec 6) : BitVec 8 := BitVec.ofNat 8 (0x80 + n.toNat)

/-- R156, R361: the packet's fields. -/
def packetFields (w : Word) (h : HintSet) : PacketFields :=
  let c3 := h.src3.map fun x => x.2.2.code
  let none8 : Option (BitVec 8) := none
  let major := (w.field 26 6).toNat
  let third := major == 0x05 || major == 0x12 || major == 0x17 || major == 0x1A
  match formatOf w with
  | .V =>
    let d : BitVec 8 := (0 : BitVec 1) ++ w.field 16 7
    { fn := 0, d := some d, a := some (w.field 8 8), b := some (w.field 0 8), c := if c3.isSome then c3 else if third then some d else none8,
      tb := 0, wb := w.getLsbD 23, gd := (w.field 24 2).toNat }
  | .U => { fn := (w.field 8 8).toNat, d := some ((0 : BitVec 1) ++ w.field 16 7), a := some (w.field 0 8), b := none, c := c3,
            tb := 0, wb := w.getLsbD 23, gd := (w.field 24 2).toNat }
  | .S => { fn := (w.field 20 6).toNat, d := some (sregCode (w.field 14 6)), a := some (packetOp (w.field 7 7)),
            b := some (packetOp (w.field 0 7)), c := c3, tb := 0, wb := false, gd := 0 }
  | .SI => { fn := (w.field 24 2).toNat, d := some (sregCode (w.field 18 6)), a := none, b := none, c := c3, tb := 0, wb := false, gd := 0 }
  | .J => { fn := (w.field 23 3).toNat, d := none, a := none, b := none, c := c3, tb := 0, wb := false, gd := 0 }
  | .C => { fn := (w.field 20 6).toNat, d := none, a := none, b := none, c := c3, tb := 0, wb := false, gd := 0 }
  | .M =>
    let sld := major == 0x2C && w.field 21 3 == 7
    { fn := (w.field 21 3).toNat, d := some (if sld then sregCode (w.field 14 6) else (0 : BitVec 1) ++ w.field 14 7),
      a := some (w.field 3 8), b := none, c := c3, tb := (w.field 11 3).toNat, wb := false, gd := (w.field 24 2).toNat }
  | .A => { fn := (w.field 19 5).toNat, d := some ((0 : BitVec 1) ++ w.field 11 7), a := some (w.field 0 8), b := none, c := c3,
            tb := (w.field 8 3).toNat, wb := false, gd := (w.field 24 2).toNat }
  | .MC => { fn := (w.field 22 4).toNat, d := none, a := none, b := none, c := c3, tb := 0, wb := false, gd := 0 }
  | .MX => { fn := (w.field 22 4).toNat, d := none, a := none, b := none, c := c3, tb := 0, wb := false, gd := 0 }
  | .MY => { fn := (w.field 22 4).toNat, d := none, a := none, b := none, c := c3, tb := 0, wb := false, gd := 0 }
  | .E => { fn := (w.field 22 4).toNat, d := none, a := none, b := none, c := c3, tb := 0, wb := false, gd := 0 }
  | .SY => { fn := (w.field 20 6).toNat, d := some (sregCode (w.field 14 6)), a := some (sregCode (w.field 8 6)),
             b := some (sregCode (w.field 2 6)), c := c3, tb := 0, wb := false, gd := 0 }
  | .H => { fn := 0, d := none, a := none, b := none, c := c3, tb := 0, wb := false, gd := 0 }

/-- R156: w4. -/
def packetBits (w : Word) (h : HintSet) : DWord :=
  let f := packetFields w h
  let code := fun o : Option (BitVec 8) => (o.getD 0).toNat
  let has := fun o : Option (BitVec 8) => if o.isSome then 1 else 0
  let neg := (h.grd.map fun x => if x.1 then 1 else 0).getD 0
  let grd := (h.grd.map fun x => x.2.toNat).getD 0
  BitVec.ofNat 64 ((w.field 26 6).toNat * 2 ^ 58 + f.fn * 2 ^ 50 + code f.d * 2 ^ 42 + code f.a * 2 ^ 34 + code f.b * 2 ^ 26 +
    code f.c * 2 ^ 18 + f.tb * 2 ^ 15 + (if f.wb then 1 else 0) * 2 ^ 14 + neg * 2 ^ 13 + grd * 2 ^ 10 + f.gd * 2 ^ 8 +
    has f.d * 128 + has f.a * 64 + has f.b * 32 + has f.c * 16)

/-- R157, R188: the value captured for an operand code, with the successor's. -/
def Cx.capture (c : Cx) (o : Option (BitVec 8)) : Captured :=
  match o with
  | none => { code := 0, present := false, low := Lanes.all 0, high := Lanes.all 0, valid := true }
  | some code =>
    let x := Src.ofCode code
    let high : Nat → Word := fun l => match x with
      | .v n => if n.toNat < 127 then Lanes.at (c.g.regs.vreg (n.toNat + 1)) l else 0
      | .s n => c.g.regs.sreg (n.val + 1)
      | .latch _ => hiWord (c.src64 x l)
      | .special _ => 0
      | .const _ => hiWord (c.src64 x l)
    { code := code, present := true, low := Lanes.tabulate (c.src x), high := Lanes.tabulate high,
      valid := match x with
        | .latch n => c.g.regs.bOk[n.toFin]
        | _ => true }

/-- R155: w6, the lanes of the strand whose guard holds. SEL's gd names a selector, not a guard (R66). -/
def Cx.guardLanes (c : Cx) (w : Word) : LaneMask :=
  match formatOf w with
  | .V => if w.field 26 6 == 0x1B then c.e.active else c.e.active &&& c.guardMask (w.field 24 2)
  | .U | .M | .A => c.e.active &&& c.guardMask (w.field 24 2)
  | _ => c.e.active

/-- R155: the landing window of a word. -/
def Cx.window (c : Cx) (w : Word) : Landing :=
  let f := packetFields w c.hs
  { word := w, hint1 := c.e.hints.getD 0 0, hint2 := c.e.hints.getD 1 0, ref := c.e.pc, packet := packetBits w c.hs,
    mask := c.e.active, gmask := c.guardLanes w, d := c.capture f.d, a := c.capture f.a, b := c.capture f.b,
    c := c.capture f.c, staged := [] }

/-- R155, R158: a word of a class of R96 lands, or raises UNDEFINED or LANDING_DEPTH; behind a chain of its group it waits (log 40). -/
def State.land (s : State) (c : Cx) (w : Word) : State :=
  if !(c.t.hdr.landing && c.p.handlerOk c.g.ctrl.landBase) then s.trap c w .undefinedWord 0 0 0
  else if c.g.chain.isSome then s.setWait c .chain
  else if c.g.depth ≥ 2 then s.trap c w .landingDepth 0 0 0
  else if c.g.logUsed ≥ 4 then s.setWait c .logFull
  else
    (s.countIssued c.p.id).updGroup c.gi fun g =>
      { (Group.enter true g.ctrl.landBase none g) with
        land := c.window w :: g.land, ctrl := { g.ctrl with rptIdx := BitVec.ofNat 6 c.e.rpt } }

/-! ### The checks before a word issues -/

/-- What the checks of R97 decide; a trap with the values of every field that offends, of which the frame names one (R153). -/
inductive Check
  | go
  | land
  | trap (cause : Cause) (details : List Word)
  | wait (w : Wait)
deriving DecidableEq, Repr

/-- R77: the MOD hint's fields are accepted by the word. -/
def modOk (i : Instr) (h : HintSet) : Bool :=
  match h.modh with
  | none => true
  | some m =>
    !i.isMatctl && (m.rnd == 0 || i.takesRounding) && (!m.sat || i.takesSat) &&
      (!m.nt || (match i with | .st _ => true | _ => false)) && (!m.bf || i.takesBf) &&
      ((m.scope == 0 && !m.acq && !m.rel) || i.isAtom)

/-- R76, R351: the SRC3 hint is accepted by the word. -/
def src3Ok (i : Instr) (h : HintSet) : Bool :=
  match h.src3 with
  | none => true
  | some (neg, abs, x) =>
    match i with
    | .mma _ => !neg && !abs && x.uniform
    | _ =>
      match i.takesSrc3 with
      | none => false
      | some fl => (fl || (!neg && !abs)) && (match i with | .dmac _ => x.pairOk | _ => true)

/-- R67, R76: a GRD hint stands before the word just when its gd is 11. -/
def grdOk (i : Instr) (h : HintSet) : Bool :=
  match i.uses.gd with
  | some gd => (gd == 3) == h.grd.isSome
  | none => h.grd.isNone

/-- R78: the REP hint is accepted by the word, and every repeat is well formed. -/
def repOk (i : Instr) (h : HintSet) : Bool :=
  match h.rep with
  | none => true
  | some r => (List.range r.count).all fun j => (i.advance r j).any Instr.wf

/-- R79: the live form stands before PYIELD only. -/
def liveOk (i : Instr) (h : HintSet) : Bool := h.live.isNone || i == .pyield

/-- R24: engines of each type that a partition holds. -/
def bitsOf (w x : Nat) : List Nat := (List.range w).filter fun n => x / 2 ^ n % 2 == 1

/-- R410: the engines of a command's type that the partition holds, none for other words. -/
def engineCount (p : Part) (i : Instr) : Option Nat :=
  match i with
  | .hoist _ _ _ => some (bitsOf 32 p.cfg.hoistMask.toNat).length
  | .braid _ _ _ => some (bitsOf 16 p.cfg.braidMask.toNat).length
  | .cmpr _ _ _ => some (bitsOf 8 p.cfg.cmprMask.toNat).length
  | .dcmp _ _ _ => some (bitsOf 8 p.cfg.cmprMask.toNat).length
  | _ => none

/-- R24: the engine index a command names. -/
def engineIndex (i : Instr) : Nat :=
  match i with
  | .hoist e _ _ | .braid e _ _ | .cmpr e _ _ | .dcmp e _ _ => e.toNat
  | _ => 0

/-- R96: the word is an instruction here: well formed, its hints apply, not disabled, not landing under the
compatibility flag. -/
def Cx.classOk (c : Cx) (i : Instr) : Bool :=
  i.wf && grdOk i c.hs && src3Ok i c.hs && modOk i c.hs && repOk i c.hs && liveOk i c.hs &&
    (c.hs.imms.isEmpty || i.takesImm) && !(engineCount c.p i == some 0) && !(c.t.hdr.compat && i.compatLands)

/-- R10, R163, R191, R218, R272, R304, R348, R368, R400 to R402: the detail of the RIGHTS that refuses the
word, none where the context may execute it. -/
def Cx.refused (c : Cx) (i : Instr) : Option Word :=
  let tag := c.p.cfg.tag
  let code : Word := BitVec.ofNat 32 tag.code
  let only := fun ok : Bool => if ok then none else some code
  match i with
  | .mma _ | .zero _ _ | .drainSlot _ | .fold _ | .accrd _ _ _ | .accwr _ _ _ | .accld _ _ | .accst _ _ | .galst _ _ =>
    only (tag == .owner)
  | .stair _ _ | .stairg _ _ | .hoist _ _ _ => only (tag != .auditor)
  | .braid _ _ _ | .cmpr _ _ _ | .dcmp _ _ _ | .lquery _ _ => only (tag == .owner)
  | .launch _ _ => only (tag == .owner && c.t.foyer)
  | .preempt _ _ _ | .pcancel _ _ | .place _ _ _ | .exportCtx _ _ | .importCtx _ _ => only (tag == .operator)
  | .seal _ _ => only (tag != .operator)
  | .setc r _ =>
    match r with
    | .landBase | .trapBase | .seed | .round | .fpFlags | .trapEn => none
    | _ => some 1
  | _ => none

/-- R65: a register and the registers it spans lie below a budget. -/
def within (n span limit : Nat) : Bool := n + span ≤ limit

/-- R62: registers of a third source: a pair for DMAC. -/
def thirdSpan (i : Instr) : Nat :=
  match i with
  | .dmac _ => 2
  | _ => 1

/-- R97, R243: the fields of a word that name a register or a handle: each with its value, and whether it is beyond its bound. -/
def Cx.handles (c : Cx) (i : Instr) : List (Word × Bool) :=
  let u := i.uses
  let v := fun x : VReg × Nat => (BitVec.ofNat 32 x.1.toNat, !within x.1.toNat x.2 c.budget)
  let sr := fun x : SReg × Nat => (BitVec.ofNat 32 x.1.val, !within x.1.val x.2 c.t.hdr.sregs)
  let src := fun x : Src × Nat => match x.1 with
    | .v n => (BitVec.ofNat 32 n.toNat, !within n.toNat x.2 c.budget)
    | .s n => (BitVec.ofNat 32 (0x80 + n.val), !within n.val (if x.2 == 2 then 2 else 1) c.t.hdr.sregs)
    | _ => (0, false)
  let sop := fun x : SOp × Nat => match x.1 with
    | .s n => (BitVec.ofNat 32 n.val, !within n.val x.2 c.t.hdr.sregs)
    | _ => (0, false)
  let third := fun x : Option (Bool × Bool × Src) => match x with
    | some (_, _, y) => [src (y, thirdSpan i)]
    | none => []
  let handle := fun (o : Option Nat) (limit : Nat) => match o with
    | some n => (BitVec.ofNat 32 n, decide (limit ≤ n))
    | none => ((0 : Word), false)
  u.wr.map v ++ u.rd.map v ++ u.sregs.map sr ++ u.src.map src ++ u.sops.map sop ++ third c.hs.src3 ++
    [handle (u.knot.map BitVec.toNat) c.t.hdr.knots, handle (u.bar.map BitVec.toNat) c.t.hdr.barriers,
     handle (u.slot.map BitVec.toNat) c.t.hdr.slots, handle (u.tile.map BitVec.toNat) c.t.hdr.tiles] ++
    (match engineCount c.p i with
     | some n => [handle (some (engineIndex i)) n]
     | none => [])

/-- R78, R97: the values of the fields that name a register or handle beyond its bound, in a word's last repeat. -/
def Cx.badHandles (c : Cx) (i last : Instr) : List Word :=
  (((c.handles i).zip (c.handles last)).filter fun x => x.2.2).map fun x => x.1.1

/-- R70, R71: the source latches that are invalid. -/
def Cx.lostLatches (c : Cx) (u : Uses) : List Word :=
  let srcs := u.src.map (fun x => x.1) ++ (match c.hs.src3 with | some (_, _, y) => [y] | none => [])
  srcs.filterMap fun x => match x with
    | .latch n => if c.g.regs.bOk[n.toFin] then none else some (BitVec.ofNat 32 n.toNat)
    | _ => none

/-- The v registers that a word reads. -/
def Cx.reads (c : Cx) (i : Instr) (u : Uses) : List Nat :=
  let span := fun (n k : Nat) => (List.range k).map fun i => n + i
  let ofSrc := fun x : Src × Nat => match x.1 with
    | .v n => span n.toNat x.2
    | _ => []
  u.rd.flatMap (fun x => span x.1.toNat x.2) ++ u.src.flatMap ofSrc ++
    (match c.hs.src3 with
     | some (_, _, y) => ofSrc (y, thirdSpan i)
     | none => if u.third then u.wr.flatMap fun x => span x.1.toNat x.2 else [])

/-- The v registers that a word writes. -/
def Uses.writes (u : Uses) : List Nat := u.wr.flatMap fun x => (List.range x.2).map fun i => x.1.toNat + i

/-- The s registers that a word reads or writes. -/
def Cx.readsS (c : Cx) (i : Instr) (u : Uses) : List Nat :=
  let span := fun (n k : Nat) => (List.range k).map fun j => n + j
  let ofSrc := fun x : Src × Nat => match x.1 with
    | .s n => span n.val (if x.2 == 2 then 2 else 1)
    | _ => []
  u.sregs.flatMap (fun x => span x.1.val x.2) ++ u.src.flatMap ofSrc ++
    u.sops.flatMap (fun x => match x.1 with | .s n => span n.val x.2 | _ => []) ++
    (match c.hs.src3 with
     | some (_, _, y) => ofSrc (y, thirdSpan i)
     | none => [])

/-- R160, R266: the v and s registers that a logged load will write. -/
def logWrites (l : LogEntry) : List Nat × List Nat :=
  match l.instr with
  | .sld d _ _ _ => ([], [d.val])
  | .publish d _ _ => ([], [d.val, d.val + 1])
  | .launch d _ | .bindSlot d _ _ | .unbind d _ _ | .unbindReleaseHold d _ _ | .place d _ _ | .exportCtx d _ | .importCtx d _
  | .seal d _ => ([], [d.val])
  | i => (i.uses.writes, [])

/-- R266: the word reads or writes a destination of a faulted load of its group, or names the translation
base register of a faulted TBSET (R284), so that it waits; PFETCH too, DESIGN CHOICE (log 64). -/
def Cx.blocked (c : Cx) (i : Instr) (u : Uses) : Bool :=
  let vs := c.reads i u ++ u.writes
  let ss := c.readsS i u
  c.g.activeLog.any fun l =>
    let w := logWrites l
    w.1.any (fun n => vs.contains n) || w.2.any (fun n => ss.contains n) ||
      (match l.instr with
       | .tbset tb _ _ => (match i with
          | .ld f => f.tb == tb | .st f => f.tb == tb | .sld _ t _ _ => t == tb | .tbset t _ _ => t == tb
          | .discard t _ _ => t == tb | .pfetch t _ => t == tb | .watch t _ => t == tb
          | .mma f => (f.asrc && f.atb == tb) || (f.bsrc && f.btb == tb)
          | .atomSwap f | .atomAdd f | .atomAnd f | .atomOr f | .atomXor f | .atomMin f | .atomMax f | .atomNmin f
          | .atomNmax f | .atomCas f | .atomFadd f | .atomLoad f | .atomStore f => f.tb == tb
          | _ => false)
       | _ => false)

/-- R266: a global or private access. -/
def isAccess (i : Instr) : Bool :=
  i.isAtom || (match i with
    | .ld _ | .sld _ _ _ _ | .st _ | .ldp _ | .stp _ => true
    | .mma f => f.asrc || f.bsrc
    | _ => false)

/-- R266, R283: the other words that wait until the group's log holds no faulted access. -/
def waitsForLog : Instr → Bool
  | .commitAt _ | .beginAt _ | .fence _ | .drain _ | .discard _ _ _ | .watch _ _ | .waitw => true
  | .bar _ | .bara _ | .barw _ | .region | .pyield | .exit | .waitk _ | .yieldk _ _ | .ktie _ _ => true
  | .stair _ _ | .stairg _ _ | .hoist _ _ _ | .braid _ _ _ | .cmpr _ _ _ | .dcmp _ _ _ => true
  | .launch _ _ | .publish _ _ _ | .bindSlot _ _ _ | .place _ _ _
  | .exportCtx _ _ | .importCtx _ _ | .seal _ _ => true
  | _ => false

/-- R134, R266, R284: the word waits for the group's faulted accesses, UNBIND of a slot among them; a faulted TBSET holds accesses through its own register only. -/
def Cx.waitsLog (c : Cx) (i : Instr) : Bool :=
  let slotForm := match i with
    | .unbind _ a _ => c.g.regs.spair a.val != 0
    | .unbindReleaseHold _ a _ => c.g.regs.spair a.val != 0
    | _ => false
  ((waitsForLog i || slotForm) && !c.g.activeLog.isEmpty) ||
    (isAccess i && c.g.activeLog.any fun l => match l.instr with
      | .tbset _ _ _ => false
      | _ => true)

/-- R344: a matrix word of the group that is deferred, behind which every later matrix word waits. -/
def Cx.matrixBlocked (c : Cx) (i : Instr) : Bool :=
  (i.isMatctl || (match i with | .mma _ => true | _ => false)) &&
    c.g.activeLog.any fun l => match l.instr with
      | .mma _ => true
      | _ => false

/-- R26, R346, R354, R360: words that wait while a chain of the group runs: its other matrix words; those that order matrix words before other
groups' words or before a command that reads tiles; TRAP, and the words that end or save the group, or leave a handler. -/
def Cx.chainBlocked (c : Cx) (i : Instr) : Bool :=
  c.g.chain.isSome && (i.isMatctl || (match i with
    | .mma _ => true
    | .bar _ => true
    | .bara _ => true
    | .fence sc => sc != .g
    | .stair _ _ => true
    | .stairg _ _ => true
    | .trap _ => true
    | .exit => true
    | .pyield => true
    | .tret => true
    | .emuret => true
    | _ => false))

/-- R345: a group of a team other than one of them runs a chain on a slot: it has reached the engine before. -/
def State.slotTaken (s : State) (t : Team) (gi : Nat) (z : BitVec 2) : Bool :=
  t.groups.any fun n => n != gi && (s.groups[n]?).any fun g => g.chain.any fun ch => ch.form.slot == z

/-- R345: a matrix word waits for another group's chain on the slot that it names. -/
def State.slotBusy (s : State) (c : Cx) (i : Instr) : Bool := i.uses.slot.any (s.slotTaken c.t c.gi)

/-- R177, R459: EXIT in a trap handler that handles a deferred trap drops the kept entries and does not wait. -/
def Cx.exitDrops (c : Cx) (i : Instr) : Bool := i == .exit && c.g.ctxs.any fun x => x.deferred.isSome

/-- R165: SRDV reads the lane after every earlier write to the register by the group: it waits for data that a load of the group has still
to bring, whichever strand waits for them. -/
def Cx.lateRead (c : Cx) (i : Instr) : Bool :=
  match i with
  | .srdv _ _ n => c.g.anyEntry fun e => e.missData.any fun d => d.writes.any fun w => w.1 == n
  | _ => false

/-- R97: the checks before a word issues, in their order; then the waits of R148 and R266. An APPEND between two of its tiles has read its
latches (R242). -/
def Cx.check (c : Cx) (i : Instr) : Check :=
  if !c.classOk i then .land
  else
    match c.refused i with
    | some d => .trap .rights [d]
    | none =>
      let last := match c.hs.rep with
        | some r => (i.advance r (r.count - 1)).getD i
        | none => i
      let now := match c.hs.rep with
        | some r => (i.advance r c.e.rpt).getD i
        | none => i
      match c.badHandles i last, (if c.e.appended.isEmpty then c.lostLatches now.uses else []) with
      | d :: ds, _ => .trap .badHandle (d :: ds)
      | [], d :: ds => .trap .latchLost (d :: ds)
      | [], [] =>
        let missed := c.g.ctl.missAbove 8 c.e.parent
        if (c.reads i now.uses).any fun n => missed.any fun r => r.toNat == n then .wait .missRead
        else if c.lateRead now then .wait .lateWrite
        else if c.chainBlocked i then .wait .chain
        else if c.waitsLog i || c.blocked i now.uses || c.matrixBlocked i then .wait .fault
        else .go

/-- The word an instruction is, as a trap frame and a window hold it. -/
def wordOfInstr (i : Instr) : Word := (encode i).getD 0

/-- A word waits; the table settles, since a wait may complete a fusion (R148). -/
def State.holdWord (s : State) (c : Cx) (w : Wait) : State := (s.setWait c w).updGroup c.gi Group.settle

/-- R153: the detail of a trap that several fields raise: one of them, whichever (a free value). -/
def State.detailOf (s : State) (ds : List Word) : Word :=
  match ds with
  | [] => 0
  | [d] => d
  | d :: rest => (d :: rest).getD (Config.freePick s.free 7 % (rest.length + 1)) d

/-- R97: issue a word: its checks, then its meaning. -/
def issue (i : Instr) (s : State) (k : Cx → State) : Host.Outcome State Fault Refusal :=
  match s.cx? with
  | none => .fault .noGroup
  | some c =>
    match c.check i with
    | .go => .next (k c)
    | .land => .next (s.land c (wordOfInstr i))
    | .trap cause ds => .next (s.spend.trap c (wordOfInstr i) cause (s.detailOf ds) 0 0)
    | .wait w => .next (s.holdWord c w)

/-- R73, R403: a hint word is added to those pending, or lands as its own word. -/
def issueHint (i : Instr) (s : State) : Host.Outcome State Fault Refusal :=
  match s.cx? with
  | none => .fault .noGroup
  | some c =>
    let kinds := c.e.hints.map fun w => match decode w with
      | .ok j => j.hintKind
      | .error _ => none
    let clash := kinds.any fun k => k == i.hintKind && k != some 0
    if c.e.hints.length ≥ 2 || clash || !i.wf then .next (s.land c (wordOfInstr i))
    else
      .next ((s.updGroup c.gi (Group.setEntry c.k fun e =>
        { e with hints := e.hints ++ [wordOfInstr i], pc := e.pc.add 4 })).countIssued c.p.id)

end Sys2Proof.Machine
end

