-- ==== Sys2Proof/Machine/Flags.lean ====
section
/-! DEFINITION. What the lane meanings share: the rounding mode and random word (R200, R204), floating-point
operands (R63, R220), the sticky flags with their trap (R143, R221), and the writing of lane results (R69, R70,
R219). -/

namespace Sys2Proof.Machine

/-- R77, R200: the mode a word rounds in. -/
def Cx.mode (c : Cx) : RMode :=
  match c.hs.modh with
  | some m => RMode.ofCode (if m.rnd == 0 then c.g.ctrl.round else m.rnd)
  | none => RMode.ofCode c.g.ctrl.round

/-- R236: the mode of QPACK, RNE unless a MOD hint names another. -/
def Cx.packMode (c : Cx) : RMode :=
  match c.hs.modh with
  | some m => RMode.ofCode m.rnd
  | none => .rne

/-- R77: .sat stands on the word. -/
def Cx.sat (c : Cx) : Bool := c.hs.modh.any ModForm.sat

/-- R77: .bf stands on the word. -/
def Cx.bf (c : Cx) : Bool := c.hs.modh.any ModForm.bf

/-- R204: the random word of a lane and element. -/
def Cx.rword (c : Cx) (l e : Nat) : Nat := srbits c.g.ctrl.seed c.g.retire l e

/-- R150: the lanes of a tile. -/
def Cx.tile (c : Cx) : Nat := tileSize c.g.regs.xp

/-- R61, R63, R220: a source in a lane as the code of a format that fills it. -/
def Cx.fsrc (c : Cx) (f : Fmt) (x : Src) (l : Nat) : Nat :=
  match x with
  | .const i => f.const i
  | y => if f == .fp64 then (c.src64 y l).toNat else (c.src y l).toNat

/-- R63, R225: half `e` of a source of a packed word, as the code of a format. -/
def Cx.hsrc (c : Cx) (f : Fmt) (x : Src) (l e : Nat) : Nat :=
  match x with
  | .const i => f.const i
  | y => (c.src y l).toNat / 2 ^ (16 * e) % 2 ^ 16

/-- R66, R76, R219: the third source: the SRC3 hint's operand, else d; with the hint's negate and absolute bits. -/
def Cx.third (c : Cx) (d : VReg) : Bool × Bool × Src :=
  match c.hs.src3 with
  | some x => x
  | none => (false, false, .v d)

/-- R223: the absolute and then the negate bit of a SRC3 hint. -/
def signBits (neg abs : Bool) (x : Ext) : Ext :=
  let y := if abs then x.abs else x
  if neg then y.neg else y

/-- R201: an exact value rounded in the word's mode, its flags joined. -/
def Cx.finish (c : Cx) (f : Fmt) (l e : Nat) (p : Pre) : Rounded :=
  let r := f.round c.mode (c.rword l e) p.1
  { r with flags := r.flags ||| p.2 }

/-- R143: the flags of the lanes of a mask. -/
def orFlags (m : LaneMask) (fl : Nat → FpFlags) : FpFlags := (LaneMask.lanes m).foldl (fun a l => a ||| fl l) 0

/-- R143, R221: OR flags into FPFLAGS and go on, or raise ARITH when one of them is enabled; the faulting lanes
are those that raised an enabled flag (log 12). -/
def State.withFlags (s : State) (c : Cx) (i : Instr) (m : LaneMask) (fl : Nat → FpFlags) (k : State → State) : State :=
  let all := orFlags m fl
  if all &&& c.g.ctrl.trapEn != 0 then
    s.trap c (wordOfInstr i) .arith (BitVec.ofNat 32 all.toNat) 0
      (LaneMask.ofFn fun l => m.getLsbD l && fl l &&& c.g.ctrl.trapEn != 0)
  else k (s.updGroup c.gi fun g => { g with ctrl := { g.ctrl with fpFlags := g.ctrl.fpFlags ||| all } })

/-! ### Writing lane results -/

/-- R68, R70, R219: 32-bit results in the lanes of a mask, and the latches. -/
def Regs.laneWrite (nw : Bool) (d : VReg) (m : LaneMask) (res : Lanes Word) (r : Regs) : Regs :=
  let new := Lanes.merge m (r.vreg d.toNat) res
  let latch : Lanes DWord := new.map fun x => pairOf x 0
  (if nw then r else r.setV d.toNat new).pushLatch latch

/-- R65, R70: 64-bit results into the pair from d, and the latches. -/
def Regs.laneWrite64 (nw : Bool) (d : VReg) (m : LaneMask) (res : Lanes DWord) (r : Regs) : Regs :=
  let old : Lanes DWord := Lanes.tabulate fun l => pairOf (Lanes.at (r.vreg d.toNat) l) (Lanes.at (r.vreg (d.toNat + 1)) l)
  let new := Lanes.merge m old res
  (if nw then r else (r.setV d.toNat (new.map loWord)).setV (d.toNat + 1) (new.map hiWord)).pushLatch new

/-- R70, R219: write the lanes of a word and retire it. -/
def State.laneDone (s : State) (c : Cx) (nw : Bool) (d : VReg) (m : LaneMask) (res : Lanes Word) : State :=
  (s.setRegs c (Regs.laneWrite nw d m res)).retire c

/-- R70, R219: write the pairs of a word and retire it. -/
def State.laneDone64 (s : State) (c : Cx) (nw : Bool) (d : VReg) (m : LaneMask) (res : Lanes DWord) : State :=
  (s.setRegs c (Regs.laneWrite64 nw d m res)).retire c

/-- R219: a V word whose lanes each compute 32 bits without flags. -/
def State.vInt (s : State) (c : Cx) (f : VForm) (op : VForm → Nat → Word) : State :=
  let g := c.vForm f
  s.laneDone c g.wb g.d (c.act g.gd) (Lanes.tabulate (op g))

/-- R219: a U word whose lanes each compute 32 bits without flags. -/
def State.uInt (s : State) (c : Cx) (f : UForm) (op : UForm → Nat → Word) : State :=
  let g := c.uForm f
  s.laneDone c g.wb g.d (c.act g.gd) (Lanes.tabulate (op g))

/-- R221: results with flags, 32 bits a lane. -/
def State.fpDone (s : State) (c : Cx) (i : Instr) (nw : Bool) (d : VReg) (m : LaneMask) (op : Nat → Rounded) : State :=
  let res : Lanes Rounded := Lanes.tabulate op
  s.withFlags c i m (fun l => ((res.toList[l]?).map Rounded.flags).getD 0) fun s1 =>
    s1.laneDone c nw d m (res.map fun x => BitVec.ofNat 32 x.code)

/-- R221: results with flags, 64 bits a lane. -/
def State.fpDone64 (s : State) (c : Cx) (i : Instr) (nw : Bool) (d : VReg) (m : LaneMask) (op : Nat → Rounded) : State :=
  let res : Lanes Rounded := Lanes.tabulate op
  s.withFlags c i m (fun l => ((res.toList[l]?).map Rounded.flags).getD 0) fun s1 =>
    s1.laneDone64 c nw d m (res.map fun x => BitVec.ofNat 64 x.code)

/-- R221: a V word with flags. -/
def State.vFp (s : State) (c : Cx) (i : Instr) (f : VForm) (op : VForm → Nat → Rounded) : State :=
  let g := c.vForm f
  s.fpDone c i g.wb g.d (c.act g.gd) (op g)

/-- R226: a V word on pairs with flags. -/
def State.vFp64 (s : State) (c : Cx) (i : Instr) (f : VForm) (op : VForm → Nat → Rounded) : State :=
  let g := c.vForm f
  s.fpDone64 c i g.wb g.d (c.act g.gd) (op g)

/-- R221: a U word with flags. -/
def State.uFp (s : State) (c : Cx) (i : Instr) (f : UForm) (op : UForm → Nat → Rounded) : State :=
  let g := c.uForm f
  s.fpDone c i g.wb g.d (c.act g.gd) (op g)

/-- R226: a U word on pairs with flags. -/
def State.uFp64 (s : State) (c : Cx) (i : Instr) (f : UForm) (op : UForm → Nat → Rounded) : State :=
  let g := c.uForm f
  s.fpDone64 c i g.wb g.d (c.act g.gd) (op g)

end Sys2Proof.Machine
end

