-- ==== Sys2Proof/Machine/Spad.lean ====
section
/-! DEFINITION. The scratchpad of a team (R50): its stores in order, and what a load may return. -/

namespace Sys2Proof.Machine

/-- R50: store bytes in some granules, one record for each, at the present place. -/
def State.spadPlace (s : State) (ti : Nat) (by_ : SpadBy) (ws : List GranWrite) : State :=
  let s1 := s.updTeam ti fun t =>
    { t with
      spad := ws.foldl (fun m w => m.writeSome (16 * w.gran) w.bytes) t.spad
      spadHist := (ws.map fun w =>
        { gran := w.gran, bytes := w.bytes, prior := t.spad.readN (16 * w.gran) 16, seq := s.seq, by_ := by_ }) ++ t.spadHist }
  { s1 with seq := s1.seq + 1 }

/-- R50: a group stores bytes from an offset. -/
def State.spadWrite (s : State) (ti gi off : Nat) (bytes : List Byte) : State := s.spadPlace ti (.group gi) (spanWrites off bytes)

/-! ### What is ordered before a load -/

/-- R50: what a reader of a scratchpad knows: the writes that are ordered before its reads, those of one of them without a bound; whether it
reads whole sectors (R25), and the granules that its instruction reads. -/
structure SpadReader where
  self : Option Nat
  know : List (SpadBy × Nat)
  whole : Bool
  grans : List Nat
deriving DecidableEq, Repr

/-- R50: the granules that some bytes lie in. -/
def spadGrans (off count : Nat) : List Nat := ascending ((List.range count).map fun i => (off + i) / 16)

/-- R50: a group as a reader of its scratchpad. -/
def Group.spadReader (g : Group) (gi : Nat) (grans : List Nat) : SpadReader :=
  { self := some gi, know := g.know.map fun k => (k.by_, k.upTo), whole := false, grans := grans }

/-- R50: a write is ordered before a reader's next load: a group's own, or one that it knows of. -/
def SpadWrite.ordered (r : SpadReader) (w : SpadWrite) : Bool :=
  r.self.any (fun gi => w.by_ == .group gi) || r.know.any fun k => k.1 == w.by_ && w.seq < k.2

/-- R50: the versions of a granule from its writes, newest first. -/
def spadVersions (now : List Byte) : List SpadWrite → List (List Byte × SpadWrite)
  | [] => []
  | w :: rest => (now, w) :: spadVersions w.prior rest

/-- R50: what a load may return for a granule: the newest version down to the last ordered write's, each with its place. -/
def Team.spadChoices (t : Team) (r : SpadReader) (gran : Nat) : List (Nat × List Byte) :=
  let hist := t.spadHist.filter fun w => w.gran == gran
  let now := t.spad.readN (16 * gran) 16
  let vs := spadVersions now hist
  let newer := vs.takeWhile fun v => !v.2.ordered r
  (vs.take (newer.length + 1)).map (fun v => (v.2.seq, v.1)) ++
    (if newer.length == vs.length then [(0, (hist.getLast?.map SpadWrite.prior).getD now)] else [])

/-- R25: the places of the engine sector writes that carry both granules of a sector. -/
def Team.spadSectors (t : Team) (sec : Nat) : List Nat :=
  let at_ := fun gran => (t.spadHist.filter fun w => w.gran == gran && (match w.by_ with
    | .cmd _ => true
    | .group _ => false)).map SpadWrite.seq
  (at_ (2 * sec)).filter fun q => (at_ (2 * sec + 1)).contains q

/-- R25, R47, R50: the version of a granule that one word or command receives; `n` names the free value. An engine's sector is resolved as a
whole. -/
def Team.spadGran (t : Team) (r : SpadReader) (n gran : Nat) : List Byte :=
  match t.spadChoices r gran with
  | [v] => v.2
  | vs =>
    if r.whole || r.grans.contains (mateOf gran) then
      pickPair gran vs (sectorPairs r.whole (t.spadSectors (gran / 2)) (t.spadChoices r (gran / 2 * 2)) (t.spadChoices r (gran / 2 * 2 + 1)))
        (Config.freePick n (2 ^ 91 + gran / 2))
    else pickGran vs (Config.freePick n (2 ^ 92 + gran))

/-- R50: bytes of the scratchpad as a reader reads them. -/
def Team.spadRead (t : Team) (r : SpadReader) (n off count : Nat) : List Byte :=
  (List.range count).map fun i => (t.spadGran r n ((off + i) / 16)).getD ((off + i) % 16) 0

/-! ### What orders -/

/-- R50, R454: what a group's BAR arrival, or its FENCE.h, at a place orders before the loads of those who pass it: its own stores before the
place, and what it had learned of others' before the last of them (log 57). -/
def Team.passed (t : Team) (know : List Known) (a place : Nat) : List (SpadBy × Nat) :=
  (.group a, place) ::
    (know.filter fun k => t.spadHist.any fun w => w.by_ == .group a && k.since ≤ w.seq && w.seq < place).map fun k => (k.by_, k.upTo)

/-- R50, R454: the same, of a group of the team. -/
def State.passedBy (s : State) (ti a place : Nat) : List (SpadBy × Nat) :=
  match s.teams[ti]?, s.groups[a]? with
  | some t, some g => t.passed g.know a place
  | _, _ => [(.group a, place)]

/-- R50: at a place, a group learns of writes that are ordered before its loads from there on. -/
def Group.learn (here : Nat) (new : List (SpadBy × Nat)) (g : Group) : Group :=
  let fresh := new.filter fun x => !g.know.any fun k => k.by_ == x.1 && x.2 ≤ k.upTo
  { g with know := fresh.map (fun x => { by_ := x.1, upTo := x.2, since := here }) ++ g.know }

/-- R50, R51: what a command that has ended orders before the loads that follow a join on its knot: its writes, and, where it has read
scratchpad, what was ordered before its reads (R454). -/
def Cmd.passes (c : Cmd) (ci here : Nat) : List (SpadBy × Nat) := (.cmd ci, here) :: (if c.readSpad then c.know else [])

end Sys2Proof.Machine
end

