-- ==== Sys2Proof/Machine/Code.lean ====
section
/-! DEFINITION. Code objects: kernel headers (R122 to R126), entry words, pins and retirement (R130, R131), and the
call record (R130). -/

namespace Sys2Proof.Machine

/-- R140: the code of a tile size. -/
def xpCode (lanes : Nat) : BitVec 3 :=
  match lanes with
  | 2 => 1 | 4 => 2 | 8 => 3 | 16 => 4 | _ => 5

/-- R123, R124: the fields of a header at an offset of a code region. -/
def readHeader (code : List Byte) (off : Nat) : Header :=
  let f := fun o n => fieldAt code (off + o) n
  let flags := f 6 2
  { major := f 4 1, minor := f 5 1, compat := flags % 2 == 1, landing := flags / 2 % 2 == 1, carryTrap := flags / 4 % 2 == 1,
    replay := flags / 8 % 2 == 1, regions := flags / 16 % 2 == 1, pregs := f 8 1, cregs := f 9 1, pgroups := f 0xA 1,
    cgroups := f 0xB 1, sregs := f 0xC 1, xp := xpCode (f 0xD 1), priv := f 0xE 2, scratch := f 0x10 4, tiles := f 0x14 2,
    slots := f 0x16 1, reserve := f 0x17 1, quota := if f 0x18 2 = 0 then 2048 else f 0x18 2, knots := f 0x1A 1,
    barriers := f 0x1B 1, traps := BitVec.ofNat 5 (f 0x1C 4), energy := f 0x24 4, emuBytes := f 0x28 4, maxK := f 0x2C 4 }

/-- R123: the entry word of a header. -/
def entryOf (header : Nat) : Nat := header + 0x40

/-- R162: the header whose entry word a reference is. -/
def Part.entryHeader (p : Part) (r : CodeRef) : Option Header :=
  match p.object? r.obj with
  | some o =>
    if !o.retiring && !o.retired then
      (o.headers.find? fun h => entryOf h == r.off.toNat).map fun h => readHeader o.code h
    else none
  | none => none

/-! ### The call record -/

/-- R130: the object's count of outstanding returns rises by some; none when the record is full. -/
def callAdd (rec_ : List (Word × Nat)) (obj : Word) (n : Nat) : Option (List (Word × Nat)) :=
  match rec_.find? fun x => x.1 == obj with
  | some x => if x.2 + n ≤ 65535 then some (rec_.map fun y => if y.1 == obj then (y.1, y.2 + n) else y) else none
  | none => if rec_.length < 16 && n ≤ 65535 then some (rec_ ++ [(obj, n)]) else none

/-- R130: one return; none when the object has no entry. -/
def callDrop (rec_ : List (Word × Nat)) (obj : Word) : Option (List (Word × Nat)) :=
  if rec_.any fun x => x.1 == obj then
    some ((rec_.map fun x => if x.1 == obj then (x.1, x.2 - 1) else x).filter fun x => x.2 != 0)
  else none

/-! ### Pins -/

/-- R130: a LANDBASE or TRAPBASE value bound to an object. -/
def CodeRef.binds (r : CodeRef) (obj : Word) : Bool := r.off != 0 && r.obj == obj

/-- R130: pins of a group on an object. Lanes that wait on the serial stack for a target are no strand, and pin nothing (log 50). -/
def Group.pins (obj : Word) (g : Group) : Nat :=
  let here := fun e : Entry => e.kind == .strand && e.pc.obj == obj
  let one := fun b : Bool => if b then 1 else 0
  if g.phase == .exited then 0
  else
    one (g.anyEntry here) + one (g.callRec.any fun x => x.1 == obj) + one (g.ctrl.landBase.binds obj) +
      one (g.ctrl.trapBase.binds obj) +
      (match g.region with
       | some r => one (r.ctrl.landBase.binds obj) + one (r.ctrl.trapBase.binds obj)
       | none => 0)

/-- The groups of a partition's teams that are resident or saved. -/
def State.contextGroups (s : State) (p : Nat) : List Nat :=
  (s.groups.zipIdx.filter fun x => x.1.phase != .exited && (s.teamOf x.1).any fun t => t.part == p && t.phase != .released).map
    fun x => x.2

/-- R130: an object's pin count. -/
def State.pinCount (s : State) (p : Nat) (obj : Word) : Nat :=
  (((s.contextGroups p).filterMap fun gi => s.groups[gi]?).map (Group.pins obj)).foldl (· + ·) 0 +
    (s.grids.filter fun g => g.part == p && !g.done && g.ref.obj == obj).length

/-- R131: an object begins to retire when its hold, bind count and pins are gone. -/
def State.retireObject (s : State) (p : Nat) (o : CodeObject) : CodeObject :=
  if !o.hold && o.binds == 0 && !o.retiring && s.pinCount p o.id == 0 then
    let grace := s.contextGroups p
    if grace.isEmpty then { o with retiring := true, retired := true, code := [], grace := [] }
    else { o with retiring := true, grace := grace }
  else o

/-- R131: look again at the objects of a partition. -/
def State.unpin (s : State) (p : Nat) : State :=
  if (s.part? p).any fun q => q.objects.any fun o => !o.hold && o.binds == 0 && !o.retiring then
    s.updPart p fun q => { q with objects := q.objects.map (s.retireObject p) }
  else s

end Sys2Proof.Machine
end

