-- ==== Sys2Proof/Machine/Slots.lean ====
section
/-! DEFINITION. Slots, tiles and the carry gallery (R329 to R332, R337 to R341). -/

namespace Sys2Proof.Machine

/-! ### Slots and tiles -/

/-- R331: an UNBOUND slot. -/
def Slot.empty : Slot := { bound := none, cells := Vector.replicate 1024 0, counts := Vector.replicate 1024 0 }

/-- R330: a slot of a team. -/
def Team.slot (t : Team) (z : Nat) : Slot := t.slots.toList.getD z Slot.empty

/-- R330: tile bytes lie at 4096 × tile. -/
def tileAt (t : Nat) : Nat := 4096 * t

/-- Change a slot of a team. -/
def State.setSlot (s : State) (ti z : Nat) (x : Slot) : State :=
  s.updTeam ti fun t => { t with slots := t.slots.setIfInBounds z x }

/-- R337: the value of an integer cell. -/
def cellInt (c : BitVec 64) : Int := signedOf 22 c.toNat

/-- R337: an integer as a cell's bits. -/
def cellOfInt (x : Int) : BitVec 64 := BitVec.ofNat 64 (unsignedOf 22 x)

/-- R339: add to an element of a tile, modulo 2^32. -/
def tileAdd (m : Mem) (tile cell : Nat) (v : Int) : Mem :=
  let a := tileAt tile + 4 * cell
  m.writeN a (natLe 4 (unsignedOf 32 ((m.num a 4 : Int) + v)))

/-- R340: slots z0 to z(r − 1) have a reserve. -/
def Team.reserved_ (t : Team) (z : Nat) : Bool := z < t.hdr.reserve

/-- R338: the pool's size on a hall: 2,048 less the reserves of its resident teams. -/
def State.poolSize (s : State) (hall : Nat) : Nat :=
  2048 - 1024 * ((s.teams.filter fun t => t.phase == .resident && t.hall == hall).map fun t => t.hdr.reserve).foldl (· + ·) 0

/-- R338: the pool entries in use on a hall. -/
def State.pool (s : State) (hall : Nat) : List PoolEntry := ((s.halls[hall]?).map Hall.pool).getD []

/-- Drop pool entries. -/
def State.dropPool (s : State) (hall : Nat) (p : PoolEntry → Bool) : State :=
  s.updHall hall fun h => { h with pool := h.pool.filter fun e => !p e }

/-- R339: fold the entry of a cell. -/
def State.foldEntry (s : State) (ti z cell : Nat) : State :=
  match s.teams[ti]? with
  | none => s
  | some t =>
    let x := t.slot z
    match x.bound with
    | none => s
    | some (tile, _) =>
      let n : Int := x.counts.toList.getD cell 0
      ((s.updTeam ti fun t => { t with tiles := tileAdd t.tiles tile cell (n * 2 ^ 22) }).setSlot ti z
        { x with counts := x.counts.setIfInBounds cell 0 }).dropPool t.hall fun e => e.team == ti && e.slot.val == z && e.cell == cell

/-- R339: fold every entry of a slot. -/
def State.foldSlot (s : State) (ti z : Nat) : State :=
  match s.teams[ti]? with
  | none => s
  | some t => ((List.range 1024).filter fun c => (t.slot z).counts.toList.getD c 0 != 0).foldl (fun s c => s.foldEntry ti z c) s

/-- R340, R341: fold the oldest pool entry of a hall. -/
def State.foldOldest (s : State) (hall : Nat) : State :=
  match s.pool hall with
  | [] => s
  | e :: _ => s.foldEntry e.team e.slot.val e.cell

/-- R340: fold pool entries, oldest first, until they fit the pool. -/
def State.fitPool (s : State) (hall : Nat) : State :=
  (List.range ((s.pool hall).length - s.poolSize hall)).foldl (fun s _ => s.foldOldest hall) s

/-- R338, R341: a carry of a cell finds its entry; under STALL the fold unit makes room. -/
def State.takeCarry (s : State) (ti z cell : Nat) (v : Int) : State :=
  match s.teams[ti]? with
  | none => s
  | some t =>
    let x := t.slot z
    let n : Int := x.counts.toList.getD cell 0
    let put := fun (s : State) (k : Int) => match s.teams[ti]? with
      | some t => s.setSlot ti z { t.slot z with counts := (t.slot z).counts.setIfInBounds cell k }
      | none => s
    let mine := fun e : PoolEntry => e.team == ti && e.slot.val == z && e.cell == cell
    if n != 0 then
      if n + v == 0 then (put s 0).dropPool t.hall mine
      else if (n + v).natAbs > 127 then
        match x.bound with
        | some (tile, _) => put (s.updTeam ti fun t => { t with tiles := tileAdd t.tiles tile cell (n * 2 ^ 22) }) v
        | none => s
      else put s (n + v)
    else if t.reserved_ z then put s v
    else if s.poolSize t.hall = 0 then
      match x.bound with
      | some (tile, _) => s.updTeam ti fun t => { t with tiles := tileAdd t.tiles tile cell (v * 2 ^ 22) }
      | none => s
    else
      let s1 := if s.poolSize t.hall ≤ (s.pool t.hall).length then s.foldOldest t.hall else s
      (put s1 v).updHall t.hall fun h => { h with pool := h.pool ++ [{ team := ti, slot := Fin.ofNat 4 z, cell := cell }] }

/-- R341: under TRAP, the carries of a beat do not all find an entry. -/
def State.carriesFull (s : State) (t : Team) (z : Nat) (cells : List Nat) : Bool :=
  let new := (cells.filter fun c => (t.slot z).counts.toList.getD c 0 == 0).length
  !t.reserved_ z && s.poolSize t.hall < (s.pool t.hall).length + new

end Sys2Proof.Machine
end

