-- ==== Sys2Proof/Machine/Quiesce.lean ====
section
/-! DEFINITION. Saving a group (R57, R184, R185, R381, R384), and the quiescent save of a group whose strands all wait. -/

namespace Sys2Proof.Machine

/-! ### The save frame -/

/-- `n` rounded up to a multiple of `k`. -/
def roundUp (k n : Nat) : Nat := (n + k - 1) / k * k

/-- R18: groups of a team. -/
def Header.groupCount (h : Header) : Nat := h.pgroups + h.cgroups

/-- R18: the vector budget of the group of an id. -/
def Header.vregsOf (h : Header) (id : Nat) : Nat := if id < h.pgroups then h.pregs else h.cregs

/-- R384: bytes of a group record. -/
def Header.recordBytes (h : Header) (id : Nat) : Nat := roundUp 1024 (8192 + 128 * h.vregsOf id)

/-- R384: where the record of a group stands in a save frame. -/
def Header.recordAt (h : Header) (id : Nat) : Nat := ((List.range id).map h.recordBytes).foldl (· + ·) 0

/-- R384: where the scratchpad stands, after the team block. -/
def Header.spadAt (h : Header) : Nat := h.recordAt h.groupCount + 8192

/-- R384: where the tiles stand. -/
def Header.tilesAt (h : Header) : Nat := h.spadAt + roundUp 1024 h.scratch

/-- R384: where the slot cells stand. -/
def Header.cellsAt (h : Header) : Nat := h.tilesAt + 4096 * h.tiles

/-- R384: where the gallery counts stand. -/
def Header.galleryAt (h : Header) : Nat := h.cellsAt + 8192 * h.slots

/-- R384: bytes of a save frame. -/
def Header.frameLen (h : Header) : Nat := roundUp 4096 (h.galleryAt + 1024 * h.reserve)

/-- R384: the save slot of a group: the start of its record. -/
def Team.slotAddr (t : Team) (id : Nat) : Nat := t.saveFrame + t.hdr.recordAt id

/-- R79: vector register `n` lies in a block that a LIVE hint names, or there is none. -/
def liveReg (live : Option (BitVec 16)) (n : Nat) : Bool :=
  match live with
  | some m => m.getLsbD (n / 8)
  | none => true

/-- R384: a vector register as its bytes in a record. -/
def vregBytes (x : Lanes Word) : List Byte := x.toList.flatMap fun v => natLe 4 v.toNat

/-- R152: the save slot's bytes. -/
def saveSlotBytes : Nat := 1088

/-- R384: bytes of a layout that is not architectural, as a save writes them: free values, named by one (log 34). -/
def keptBytes (n count : Nat) : List Byte := (List.range count).map fun i => BitVec.ofNat 8 (Config.freePick n (2 ^ 84 + i))

/-- R185, R384: write a group's record: the saved vector registers, and before them what is not architectural. -/
def State.writeRecord (s : State) (gi : Nat) (g : Group) (t : Team) (p : Part) (live : Option (BitVec 16)) : State :=
  let s := (s.updGroup gi fun g => { g with kept := s.dice }).frameWrite gi p (t.slotAddr g.id + saveSlotBytes)
    (keptBytes s.dice (8192 - saveSlotBytes))
  ((List.range (t.hdr.vregsOf g.id)).filter (liveReg live)).foldl (fun s n =>
    s.frameWrite gi p (t.slotAddr g.id + 8192 + 128 * n) (vregBytes (g.regs.vreg n))) s

/-! ### Words in flight -/

/-- Registers written in the lanes of a mask. -/
def Regs.writeLanes (m : LaneMask) (r : Regs) (ws : List (VReg × Lanes Word)) : Regs :=
  ws.foldl (fun r w => r.setV w.1.toNat (Lanes.merge m (r.vreg w.1.toNat) w.2)) r

/-- R148: the data of a missing strand arrive. -/
def Group.arriveData (k : Fin 8) (g : Group) : Group :=
  match (g.ctl.get k).bind Entry.missData with
  | some d =>
    Group.wake (fun w => w == .lateWrite)
      { g with ctl := g.ctl.put k ((g.ctl.get k).map fun e => { e with wait := .ready, missData := none }),
               regs := Regs.writeLanes d.mask g.regs d.writes }
  | none => g

/-- R148: the strands that wait for data. -/
def Control.missing (c : Control) : List (Fin 8) := c.indexes fun e => e.wait == .data

/-- R148: the data of a strand that a trap or landing froze arrive. -/
def Group.arriveFrozen (g : Group) : Group :=
  match g.ctxs.findIdx? fun x => !x.ctl.missing.isEmpty with
  | none => g
  | some n =>
    match g.ctxs[n]? with
    | none => g
    | some x =>
      match x.ctl.missing with
      | [] => g
      | k :: _ =>
        match (x.ctl.get k).bind Entry.missData with
        | some d =>
          let back := fun x : Ctx =>
            { x with ctl := x.ctl.put k ((x.ctl.get k).map fun e => { e with wait := .ready, missData := none }) }
          Group.wake (fun w => w == .lateWrite) { g with ctxs := listModify g.ctxs n back, regs := Regs.writeLanes d.mask g.regs d.writes }
        | none => g

/-- R381: before a save, every load's data arrive. -/
def Group.arriveAll (g : Group) : Group :=
  let g1 := (g.ctl.missing.foldl (fun g k => g.arriveData k) g)
  ((List.range 64).foldl (fun g _ => g.arriveFrozen) g1).settle

/-- R342, R346: a save falls between the steps of a chain: the word resumes at its next step. A deferred MMA resumes from
its entry. -/
def Group.stopChain (g : Group) : Group :=
  match g.chain with
  | none => g
  | some ch =>
    let next := ch.steps.headD 0
    match ch.strand, ch.log with
    | some k, _ => { Group.setEntry k (fun e => { e with wait := .ready, rpt := next, drawn := some ch.retire }) g with chain := none }
    | none, some id =>
      { g with chain := none, log := g.log.map fun l => if l.id == id then { l with rpt := next } else l }
    | none, none => g

/-- Waits at a word that has not issued: the strand looks again after a save. -/
def Wait.again : Wait → Bool
  | .walk => true | .engineQueue => true | .logFull => true | .fault => true | .lateWrite => true | _ => false

/-! ### Saving -/

/-- R57, R183: the group after a discard: the captured registers, one strand at the region's start, no entry or store made
since. -/
def Group.restart (r : Region) (g : Group) : Group :=
  let live := g.ctl.live
  { g with
    regs := { r.regs with b := g.regs.b, bOk := Vector.replicate 4 false },
    ctrl := { g.ctrl with landBase := r.ctrl.landBase, trapBase := r.ctrl.trapBase, seed := r.ctrl.seed, round := r.ctrl.round,
                          fpFlags := r.ctrl.fpFlags, trapEn := r.ctrl.trapEn },
    ctl := { entries := (Vector.replicate 8 none).set 0 (some { Entry.strandAt r.pc live (r.active &&& live) none with rpt := r.rpt }), cur := 0, serial := [] },
    callRec := r.callRec, retire := r.retire, region := none, chain := none,
    stores := g.stores.filter fun o => !o.inRegion,
    log := (g.log.filter fun l => !l.inRegion).map fun l => { l with inRegion := false } }

/-- R54, R381: the group's .nt stores are performed before it is saved. -/
def State.performAllNt (s : State) (gi : Nat) : State :=
  match s.groups[gi]? with
  | none => s
  | some g => (storeGrans g.stores OwnStore.unperformed).foldl (fun s gran => s.performNt gi gran) s

/-- R344: the lines that the tile fetch unit has pinned for a group are released. -/
def State.unpinLines (s : State) (hall gi : Nat) : State := s.updHall hall fun h => { h with pins := h.pins.filter fun x => x.2 != gi }

/-- R384: a group record is written, R251: private lines too; then the group counts as saved. It may be restored on another hall (R390). -/
def State.putSaved (s : State) (gi : Nat) (k : SaveKind) (live : Option (BitVec 16)) : State :=
  match s.groups[gi]? with
  | none => s
  | some g =>
    match s.teamOf g with
    | none => s
    | some t =>
      match s.part? t.part with
      | none => s
      | some p =>
        let s1 := ((s.dropPriv gi true).unpinLines t.hall gi).writeRecord gi g t p live
        let keep := match k with
          | .cooperative _ => false
          | .discard => false
          | _ => true
        s1.updGroup gi fun g =>
          { (g.mapTb TbReg.noFrame).mapEntries (fun e => { e with wait := if e.wait.again then .ready else e.wait, overdue := none }) with
            saved := some k, late := false, left := (t.hall, g.beginH) :: g.left.filter fun x => x.1 != t.hall,
            ctrl := { g.ctrl with preq := false, rptIdx := BitVec.ofNat 6 (((g.ctl.get g.ctl.cur).map Entry.rpt).getD 0) },
            regs := { (if keep then (g.mapTb TbReg.noFrame).regs else (g.mapTb TbReg.noFrame).regs.loseLatches) with
                      v := Vector.ofFn fun n => if liveReg live n.val then g.regs.v[n] else Vector.replicate 32 0 } }

/-- R381: every group of a team has been saved or has exited, and one was saved. -/
def State.allSaved (s : State) (t : Team) : Bool :=
  (t.groups.all fun gi => (s.groups[gi]?).any fun g => g.gone || g.saved.isSome) &&
    t.groups.any fun gi => (s.groups[gi]?).any fun g => !g.gone

/-- R381: the team's save is complete once its last group has been saved. -/
def State.noteSaved (s : State) (ti : Nat) : State :=
  match s.teams[ti]? with
  | some t => if t.phase == .resident && s.allSaved t then s.due (.teamSaveComplete ti) else s
  | none => s

/-- R203, R403: a restart reloads the group's retire count, which the partition's counter is a sum of. -/
def State.unretire (s : State) (gi : Nat) (r : Region) : State :=
  match s.groups[gi]? with
  | none => s
  | some g =>
    match s.teamOf g with
    | none => s
    | some t => s.updPart t.part fun p => { p with counters := { p.counters with retired := p.counters.retired - (g.retire - r.retire) } }

/-- R381: save a group: COMMIT.p, which closes an open region, or, for a discard, the restart of the region. -/
def State.saveGroup (s : State) (gi : Nat) (k : SaveKind) (live : Option (BitVec 16)) : State :=
  match s.groups[gi]? with
  | none => s
  | some g =>
    let s1 := (s.updGroup gi fun g => g.arriveAll.stopChain).performAllNt gi
    let s2 := match k, g.region with
      | .discard, some r => (s1.unretire gi r).updGroup gi (Group.restart r)
      | _, _ => s1.updGroup gi Group.endRegion
    ((s2.commitGroup gi .p).putSaved gi k live).noteSaved g.team

/-- R395: an access of the group is still outstanding, so that its save waits. -/
def Group.outstanding (g : Group) : Bool := !g.ctl.missing.isEmpty || g.ctxs.any fun x => !x.ctl.missing.isEmpty

/-- R381: a request stands, and every strand waits on a knot or a barrier, or the group is parked; one that parked because its save was held
up waits for its data. -/
def Group.quiet (g : Group) : Bool :=
  let waits := fun e : Entry => match e.wait with
    | .knot _ _ => true
    | .barrier _ _ => true
    | _ => false
  match g.phase with
  | .parked _ cls => g.chain.isNone && !(cls == 2 && g.outstanding)
  | .exited => false
  | .running =>
    let ks := g.ctl.indexes fun e => e.kind == .strand
    !ks.isEmpty && (ks.all fun k => (g.ctl.get k).any waits) && g.chain.isNone

/-- R381: the quiescent save, at once, of a group whose save is requested. -/
def State.quiesce (s : State) (gi : Nat) : State :=
  match s.groups[gi]? with
  | some g => if g.ctrl.preq && g.saved.isNone && g.quiet then s.saveGroup gi .quiescent none else s
  | none => s

end Sys2Proof.Machine
end

