-- ==== Sys2Proof/Machine/Record.lean ====
section
/-! DEFINITION. The replay log (R448 to R450): what a recording writes, and what a rerun compares and returns. The layout of
the payloads is the model's (log 19). -/

namespace Sys2Proof.Machine

/-! ### The log -/

/-- R448: bytes in the ring that software has not consumed. -/
def PartReplay.used (r : PartReplay) : Nat := (r.logHead - r.logTail).toNat

/-- R301, R448: bytes at a virtual address of a partition, committed at y; a piece that does not translate is lost (log 10). -/
def State.ringWrite (s : State) (p : Part) (va : Nat) (bytes : List Byte) : State :=
  s.commit { party := .outside, scope := .y, atHome := true, atomic := true, sector := false, discard := false, own := some p.id } (s.frameWrites p va bytes)

/-- R448: the bytes of an entry: its header, the payload, and zeros to its units. -/
def logBytes (typ units : Nat) (seq : Word) (payload : List Byte) : List Byte :=
  (natLe 1 typ ++ natLe 1 units ++ natLe 2 0 ++ natLe 4 seq.toNat ++ payload ++ List.replicate (32 * units) 0).take (32 * units)

/-- R448: a chunk of 32 bytes at a place of the ring, which may wrap. -/
def PartReplay.place (r : PartReplay) (n : Nat) : Nat := r.logBase.toNat + (r.logHead.toNat + 32 * n) % r.logSize.toNat

/-- R448: write an entry of a type, or stop the recording when the ring would overrun. -/
def State.record (s : State) (pid typ units : Nat) (payload : List Byte) : State :=
  match s.part? pid with
  | none => s
  | some p =>
    let r := p.replay
    if r.ctl != 1 then s
    else if r.logSize.toNat < r.used + 32 * units then
      s.updPart pid fun q => { q with replay := { q.replay with ctl := 0, status := 2 } }
    else
      let bytes := logBytes typ units r.seq payload
      ((List.range units).foldl (fun s n => s.ringWrite p (r.place n) ((bytes.drop (32 * n)).take 32)) s).updPart pid fun q =>
        { q with replay := { q.replay with seq := q.replay.seq + 1, logHead := q.replay.logHead + BitVec.ofNat 32 (32 * units) } }

/-- An entry of a log: its type, sequence number and payload. -/
structure LogItem where
  typ : Nat
  seq : Nat
  payload : List Byte
deriving DecidableEq, Repr

/-- R448: the entries of a log's bytes. -/
def parseLog : Nat → List Byte → List LogItem
  | 0, _ => []
  | fuel + 1, bs =>
    let units := fieldAt bs 1 1
    let typ := fieldAt bs 0 1
    if typ == 0 || 4 < typ || units == 0 || bs.length < 32 * units then []
    else { typ := typ, seq := fieldAt bs 4 4, payload := (bs.take (32 * units)).drop 8 } :: parseLog fuel (bs.drop (32 * units))

/-- The reader of a log, and of the ranges of the range table: at y. -/
def State.ownerReader (s : State) : Reader := { party := .outside, beginH := s.seq, beginP := s.seq, beginY := s.seq, sysHome := false }

/-- R449: the entries of the log at REPLAY_LOGBASE. -/
def State.logItems (s : State) (p : Part) : List LogItem :=
  match s.readVa p s.ownerReader [] s.free p.replay.logBase.toNat p.replay.logSize.toNat with
  | some bs => parseLog bs.length bs
  | none => []

/-- The sequence number after a log's last. -/
def logEnd (xs : List LogItem) : Nat := xs.foldl (fun n x => max n (x.seq + 1)) 0

/-- R449: the rerun differs from the log at an entry: enforcement stops. -/
def State.diverge_ (s : State) (pid seq : Nat) : State :=
  (s.updPart pid fun q => { q with replay := { q.replay with ctl := 0, status := 3, divSeq := BitVec.ofNat 32 seq } }).wakePart pid
    fun w => w == .walk

/-! ### Groups of recorded grids -/

/-- R448, R449: the number of a team's grid, when the partition records it, or reruns it: its LAUNCH was recorded, or compared, in the mode that
is on. -/
def State.recorded (s : State) (p : Part) (t : Team) : Option Nat :=
  if p.replay.ctl == 0 then none
  else
    match (t.grid).bind fun n => s.grids[n]? with
    | some g => if g.record == p.replay.ctl then some g.recNo else none
    | none => none

/-- R448: the fields that name a group of a recorded grid, with a lane or a kind. -/
def logWho (recNo : Nat) (t : Team) (g : Group) (x : Nat) : List Byte :=
  natLe 4 recNo ++ natLe 4 t.teamId ++ natLe 1 g.id ++ natLe 1 x

/-! ### Values -/

/-- R448: the payload of a VALUE entry, but the value. -/
def valueKey (recNo : Nat) (t : Team) (g : Group) (kind : Nat) : List Byte := logWho recNo t g kind ++ natLe 4 (loWord g.retire).toNat

/-- R448, R449: a value that a word of a group reads: logged by a recording, and the logged one in a rerun. -/
def State.valueRead (s : State) (p : Part) (t : Team) (g : Group) (kind : Nat) (v : DWord) : State × DWord :=
  match s.recorded p t with
  | none => (s, v)
  | some n =>
    let key := valueKey n t g kind
    if p.replay.ctl == 1 then (s.record p.id 4 1 (key ++ natLe 8 v.toNat), v)
    else
      let items := s.logItems p
      match items.find? fun x => x.typ == 4 && x.payload.take 14 == key with
      | some x => (s, BitVec.ofNat 64 (fieldAt x.payload 14 8))
      | none => (s.diverge_ p.id (logEnd items), v)

/-! ### Atomics -/

/-- R448: an atomic of one lane: the home kind and address, and the number that names its location. -/
structure AtomPlace where
  lane : Nat
  home : Nat
  addr : Nat
  loc : Nat
deriving DecidableEq, Repr

/-- R448: the location of a global address. -/
def globalPlace (y : Bool) (lane va : Nat) : AtomPlace := { lane := lane, home := if y then 1 else 0, addr := va, loc := va }

/-- R448: the location of a scratchpad offset of a team. -/
def spadPlace_ (recNo : Nat) (t : Team) (lane off : Nat) : AtomPlace :=
  { lane := lane, home := 2, addr := off, loc := 2 ^ 64 + (recNo * 2 ^ 32 + t.teamId) * 2 ^ 32 + off }

/-- R448: atomics performed at a location. -/
def PartReplay.count (r : PartReplay) (loc : Nat) : Nat := ((r.orders.find? fun x => x.1 == loc).map fun x => x.2).getD 0

/-- R448: one more atomic at a location. -/
def PartReplay.bump (r : PartReplay) (loc : Nat) : PartReplay :=
  { r with orders := (loc, r.count loc + 1) :: r.orders.filter fun x => x.1 != loc }

/-- R448: the payload of an ATOMIC entry. -/
def atomBytes (recNo : Nat) (t : Team) (g : Group) (x : AtomPlace) (order : Nat) : List Byte :=
  natLe 1 x.home ++ natLe 8 x.addr ++ logWho recNo t g x.lane ++ natLe 4 order

/-- R449: whether an atomic may be performed now. -/
inductive Turn
  | go
  | wait
  | diverge (seq : Nat)
deriving DecidableEq, Repr

/-- R448: an ATOMIC entry is of a place: its home kind and address, and in scratchpad its team. -/
def AtomPlace.isOf (x : AtomPlace) (recNo : Nat) (t : Team) (y : LogItem) : Bool :=
  y.typ == 3 && fieldAt y.payload 0 1 == x.home && fieldAt y.payload 1 8 == x.addr &&
    (x.home != 2 || (y.payload.drop 9).take 8 == natLe 4 recNo ++ natLe 4 t.teamId)

/-- R449: the turn of one atomic, with the atomics counted so far: the log's next entry of its location names it. -/
def atomTurn (items : List LogItem) (recNo : Nat) (t : Team) (g : Group) (r : PartReplay) (x : AtomPlace) : Turn :=
  match items.find? fun y => x.isOf recNo t y && fieldAt y.payload 19 4 == r.count x.loc with
  | none => .diverge (logEnd items)
  | some y => if (y.payload.drop 9).take 10 == logWho recNo t g x.lane then .go else .wait

/-- R449: the turn of an atomic of a group. -/
def State.turn (s : State) (p : Part) (t : Team) (g : Group) (x : AtomPlace) : Turn :=
  match s.recorded p t with
  | none => .go
  | some n => if p.replay.ctl == 2 then atomTurn (s.logItems p) n t g p.replay x else .go

/-- R449: those of a word's atomics that may be performed now, in the order of the log. -/
def takeTurns (items : List LogItem) (recNo : Nat) (t : Team) (g : Group) : Nat → PartReplay → List AtomPlace → List AtomPlace
  | 0, _, _ => []
  | fuel + 1, r, xs =>
    match xs.find? fun x => atomTurn items recNo t g r x == .go with
    | some x => x :: takeTurns items recNo t g fuel (r.bump x.loc) (xs.erase x)
    | none => []

/-- R449: what a word's atomics may do: those that are performed now, in their order, those that wait for others, and the entry at which the
rerun differs from the log. -/
structure Turns where
  now : List AtomPlace
  left : List AtomPlace
  differs : Option Nat
deriving DecidableEq, Repr

/-- R449: the turns of a word's atomics: outside a rerun all of them, in their order. -/
def State.turns (s : State) (p : Part) (t : Team) (g : Group) (xs : List AtomPlace) : Turns :=
  match s.recorded p t with
  | none => { now := xs, left := [], differs := none }
  | some n =>
    if p.replay.ctl == 2 then
      let items := s.logItems p
      let now := takeTurns items n t g xs.length p.replay xs
      let left := xs.filter fun x => !now.contains x
      match left.findSome? fun x => match atomTurn items n t g (now.foldl (fun r x => r.bump x.loc) p.replay) x with
        | .diverge q => some q
        | _ => none with
      | some q => { now := now ++ left, left := [], differs := some q }
      | none => { now := now, left := left, differs := none }
    else { now := xs, left := [], differs := none }

/-- R448: one lane's atomic has been performed. -/
def State.noteAtom (s : State) (pid recNo : Nat) (t : Team) (g : Group) (x : AtomPlace) : State :=
  let n := ((s.part? pid).map fun p => p.replay.count x.loc).getD 0
  (s.record pid 3 1 (atomBytes recNo t g x n)).updPart pid fun q => { q with replay := q.replay.bump x.loc }

/-- R448: a word's atomics have been performed. -/
def State.noteAtoms (s : State) (p : Part) (t : Team) (g : Group) (xs : List AtomPlace) : State :=
  match s.recorded p t with
  | none => s
  | some n =>
    let s1 := xs.foldl (fun s x => s.noteAtom p.id n t g x) s
    if p.replay.ctl == 2 then s1.wakePart p.id fun w => w == .walk else s1

/-! ### Launches -/

/-- R448: the ranges of the range table. -/
def State.ranges (s : State) (p : Part) : List (Nat × Nat) :=
  (List.range p.replay.rangeCount.toNat).map fun i =>
    let bs := (s.readVa p s.ownerReader [] s.free (p.replay.rangeBase.toNat + 16 * i) 16).getD []
    (fieldAt bs 0 8, fieldAt bs 8 8)

/-- R448: the digest over a range. -/
def State.rangeDigest (s : State) (p : Part) (x : Nat × Nat) : List Byte :=
  natLe 64 (sha512 ((s.readVa p s.ownerReader [] s.free x.1 x.2).getD [])).toNat

/-- R448: the payloads of the INPUT entries. -/
def State.inputs (s : State) (p : Part) : List (List Byte) :=
  (s.ranges p).zipIdx.map fun x => natLe 4 x.2 ++ s.rangeDigest p x.1

/-- R449: the first of some payloads that differs from the log's entries of their type: the sequence number. -/
def firstDiff (typ : Nat) : List LogItem → List (List Byte) → Nat → Option Nat
  | _, [], _ => none
  | [], _ :: _, e => some e
  | x :: xs, y :: ys, e =>
    if x.typ != typ then firstDiff typ xs (y :: ys) e
    else if x.payload.take y.length == y then firstDiff typ xs ys e
    else some x.seq

/-- R449: the log from its `n`-th LAUNCH on. -/
def fromLaunch : Nat → List LogItem → List LogItem
  | _, [] => []
  | n, x :: xs => if x.typ == 1 then (match n with | 0 => x :: xs | k + 1 => fromLaunch k xs) else fromLaunch n xs

/-- R448, R449: a recorded LAUNCH returns OK. -/
def State.noteLaunch (s : State) (pid : Nat) (rec_ : List Byte) (digest : BitVec 512) : State :=
  match s.part? pid with
  | none => s
  | some p =>
    let body := rec_ ++ natLe 64 digest.toNat
    let ins := s.inputs p
    let next := fun s : State => s.updPart pid fun q => { q with replay := { q.replay with launched := q.replay.launched + 1 } }
    if p.replay.ctl == 1 then next (ins.foldl (fun s x => s.record pid 2 3 x) (s.record pid 1 5 body))
    else if p.replay.ctl == 2 then
      let items := s.logItems p
      match fromLaunch p.replay.launched items with
      | [] => s.diverge_ pid (logEnd items)
      | x :: xs =>
        if x.payload.take 128 != body then s.diverge_ pid x.seq
        else
          match firstDiff 2 xs ins (logEnd items) with
          | some e => s.diverge_ pid e
          | none => next s
    else s

end Sys2Proof.Machine
end

