-- ==== Sys2Proof/Machine/LaneInt.lean ====
section
/-! DEFINITION. The lane integer words (R222), SEL and VCMP (R227, R228), BFX and BFI (R229), and the integer
members of VUN (R230). -/

namespace Sys2Proof.Machine

/-- R82: an integer condition. -/
def icond (c : ICond) (a b : Word) : Bool :=
  match c with
  | .eq => a == b
  | .ne => a != b
  | .lt => a.toInt < b.toInt
  | .le => a.toInt ≤ b.toInt
  | .gt => b.toInt < a.toInt
  | .ge => b.toInt ≤ a.toInt
  | .ltn => a.toNat < b.toNat
  | .len => a.toNat ≤ b.toNat
  | .gtn => b.toNat < a.toNat
  | .gen => b.toNat ≤ a.toNat

/-- R222: the value wrapped, or saturated to i32 under .sat. -/
def Cx.narrow (c : Cx) (x : Int) : Word := wordOf (if c.sat then satI32 x else x)

/-- R222: the shift count. -/
def shiftCount (b : Word) : Nat := b.toNat % 256

/-- R222: SHL. -/
def shlWord (a b : Word) : Word := a <<< shiftCount b

/-- R222: SHR. -/
def shrWord (a b : Word) : Word := a >>> shiftCount b

/-- R222: SAR. -/
def sarWord (a b : Word) : Word := a.sshiftRight (shiftCount b)

/-- R222: the high word of the signed product. -/
def mulHigh (a b : Word) : Word := BitVec.ofInt 32 (a.toInt * b.toInt / 2 ^ 32)

/-- R222: the smaller, signed. -/
def iminWord (a b : Word) : Word := if b.toInt < a.toInt then b else a

/-- R222: the larger, signed. -/
def imaxWord (a b : Word) : Word := if a.toInt < b.toInt then b else a

/-- R222: the smaller, unsigned. -/
def nminWord (a b : Word) : Word := if b.toNat < a.toNat then b else a

/-- R222: the larger, unsigned. -/
def nmaxWord (a b : Word) : Word := if a.toNat < b.toNat then b else a

/-- R222: a V word of two integer sources. -/
def State.vBin (s : State) (c : Cx) (f : VForm) (op : Word → Word → Word) : State :=
  s.vInt c f fun g l => op (c.src g.a l) (c.src g.b l)

/-- R222: IADD. -/
def execIadd (f : VForm) (s : State) : Host.Outcome State Fault Refusal :=
  issue (.iadd f) s fun c => s.vBin c f fun a b => c.narrow (a.toInt + b.toInt)

/-- R222: ISUB. -/
def execIsub (f : VForm) (s : State) : Host.Outcome State Fault Refusal :=
  issue (.isub f) s fun c => s.vBin c f fun a b => c.narrow (a.toInt - b.toInt)

/-- R222: IMUL. -/
def execImul (f : VForm) (s : State) : Host.Outcome State Fault Refusal :=
  issue (.imul f) s fun c => s.vBin c f fun a b => c.narrow (a.toInt * b.toInt)

/-- R222: IMULH. -/
def execImulh (f : VForm) (s : State) : Host.Outcome State Fault Refusal :=
  issue (.imulh f) s fun c => s.vBin c f mulHigh

/-- R222: IMAC. -/
def execImac (f : VForm) (s : State) : Host.Outcome State Fault Refusal :=
  issue (.imac f) s fun c => s.vInt c f fun g l =>
    c.narrow ((c.src g.a l).toInt * (c.src g.b l).toInt + (c.src (c.third g.d).2.2 l).toInt)

/-- R222: AND. -/
def execAnd (f : VForm) (s : State) : Host.Outcome State Fault Refusal :=
  issue (.and f) s fun c => s.vBin c f fun a b => a &&& b

/-- R222: OR. -/
def execOr (f : VForm) (s : State) : Host.Outcome State Fault Refusal :=
  issue (.or f) s fun c => s.vBin c f fun a b => a ||| b

/-- R222: XOR. -/
def execXor (f : VForm) (s : State) : Host.Outcome State Fault Refusal :=
  issue (.xor f) s fun c => s.vBin c f fun a b => a ^^^ b

/-- R222: SHL. -/
def execShl (f : VForm) (s : State) : Host.Outcome State Fault Refusal := issue (.shl f) s fun c => s.vBin c f shlWord

/-- R222: SHR. -/
def execShr (f : VForm) (s : State) : Host.Outcome State Fault Refusal := issue (.shr f) s fun c => s.vBin c f shrWord

/-- R222: SAR. -/
def execSar (f : VForm) (s : State) : Host.Outcome State Fault Refusal := issue (.sar f) s fun c => s.vBin c f sarWord

/-- R222: IMIN. -/
def execImin (f : VForm) (s : State) : Host.Outcome State Fault Refusal := issue (.imin f) s fun c => s.vBin c f iminWord

/-- R222: IMAX. -/
def execImax (f : VForm) (s : State) : Host.Outcome State Fault Refusal := issue (.imax f) s fun c => s.vBin c f imaxWord

/-- R222: NMIN. -/
def execNmin (f : VForm) (s : State) : Host.Outcome State Fault Refusal := issue (.nmin f) s fun c => s.vBin c f nminWord

/-- R222: NMAX. -/
def execNmax (f : VForm) (s : State) : Host.Outcome State Fault Refusal := issue (.nmax f) s fun c => s.vBin c f nmaxWord

/-- R227: SEL writes every active lane; gd names the selector. -/
def execSel (f : VForm) (s : State) : Host.Outcome State Fault Refusal :=
  issue (.sel f) s fun c =>
    let g := c.vForm f
    let sel : BitVec 2 := g.gd
    let guard : LaneMask := match sel.toNat with
      | 0 => c.g.regs.guard 0
      | 1 => c.g.regs.guard 1
      | 2 => c.g.regs.guard 2
      | _ => c.guardMask 3
    s.laneDone c g.wb g.d c.e.active (Lanes.tabulate fun l => if guard.getLsbD l then c.src g.a l else c.src g.b l)

/-- R82, R228: a condition of VCMP in a lane. -/
def Cx.holds (c : Cx) (f : VCmpForm) (l : Nat) : Bool :=
  let fa := c.fsrc .fp32 f.a l
  let fb := c.fsrc .fp32 f.b l
  match f.c with
  | .int k => icond k (c.src f.a l) (c.src f.b l)
  | .feq => Fmt.fp32.eqv fa fb
  | .fne => !(Fmt.fp32.eqv fa fb)
  | .flt => Fmt.fp32.less fa fb
  | .fle => Fmt.fp32.less fa fb || Fmt.fp32.eqv fa fb
  | .fun_ => Fmt.fp32.unordered fa fb

/-- R228: VCMP. -/
def execVcmp (f : VCmpForm) (s : State) : Host.Outcome State Fault Refusal :=
  issue (.vcmp f) s fun c =>
    let g := c.cmpForm f
    let m := c.act g.gd
    let hold := LaneMask.ofFn (c.holds g)
    (s.setRegs c fun r => r.setG g.k (hold &&& m ||| r.guard g.k &&& ~~~m)).retire c

/-- R229: the length of the described field. -/
def fieldLen (b : Word) : Nat := min (b.toNat / 256 % 64) (32 - b.toNat % 32)

/-- R229: BFX in a lane. -/
def bfxWord (a b : Word) : Word :=
  let len := fieldLen b
  let raw := a.toNat / 2 ^ (b.toNat % 32) % 2 ^ len
  if len = 0 then 0 else if b.getLsbD 15 then wordOf (signedOf len raw) else BitVec.ofNat 32 raw

/-- R229: BFI in a lane. -/
def bfiWord (d a b : Word) : Word :=
  let mask : Word := BitVec.ofNat 32 ((2 ^ fieldLen b - 1) * 2 ^ (b.toNat % 32))
  a <<< (b.toNat % 32) &&& mask ||| d &&& ~~~mask

/-- R229: BFX. -/
def execBfx (f : VForm) (s : State) : Host.Outcome State Fault Refusal := issue (.bfx f) s fun c => s.vBin c f bfxWord

/-- R229: BFI; d is also a source. -/
def execBfi (f : VForm) (s : State) : Host.Outcome State Fault Refusal :=
  issue (.bfi f) s fun c => s.vInt c f fun g l => bfiWord (c.src (.v g.d) l) (c.src g.a l) (c.src g.b l)

/-! ### VUN, integer members -/

/-- R230: the number of 1 bits. -/
def popcWord (a : Word) : Word := BitVec.ofNat 32 (LaneMask.card a)

/-- R230: leading zero bits. -/
def clzWord (a : Word) : Word := BitVec.ofNat 32 (if a = 0 then 32 else 31 - Nat.log2 a.toNat)

/-- R230: trailing zero bits. -/
def ctzWord (a : Word) : Word := BitVec.ofNat 32 ((LaneMask.lowest a).getD 32)

/-- R230: the bits reversed. -/
def brevWord (a : Word) : Word := LaneMask.ofFn fun i => a.getLsbD (31 - i)

/-- R230: the bytes reversed. -/
def bswapWord (a : Word) : Word := BitVec.ofNat 32 (leNat (natLe 4 a.toNat).reverse)

/-- R230: a U word of one integer source. -/
def State.uUn (s : State) (c : Cx) (f : UForm) (op : Word → Word) : State := s.uInt c f fun g l => op (c.src g.a l)

/-- R230: MOV. -/
def execMov (f : UForm) (s : State) : Host.Outcome State Fault Refusal := issue (.mov f) s fun c => s.uUn c f fun a => a

/-- R230: NOT. -/
def execNot (f : UForm) (s : State) : Host.Outcome State Fault Refusal := issue (.not f) s fun c => s.uUn c f fun a => ~~~a

/-- R230: INEG. -/
def execIneg (f : UForm) (s : State) : Host.Outcome State Fault Refusal := issue (.ineg f) s fun c => s.uUn c f fun a => -a

/-- R230: IABS. -/
def execIabs (f : UForm) (s : State) : Host.Outcome State Fault Refusal :=
  issue (.iabs f) s fun c => s.uUn c f fun a => if a.toInt < 0 then -a else a

/-- R230: POPC. -/
def execPopc (f : UForm) (s : State) : Host.Outcome State Fault Refusal := issue (.popc f) s fun c => s.uUn c f popcWord

/-- R230: CLZ. -/
def execClz (f : UForm) (s : State) : Host.Outcome State Fault Refusal := issue (.clz f) s fun c => s.uUn c f clzWord

/-- R230: CTZ. -/
def execCtz (f : UForm) (s : State) : Host.Outcome State Fault Refusal := issue (.ctz f) s fun c => s.uUn c f ctzWord

/-- R230: BREV. -/
def execBrev (f : UForm) (s : State) : Host.Outcome State Fault Refusal := issue (.brev f) s fun c => s.uUn c f brevWord

/-- R230: BSWAP. -/
def execBswap (f : UForm) (s : State) : Host.Outcome State Fault Refusal := issue (.bswap f) s fun c => s.uUn c f bswapWord

/-- R230: MOV64. -/
def execMov64 (f : UForm) (s : State) : Host.Outcome State Fault Refusal :=
  issue (.mov64 f) s fun c =>
    let g := c.uForm f
    s.laneDone64 c g.wb g.d (c.act g.gd) (Lanes.tabulate (c.src64 g.a))

end Sys2Proof.Machine
end

