-- ==== Sys2Proof/Machine/Scalar.lean ====
section
/-! DEFINITION. The scalar words: the ALU family (R164), SRDV (R165), the immediates (R166), GETXM, SETXM and SETXP
(R175, R176). -/

namespace Sys2Proof.Machine

/-- R164: write a scalar register and retire. -/
def State.sDone (s : State) (c : Cx) (d : SReg) (x : Word) : State := (s.setRegs c fun r => r.setS d.val x).retire c

/-- R164: an S word of two 32-bit operands. -/
def State.sBin (s : State) (c : Cx) (f : SForm) (op : Word → Word → Word) : State := s.sDone c f.d (op (c.sop f.a) (c.sop f.b))

/-- R164: an S word of two 64-bit operands. -/
def State.sBin64 (s : State) (c : Cx) (f : SForm) (op : DWord → DWord → DWord) : State :=
  (s.setRegs c fun r => r.setPair f.d.val (op (c.sop64 f.a) (c.sop64 f.b))).retire c

/-- R164: SADD. -/
def execSadd (f : SForm) (s : State) : Host.Outcome State Fault Refusal := issue (.sadd f) s fun c => s.sBin c f fun a b => a + b

/-- R164: SSUB. -/
def execSsub (f : SForm) (s : State) : Host.Outcome State Fault Refusal := issue (.ssub f) s fun c => s.sBin c f fun a b => a - b

/-- R164: SMUL. -/
def execSmul (f : SForm) (s : State) : Host.Outcome State Fault Refusal := issue (.smul f) s fun c => s.sBin c f fun a b => a * b

/-- R164: SMULH. -/
def execSmulh (f : SForm) (s : State) : Host.Outcome State Fault Refusal := issue (.smulh f) s fun c => s.sBin c f mulHigh

/-- R164: SAND. -/
def execSand (f : SForm) (s : State) : Host.Outcome State Fault Refusal := issue (.sand f) s fun c => s.sBin c f fun a b => a &&& b

/-- R164: SOR. -/
def execSor (f : SForm) (s : State) : Host.Outcome State Fault Refusal := issue (.sor f) s fun c => s.sBin c f fun a b => a ||| b

/-- R164: SXOR. -/
def execSxor (f : SForm) (s : State) : Host.Outcome State Fault Refusal := issue (.sxor f) s fun c => s.sBin c f fun a b => a ^^^ b

/-- R164: SSHL. -/
def execSshl (f : SForm) (s : State) : Host.Outcome State Fault Refusal := issue (.sshl f) s fun c => s.sBin c f shlWord

/-- R164: SSHR. -/
def execSshr (f : SForm) (s : State) : Host.Outcome State Fault Refusal := issue (.sshr f) s fun c => s.sBin c f shrWord

/-- R164: SSAR. -/
def execSsar (f : SForm) (s : State) : Host.Outcome State Fault Refusal := issue (.ssar f) s fun c => s.sBin c f sarWord

/-- R164: SMIN. -/
def execSmin (f : SForm) (s : State) : Host.Outcome State Fault Refusal := issue (.smin f) s fun c => s.sBin c f iminWord

/-- R164: SMAX. -/
def execSmax (f : SForm) (s : State) : Host.Outcome State Fault Refusal := issue (.smax f) s fun c => s.sBin c f imaxWord

/-- R164: SNMIN. -/
def execSnmin (f : SForm) (s : State) : Host.Outcome State Fault Refusal := issue (.snmin f) s fun c => s.sBin c f nminWord

/-- R164: SNMAX. -/
def execSnmax (f : SForm) (s : State) : Host.Outcome State Fault Refusal := issue (.snmax f) s fun c => s.sBin c f nmaxWord

/-- R164, R165: SADD64. -/
def execSadd64 (f : SForm) (s : State) : Host.Outcome State Fault Refusal :=
  issue (.sadd64 f) s fun c => s.sBin64 c f fun a b => a + b

/-- R164, R165: SSUB64. -/
def execSsub64 (f : SForm) (s : State) : Host.Outcome State Fault Refusal :=
  issue (.ssub64 f) s fun c => s.sBin64 c f fun a b => a - b

/-- R164: SCMP. -/
def execScmp (k : ICond) (f : SForm) (s : State) : Host.Outcome State Fault Refusal :=
  issue (.scmp k f) s fun c => s.sBin c f fun a b => if icond k a b then 1 else 0

/-- R164, R165: SRDV reads its lane whatever the lane's state. -/
def execSrdv (d : SReg) (a : SOp) (b : VReg) (s : State) : Host.Outcome State Fault Refusal :=
  issue (.srdv d a b) s fun c => s.sDone c d (Lanes.at (c.g.regs.vreg b.toNat) ((c.sop a).toNat % 32))

/-- R166: SLI. -/
def execSli (d : SReg) (imm : BitVec 18) (s : State) : Host.Outcome State Fault Refusal :=
  issue (.sli d imm) s fun c => s.sDone c d (wordOf (c.hs.imm 18 imm.toNat))

/-- R166: SLUI. -/
def execSlui (d : SReg) (imm : BitVec 18) (s : State) : Host.Outcome State Fault Refusal :=
  issue (.slui d imm) s fun c => s.sDone c d (imm ++ (c.g.regs.sreg d.val).extractLsb' 0 14)

/-- R166: SADDI. -/
def execSaddi (d : SReg) (imm : BitVec 18) (s : State) : Host.Outcome State Fault Refusal :=
  issue (.saddi d imm) s fun c => s.sDone c d (c.g.regs.sreg d.val + wordOf (c.hs.imm 18 imm.toNat))

/-- R175: GETXM. -/
def execGetxm (d : SReg) (s : State) : Host.Outcome State Fault Refusal := issue (.getxm d) s fun c => s.sDone c d c.e.active

/-- R175: SETXM. -/
def execSetxm (x : SOp) (s : State) : Host.Outcome State Fault Refusal :=
  issue (.setxm x) s fun c =>
    (s.updGroup c.gi (Group.setEntry c.k fun e => { e with active := c.sop x &&& e.owned })).retire c

/-- R176: SETXP. -/
def execSetxp (n : BitVec 3) (s : State) : Host.Outcome State Fault Refusal :=
  issue (.setxp n) s fun c => (s.setRegs c fun r => { r with xp := n }).retire c

end Sys2Proof.Machine
end

