-- ==== Sys2Proof/Machine/Control.lean ====
section
/-! DEFINITION. Transfers of control (R167 to R174), ending, yielding and waiting (R177 to R182), and REGION
(R183). -/

namespace Sys2Proof.Machine

/-! ### Transfers -/

/-- R167: the word after the present one. -/
def Cx.next (c : Cx) : CodeRef := c.e.pc.add 4

/-- R167, R75: a target from an offset field of `k` bits. -/
def Cx.target (c : Cx) (k field : Nat) : CodeRef := c.next.add (4 * c.hs.imm k field)

/-- R167: raise ACCESS for a target outside the code region, or go on. -/
def State.checked (s : State) (c : Cx) (i : Instr) (dst : CodeRef) (k : State) : State :=
  if c.p.inRegion dst then k else s.trap c (wordOfInstr i) .access 0 dst.bits 0

/-- R167, R168: the strand transfers whole, or not. -/
def State.branch (s : State) (c : Cx) (i : Instr) (off : BitVec 17) (go : Bool) : State :=
  let dst := c.target 17 off.toNat
  if go then s.checked c i dst (s.retireTo c dst) else s.retire c

/-- R170: the lanes of a guard, negated or not. -/
def Cx.guardSet (c : Cx) (neg : Bool) (g : BitVec 3) : LaneMask := if neg then ~~~(c.g.regs.guard g) else c.g.regs.guard g

/-- R168: JMP. -/
def execJmp (off : BitVec 17) (s : State) : Host.Outcome State Fault Refusal :=
  issue (.jmp off) s fun c => s.branch c (.jmp off) off true

/-- R168: JSZ. -/
def execJsz (r : SReg) (off : BitVec 17) (s : State) : Host.Outcome State Fault Refusal :=
  issue (.jsz r off) s fun c => s.branch c (.jsz r off) off (c.g.regs.sreg r.val == 0)

/-- R168: JSNZ. -/
def execJsnz (r : SReg) (off : BitVec 17) (s : State) : Host.Outcome State Fault Refusal :=
  issue (.jsnz r off) s fun c => s.branch c (.jsnz r off) off (c.g.regs.sreg r.val != 0)

/-- R168: JANY. -/
def execJany (neg : Bool) (g : BitVec 3) (off : BitVec 17) (s : State) : Host.Outcome State Fault Refusal :=
  issue (.jany neg g off) s fun c => s.branch c (.jany neg g off) off (c.guardSet neg g &&& c.e.active != 0)

/-- R168: JALL; with no active lane it transfers. -/
def execJall (neg : Bool) (g : BitVec 3) (off : BitVec 17) (s : State) : Host.Outcome State Fault Refusal :=
  issue (.jall neg g off) s fun c => s.branch c (.jall neg g off) off (c.guardSet neg g &&& c.e.active == c.e.active)

/-- R71, R203: the word retires after it has rewritten the strand table by a taken transfer. -/
def Group.retireSplit (ctl : Control) (g : Group) : Group :=
  { g with ctl := ctl, retire := g.retire + 1, regs := g.regs.loseLatches }.settle

/-- R71, R203: the word retires by splitting or serialising its strand. -/
def State.retireSplit (s : State) (c : Cx) (ctl : Control) : State :=
  ((s.updGroup c.gi (Group.retireSplit ctl)).countRetired c.p.id).yieldAfter c

/-- R147: entries on the group's serial stack, those of the tables that a trap or landing froze counted. -/
def Group.stackUse (g : Group) : Nat := (g.ctxs.map fun x => x.ctl.stackUse).foldl (· + ·) g.ctl.stackUse

/-- R146: two free entries, counting those that a trap or landing froze. -/
def Group.freeTwo (g : Group) : Option (Fin 8 × Fin 8) :=
  if g.freeEntries < 2 then none
  else
    match g.ctl.freeIndexes with
    | a :: b :: _ => some (a, b)
    | _ => none

/-- R146, R147, R170: a divergent branch. -/
def State.diverge (s : State) (c : Cx) (i : Instr) (taken : LaneMask) (dst splice : CodeRef) : State :=
  if taken == 0 then s.retire c
  else
    s.checked c i dst <|
      if taken == c.e.active then s.retireTo c dst
      else
        match c.g.freeTwo with
        | some (p, t) => s.retireSplit c (c.g.ctl.split c.k p t c.e taken dst c.next splice)
        | none =>
          if c.g.stackUse ≥ 16 then s.trap c (wordOfInstr i) .illegalConvergence 1 0 0
          else
            s.retireSplit c (c.g.ctl.serialize c.k c.e taken dst splice
              [(c.next, c.e.owned &&& ~~~taken, c.e.active &&& ~~~taken)])

/-- R170: JG. -/
def execJg (neg : Bool) (g : BitVec 3) (off : BitVec 17) (s : State) : Host.Outcome State Fault Refusal :=
  issue (.jg neg g off) s fun c =>
    let dst := c.target 17 off.toNat
    s.diverge c (.jg neg g off) (c.guardSet neg g &&& c.e.active) dst dst

/-- R170, R171: JGX uses the pending splice and clears it (log 13). -/
def execJgx (neg : Bool) (g : BitVec 3) (off : BitVec 17) (s : State) : Host.Outcome State Fault Refusal :=
  issue (.jgx neg g off) s fun c =>
    let dst := c.target 17 off.toNat
    let taken := c.guardSet neg g &&& c.e.active
    if taken == 0 then (s.updGroup c.gi (Group.setEntry c.k fun e => { e with pend := none })).retire c
    else s.diverge c (.jgx neg g off) taken dst (c.e.pend.getD dst)

/-- R171: SPLICE. -/
def execSplice (off : BitVec 20) (s : State) : Host.Outcome State Fault Refusal :=
  issue (.splice off) s fun c =>
    let at_ := c.target 20 off.toNat
    s.checked c (.splice off) at_ ((s.updGroup c.gi (Group.setEntry c.k fun e => { e with pend := some at_ })).retire c)

/-- R172: the return pair of a call word. -/
def Cx.returnPair (c : Cx) : DWord := c.next.bits

/-- R172: CALL. -/
def execCall (r : SReg) (off : BitVec 17) (s : State) : Host.Outcome State Fault Refusal :=
  issue (.call r off) s fun c =>
    let dst := c.target 17 off.toNat
    s.checked c (.call r off) dst <|
      match callAdd c.g.callRec c.e.pc.obj 1 with
      | none => s.trap c (wordOfInstr (.call r off)) .callBudget 2 0 0
      | some rec_ =>
        ((s.updGroup c.gi fun g => { g with callRec := rec_ }).setRegs c fun x => x.setPair r.val c.returnPair).retireTo c dst

/-- R173: the code reference that a lane of the pair holds. -/
def Cx.laneRef (c : Cx) (v : VReg) (l : Nat) : CodeRef := CodeRef.ofBits (c.src64 (.v v) l)

/-- R162: the distinct targets of some lanes, each with its lanes, by the lowest lane that calls each. -/
def Cx.callTargets (c : Cx) (v : VReg) (lanes : List Nat) : List (CodeRef × LaneMask) :=
  lanes.foldl (fun acc l =>
    let r := c.laneRef v l
    if acc.any fun x => x.1 == r then
      acc.map fun x => if x.1 == r then (x.1, x.2 ||| BitVec.twoPow 32 l) else x
    else acc ++ [(r, BitVec.twoPow 32 l)]) []

/-- R162, R169: split a calling strand into one strand a target; its inactive lanes wait at the splice. -/
def Control.splitCalls (ctl : Control) (k p : Fin 8) (free : List (Fin 8)) (e : Entry) (splice : CodeRef)
    (targets : List (CodeRef × LaneMask)) : Control :=
  let sp : Entry := { Entry.strandAt splice e.owned (e.owned &&& ~~~e.active) e.parent with kind := .splice }
  (((k :: free).zip targets).foldl (fun c x => c.put x.1 (some (Entry.strandAt x.2.1 x.2.2 x.2.2 (some p))))
    ((ctl.retarget k p).put p (some sp)))

/-- R162, R169: the targets run serially, the inactive lanes with the first. -/
def State.callSerial (s : State) (c : Cx) (t : CodeRef × LaneMask) (rest : List (CodeRef × LaneMask)) : State :=
  let f : Serial := { strand := c.k, parent := c.e.parent, splice := c.next, todo := rest.map fun x => (x.1, x.2, x.2),
                      doneOwned := 0, doneActive := 0 }
  let first := Entry.strandAt t.1 (t.2 ||| (c.e.owned &&& ~~~c.e.active)) t.2 c.e.parent
  let ctl := c.g.ctl.put c.k (some first)
  s.retireSplit c { ctl with serial := f :: ctl.serial }

/-- R162: the free entries that a call of `n` targets takes, the splice first; none when there are too few. -/
def Group.freeFor (g : Group) (n : Nat) : Option (Fin 8 × List (Fin 8)) :=
  match g.ctl.freeIndexes with
  | p :: free => if n ≤ g.freeEntries && n ≤ free.length + 1 then some (p, free) else none
  | [] => none

/-- R162, R173: the transfer of CALLI to its targets. -/
def State.callTo (s : State) (c : Cx) (targets : List (CodeRef × LaneMask)) : State :=
  match targets with
  | [] => s.retire c
  | [t] => s.retireTo c t.1
  | t :: rest =>
    match c.g.freeFor (rest.length + 1) with
    | some (p, free) => s.retireSplit c (c.g.ctl.splitCalls c.k p free c.e c.next targets)
    | none => s.callSerial c t rest

/-- R162: the fault of CALLI, of its lanes and targets: cause, detail, address, lanes. -/
def Cx.callFault (c : Cx) (v : VReg) (lanes : List Nat) (targets : List (CodeRef × LaneMask)) : Option (Cause × Word × DWord × LaneMask) :=
  let bad := lanes.filter fun l => (c.p.entryHeader (c.laneRef v l)).isNone
  match bad with
  | l :: _ => some (.access, 0, (c.laneRef v l).bits, LaneMask.ofFn fun l => bad.contains l)
  | [] =>
    let regs := fun h : Header => if c.producer then h.pregs else h.cregs
    if targets.any fun t => (c.p.entryHeader t.1).any fun h => c.budget < regs h || c.t.hdr.sregs < h.sregs then
      some (.callBudget, 1, 0, 0)
    else if (callAdd c.g.callRec c.e.pc.obj targets.length).isNone then some (.callBudget, 2, 0, 0)
    else if targets.length ≥ 2 && (c.g.freeFor targets.length).isNone && c.g.stackUse + (targets.length - 1) > 16 then
      some (.illegalConvergence, 1, 0, 0)
    else none

/-- R162, R173: CALLI. -/
def execCalli (v : VReg) (r : SReg) (s : State) : Host.Outcome State Fault Refusal :=
  issue (.calli v r) s fun c =>
    let lanes := LaneMask.lanes c.e.active
    let targets := c.callTargets v lanes
    if lanes.isEmpty then s.retire c
    else
      match c.callFault v lanes targets with
      | some (cause, d, a, m) => s.trap c (wordOfInstr (.calli v r)) cause d a m
      | none =>
        ((s.updGroup c.gi fun g => { g with callRec := (callAdd g.callRec c.e.pc.obj targets.length).getD g.callRec }).setRegs c
          fun x => x.setPair r.val c.returnPair).callTo c targets

/-- R130, R174: RET. -/
def execRet (r : SReg) (s : State) : Host.Outcome State Fault Refusal :=
  issue (.ret r) s fun c =>
    let dst := CodeRef.ofBits (c.g.regs.spair r.val)
    match callDrop c.g.callRec dst.obj with
    | some rec_ =>
      if c.p.refOk dst then (((s.updGroup c.gi fun g => { g with callRec := rec_ }).retireTo c dst).unpin c.p.id)
      else s.trap c (wordOfInstr (.ret r)) .access 0 dst.bits 0
    | none => s.trap c (wordOfInstr (.ret r)) .access 0 dst.bits 0

/-! ### Ending and yielding -/

/-- R149: lanes leave a group's table and those that a trap or landing froze. -/
def Group.exitLanes (m : LaneMask) (g : Group) : Group :=
  { g with ctl := g.ctl.exitLanes m, ctxs := g.ctxs.map fun x => { x with ctl := x.ctl.exitLanes m } }

/-- R149, R177: the strand's lanes exit; a word whose strand is gone retires without a next word. -/
def Group.exitStrand (k : Fin 8) (m : LaneMask) (g : Group) : Group :=
  { (g.setEntry k (Entry.done 1)).exitLanes m with retire := g.retire + 1 }.settle

/-- R177, R459: EXIT in the handler of a deferred trap ends the group, so that every kept entry is dropped. -/
def Cx.exitDropsLog (c : Cx) : Bool := c.exitDrops .exit && c.g.ctl.live &&& ~~~c.e.owned == 0

/-- R177: EXIT. Once the last lane has exited, the event GROUP_EXIT_COMPLETE ends the group. -/
def execExit (s : State) : Host.Outcome State Fault Refusal :=
  issue .exit s fun c =>
    let s1 := s.updGroup c.gi fun g => { g.endRegion with log := if c.exitDropsLog then [] else g.endRegion.log }
    let s2 := ((s1.updGroup c.gi (Group.exitStrand c.k c.e.owned)).countRetired c.p.id).yieldAfter c
    if (s2.groups[c.gi]?).any fun g => g.ctl.live == 0 then s2.due (.groupExitComplete c.gi) else s2.quiesce c.gi

/-- R178: YIELD. -/
def execYield (s : State) : Host.Outcome State Fault Refusal :=
  issue .yield s fun c => (s.updGroup c.gi fun g => { g with age := s.youngest, regs := g.regs.loseLatches }).retire c

/-! ### Knots -/

/-- R381: the word waits on a knot or a barrier; a group whose save is requested and that only waits is saved at once. -/
def State.waitQuiet (s : State) (c : Cx) (w : Wait) : State := (s.holdWord c w).quiesce c.gi

/-- R28, R53, R309: what an observation of a knot finds: the join's scope, status and address, or that it waits. -/
def State.knotSeen (_ : State) (c : Cx) (n : Nat) : Option (Scope × Nat × DWord) :=
  match c.e.grant with
  | some (.knot sc st a) => some (sc, st, a)
  | _ =>
    match c.t.knots[n]? with
    | some kn => if kn.count == 0 then some (kn.scope, kn.status, kn.addr) else none
    | none => none

/-- R309: a completed wait takes the knot's status, unless it took one when the count reached zero. -/
def State.takeStatus (s : State) (c : Cx) (n : Nat) : State :=
  match c.e.grant with
  | some (.knot _ _ _) => s
  | _ => s.updTeam c.g.team fun t => { t with knots := listModify t.knots n fun kn => { kn with status := 0, addr := 0 } }

/-- R50, R53, R454: the join on a knot. -/
def State.joinKnot (s : State) (c : Cx) (n : Nat) (sc : Scope) : State :=
  let s1 := s.beginGroup c.gi sc
  let new := (((s.teams[c.g.team]?).bind fun t => t.knots[n]?).map Knot.know).getD []
  s1.updGroup c.gi fun g => (Group.learn s1.seq new g).setEntry c.k fun e => { e with grant := none }

/-- R28, R179, R309: WAITK and YIELDK: wait, or join, and then raise ENGINE or go on. The trap stands behind a chain of the group (log 40), and
so does then the join. -/
def State.observeKnot (s : State) (c : Cx) (i : Instr) (n : Nat) (cont : Option CodeRef) (k : State → State) : State :=
  match s.knotSeen c n with
  | none => s.waitQuiet c (.knot n cont)
  | some (sc, st, a) =>
    let s1 := (s.takeStatus c n).joinKnot c n sc
    if st != 0 && c.g.chain.isSome then s.setWait c .chain
    else if st != 0 then s1.trap { c with e := { c.e with grant := none } } (wordOfInstr i) .engine (BitVec.ofNat 32 st) a 0
    else k s1

/-- R179: WAITK. -/
def execWaitk (n : BitVec 8) (s : State) : Host.Outcome State Fault Refusal :=
  issue (.waitk n) s fun c => s.observeKnot c (.waitk n) n.toNat none fun s1 => s1.retire c

/-- R179: YIELDK; its continuation is always checked. -/
def execYieldk (n : BitVec 8) (off : BitVec 12) (s : State) : Host.Outcome State Fault Refusal :=
  issue (.yieldk n off) s fun c =>
    let dst := c.target 12 off.toNat
    s.checked c (.yieldk n off) dst (s.observeKnot c (.yieldk n off) n.toNat (some dst) fun s1 => s1.retireTo c dst)

/-- R180: KINIT. -/
def execKinit (n : BitVec 8) (x : SOp) (s : State) : Host.Outcome State Fault Refusal :=
  issue (.kinit n x) s fun c =>
    let s1 := s.updTeam c.g.team fun t =>
      { t with knots := listModify t.knots n.toNat fun kn =>
          { kn with count := c.sop x, underflow := false, scope := .h, status := 0, addr := 0, failed := false } }
    (if c.sop x == 0 then s1.knotZero c.g.team n.toNat else s1).retire c

/-- R323, R448: KQUERY; a recording logs the count, and a rerun returns the logged one. -/
def execKquery (n : BitVec 8) (d : SReg) (s : State) : Host.Outcome State Fault Refusal :=
  issue (.kquery n d) s fun c =>
    let r := s.valueRead c.p c.t c.g 1 (pairOf (((c.t.knots[n.toNat]?).map Knot.count).getD 0) 0)
    r.1.sDone c d (loWord r.2)

/-! ### Barriers -/

/-- R161: the group's record of its last arrival. -/
def Cx.arrival (c : Cx) (n : Nat) : Option Arrival := c.g.arrivals.toList[n]?

/-- R161: BARRIER_UNREACHABLE clears the group's record of the arrival. Behind a chain of the group it waits, as every trap (log 40). -/
def State.unreachable (s : State) (c : Cx) (i : Instr) (n : Nat) : State :=
  let s1 := s.updGroup c.gi fun g =>
    (Group.setEntry c.k (fun e => { e with grant := none }) { g with
      arrivals := g.arrivals.setIfInBounds n { gen := none, abandoned := false, place := 0 } })
  if c.g.chain.isSome then s.setWait c .chain
  else s1.trap { c with e := { c.e with grant := none } } (wordOfInstr i) .barrierUnreachable (BitVec.ofNat 32 n) 0 0

/-- R50, R182, R454: BEGIN.h after a release; what the arrivals of the released generation pass on is ordered before. -/
def State.passBarrier (s : State) (c : Cx) (n : Nat) : State :=
  let came := (((s.teams[c.g.team]?).bind fun t => t.barriers[n]?).map Barrier.released).getD []
  let s1 := s.beginGroup c.gi .h
  (s1.updGroup c.gi (Group.learn s1.seq (came.flatMap fun a => s.passedBy c.g.team a.1 a.2))).closeRegion c |>.retire c

/-- R161: the generation of a barrier now. -/
def State.barrierGen (s : State) (c : Cx) (n : Nat) : Option Nat :=
  ((s.teams[c.g.team]?).bind fun t => t.barriers[n]?).map Barrier.gen

/-- R161: the group's record of its last arrival now. -/
def State.arrivalNow (s : State) (c : Cx) (n : Nat) : Option Arrival := (s.groups[c.gi]?).bind fun g => g.arrivals.toList[n]?

/-- R182: BAR: COMMIT.h, the arrival, and the wait. -/
def State.barArrive (s : State) (c : Cx) (i : Instr) (n : Nat) : State :=
  let s1 := ((s.endRegion c).commitGroup c.gi .h).arrive c.g.team c.gi n
  match s1.arrivalNow c n with
  | some a =>
    if a.abandoned then s1.unreachable c i n
    else if a.gen == s1.barrierGen c n then s1.waitQuiet c (.barrier n (a.gen.getD 0))
    else s1.passBarrier c n
  | none => s1.retire c

/-- R182: BAR. -/
def execBar (n : BitVec 4) (s : State) : Host.Outcome State Fault Refusal :=
  issue (.bar n) s fun c =>
    match c.e.grant with
    | some .barrier => s.passBarrier c n.toNat
    | some .broken => s.unreachable c (.bar n) n.toNat
    | _ => s.barArrive c (.bar n) n.toNat

/-- R182: BARA. -/
def execBara (n : BitVec 4) (s : State) : Host.Outcome State Fault Refusal :=
  issue (.bara n) s fun c =>
    ((((s.endRegion c).commitGroup c.gi .h).arrive c.g.team c.gi n.toNat).closeRegion c).retire c

/-- R161, R182: BARW. -/
def execBarw (n : BitVec 4) (s : State) : Host.Outcome State Fault Refusal :=
  issue (.barw n) s fun c =>
    match c.e.grant with
    | some .barrier => s.passBarrier c n.toNat
    | some .broken => s.unreachable c (.barw n) n.toNat
    | _ =>
      match c.arrival n.toNat with
      | some a =>
        if a.abandoned then s.unreachable c (.barw n) n.toNat
        else if a.gen.isSome && a.gen == s.barrierGen c n.toNat then (s.endRegion c).waitQuiet c (.barrier n.toNat (a.gen.getD 0))
        else if a.gen.isSome then s.passBarrier c n.toNat
        else ((s.beginGroup c.gi .h).closeRegion c).retire c
      | none => ((s.beginGroup c.gi .h).closeRegion c).retire c

/-! ### Regions -/

/-- R183: REGION. -/
def execRegion (s : State) : Host.Outcome State Fault Refusal :=
  issue .region s fun c =>
    let s1 := s.commitGroup c.gi .p
    (s1.updGroup c.gi fun g =>
      let g1 := g.endRegion
      if g1.mayOpen then { g1 with region := some (g1.capture c.e.first g.retire) } else g1).retire c

end Sys2Proof.Machine
end

