-- ==== Sys2Proof/Machine/Landing.lean ====
section
/-! DEFINITION. Landing (R155, R158), the landing handler's access (R188 to R190), and the control registers
(R191). -/

namespace Sys2Proof.Machine

/-- R155: an undefined, disabled or invalid word. -/
def execLanding (w : Word) (s : State) : Host.Outcome State Fault Refusal :=
  match s.cx? with
  | none => .fault .noGroup
  | some c => .next (s.land c w)

/-! ### RDX and WRX -/

/-- R157: the captured operand of a field code. -/
def Landing.field (w : Landing) (f : Nat) : Captured :=
  match f with
  | 1 => w.d | 2 => w.a | 3 => w.b | _ => w.c

/-- R188: the register that a field's code, or its successor, names: vector or scalar, and its number. -/
def fieldReg (code : BitVec 8) (h : Bool) : Option (Bool × Nat) :=
  match Src.ofCode code with
  | .v n => some (true, n.toNat + (if h then 1 else 0))
  | .s n => some (false, n.val + (if h then 1 else 0))
  | _ => none

/-- R188: the register lies within v127 or s47 and within the budgets. -/
def Cx.fieldRegOk (c : Cx) (r : Bool × Nat) : Bool :=
  if r.1 then r.2 < 128 && r.2 < c.budget else r.2 < 48 && r.2 < c.t.hdr.sregs

/-- R155: a window register. -/
def Landing.window (w : Landing) (depth n : Nat) : DWord :=
  match n with
  | 0 => pairOf w.word 0
  | 1 => pairOf w.hint1 0
  | 2 => pairOf w.hint2 0
  | 3 => w.ref.bits
  | 4 => w.packet
  | 5 => pairOf w.mask 0
  | 6 => pairOf w.gmask 0
  | _ => BitVec.ofNat 64 depth

/-- R188: what RDX of a field reads, or the fault it raises. A code 0xB0 to 0xBF reads the latch or special that it names, DESIGN CHOICE (log 61). -/
def Cx.readField (c : Cx) (w : Landing) (f : Nat) (h : Bool) : Except (Cause × Word) (Lanes Word) :=
  let x := w.field f
  if !x.present then .error (.badHandle, BitVec.ofNat 32 f)
  else
    match fieldReg x.code h with
    | some r =>
      if !c.fieldRegOk r then .error (.badHandle, x.code.zeroExtend 32)
      else if f == 1 then .ok (if r.1 then c.g.regs.vreg r.2 else Lanes.all (c.g.regs.sreg r.2))
      else .ok (if h then x.high else x.low)
    | none =>
      if !x.valid then .error (.latchLost, BitVec.ofNat 32 (x.code.toNat - 0xB0))
      else .ok (if h then x.high else x.low)

/-- R188: RDX. -/
def execRdx (f : BitVec 3) (w : BitVec 3) (h : Bool) (v : VReg) (s : State) : Host.Outcome State Fault Refusal :=
  issue (.rdx f w h v) s fun c =>
    match c.g.land with
    | [] => s.trap c (wordOfInstr (.rdx f w h v)) .badHandle (BitVec.ofNat 32 w.toNat) 0 0
    | win :: _ =>
      if f == 0 then
        let x := win.window c.g.depth w.toNat
        (s.setRegs c fun r =>
          (r.setV v.toNat (Lanes.merge c.e.active (r.vreg v.toNat) (Lanes.all (loWord x)))).setV (v.toNat + 1)
            (Lanes.merge c.e.active (r.vreg (v.toNat + 1)) (Lanes.all (hiWord x)))).retire c
      else
        match c.readField win f.toNat h with
        | .ok x => (s.setRegs c fun r => r.setV v.toNat (Lanes.merge c.e.active (r.vreg v.toNat) x)).retire c
        | .error (cause, d) => s.trap c (wordOfInstr (.rdx f w h v)) cause d 0 0

/-- R189: stage a write, over an earlier one to the same field and half. -/
def Landing.stage (w : Landing) (f : Nat) (h : Bool) (m : LaneMask) (x : Lanes Word) : Landing :=
  match w.staged.find? fun y => y.field == f && y.half == h with
  | some _ =>
    { w with staged := w.staged.map fun y =>
        if y.field == f && y.half == h then { y with mask := y.mask ||| m, vals := Lanes.merge m y.vals x } else y }
  | none => { w with staged := w.staged ++ [{ field := f, half := h, mask := m, vals := x }] }

/-- R189: WRX. A scalar register takes the value of the lowest lane of w5, of lane 0 when w5 is empty (log 49). -/
def execWrx (f : BitVec 3) (w : BitVec 3) (h : Bool) (v : VReg) (s : State) : Host.Outcome State Fault Refusal :=
  issue (.wrx f w h v) s fun c =>
    let bad := fun d : Word => s.trap c (wordOfInstr (.wrx f w h v)) .badHandle d 0 0
    match c.g.land with
    | [] => bad (BitVec.ofNat 32 w.toNat)
    | win :: rest =>
      let x := win.field f.toNat
      if !x.present then bad (BitVec.ofNat 32 f.toNat)
      else
        match fieldReg x.code h with
        | none => bad (x.code.zeroExtend 32)
        | some r =>
          if !c.fieldRegOk r then bad (x.code.zeroExtend 32)
          else
            let m := if r.1 then c.e.active &&& win.mask else allLanes
            let vals := if r.1 then c.g.regs.vreg v.toNat
              else Lanes.all (Lanes.at (c.g.regs.vreg v.toNat) ((LaneMask.lowest win.mask).getD 0))
            (s.updGroup c.gi fun g => { g with land := win.stage f.toNat h m vals :: rest }).retire c

/-- R190: the staged writes in the order d, a, b, c, each followed by its successor half. -/
def Landing.ordered (w : Landing) : List Staged :=
  [1, 2, 3, 4].flatMap fun f => [false, true].flatMap fun h => w.staged.filter fun y => y.field == f && y.half == h

/-- R190: one staged write reaches its register. -/
def Landing.apply (w : Landing) (r : Regs) (y : Staged) : Regs :=
  match fieldReg (w.field y.field).code y.half with
  | some (true, n) => r.setV n (Lanes.merge y.mask (r.vreg n) y.vals)
  | some (false, n) => r.setS n (Lanes.at y.vals 0)
  | none => r

/-- R190: leave the handler: the frozen table returns, its strand at a reference with an active set. -/
def Group.leave (x : Ctx) (rest : List Ctx) (active : LaneMask) (dst : CodeRef) (rpt : Nat) (g : Group) : Group :=
  let back := fun e : Entry =>
    { e with pc := dst, active := active &&& e.owned, hints := [], rpt := rpt, wait := .ready, grant := none }
  { g with ctl := x.ctl.put x.ctl.cur ((x.ctl.get x.ctl.cur).map back), ctxs := rest }

/-- R190, R203: EMURET. The landed word and EMURET each count as retired. -/
def execEmuret (s : State) : Host.Outcome State Fault Refusal :=
  issue .emuret s fun c =>
    match c.g.land, c.g.ctxs with
    | win :: lands, x :: rest =>
      if x.landing then
        (((s.updGroup c.gi fun g =>
          let g1 : Group := { g with land := lands, retire := g.retire + 2, regs := (win.ordered.foldl win.apply g.regs).loseLatches }
          (g1.leave x rest win.mask (win.ref.add 4) 0).settle).updGroup c.gi (Group.wake fun w => w == .logFull)).countEmulated c.p.id |>.yieldAfter c
          |>.unpin c.p.id)
      else s.trap c (wordOfInstr .emuret) .badHandle 0 0 0
    | _, _ => s.trap c (wordOfInstr .emuret) .badHandle 0 0 0

/-! ### Control registers -/

/-- R141: the value of a control register. -/
def Ctrl.get (x : Ctrl) (r : CtrlReg) : DWord :=
  match r with
  | .cause => x.cause.zeroExtend 64
  | .frame => x.frame
  | .landBase => pairOf x.landBase.off 0
  | .trapBase => pairOf x.trapBase.off 0
  | .preq => if x.preq then 1 else 0
  | .deadline => pairOf x.deadline 0
  | .phaseCnt => pairOf x.phaseCnt 0
  | .seed => pairOf x.seed 0
  | .rptIdx => x.rptIdx.zeroExtend 64
  | .round => x.round.zeroExtend 64
  | .fpFlags => x.fpFlags.zeroExtend 64
  | .trapEn => x.trapEn.zeroExtend 64

/-- R191: a control register written by a SETC word of an object; the others are not written. -/
def Ctrl.set (x : Ctrl) (r : CtrlReg) (obj v : Word) : Ctrl :=
  match r with
  | .landBase => { x with landBase := { obj := obj, off := v } }
  | .trapBase => { x with trapBase := { obj := obj, off := v } }
  | .seed => { x with seed := v }
  | .round => { x with round := v.truncate 3 }
  | .fpFlags => { x with fpFlags := v.truncate 5 }
  | .trapEn => { x with trapEn := v.truncate 5 }
  | _ => x

/-- R191, R448: GETC; a recording logs a read of SEED, and a rerun returns the logged value. -/
def execGetc (r : CtrlReg) (d : SReg) (s : State) : Host.Outcome State Fault Refusal :=
  issue (.getc r d) s fun c =>
    let x := if r == .seed then s.valueRead c.p c.t c.g 0 (c.g.ctrl.get r) else (s, c.g.ctrl.get r)
    (x.1.setRegs c fun y => if r == .frame then y.setPair d.val x.2 else y.setS d.val (loWord x.2)).retire c

/-- R141: a code of ROUND that SETC accepts. -/
def roundOk (v : Word) : Bool := 1 ≤ v.toNat && v.toNat ≤ 6

/-- R191: SETC. -/
def execSetc (r : CtrlReg) (x : SOp) (s : State) : Host.Outcome State Fault Refusal :=
  issue (.setc r x) s fun c =>
    let v := c.sop x
    if r == .round && !roundOk v then s.trap c (wordOfInstr (.setc r x)) .badHandle v 0 0
    else (((s.updGroup c.gi fun g => { g with ctrl := g.ctrl.set r c.e.pc.obj v }).retire c).unpin c.p.id)

end Sys2Proof.Machine
end

