-- ==== Sys2Proof/Machine/Reach.lean ====
section
/-! DEFINITION. What an access to virtual addresses finds (R258, R261, R262, R274): misses that wait for walks, faults
that trap, PAGE faults that are queued and deferred (R265, R266), errors in data (R275, R433). -/

namespace Sys2Proof.Machine

/-- A group with its team and partition. -/
structure Who where
  gi : Nat
  g : Group
  t : Team
  p : Part
deriving DecidableEq, Repr

/-- The group of an index with its team and partition. -/
def State.who? (s : State) (gi : Nat) : Option Who :=
  match s.groups[gi]? with
  | none => none
  | some g =>
    match s.teamOf g with
    | none => none
    | some t => (s.part? t.part).map fun p => { gi := gi, g := g, t := t, p := p }

/-- The bytes that one lane (or lane 0, for a group-level word) accesses, as runs of virtual addresses, and the frame that a lane on the
fast path adds its offset to (R261). Lane 32 is the base of a register whose frame has been released. -/
structure Span where
  lane : Nat
  runs : List (Int × Nat)
  fast : Option Xlate := none
deriving DecidableEq, Repr

/-- A run of bytes within one 4 KiB page, with what it finds. -/
structure Piece where
  lane : Nat
  va : Int
  len : Nat
  found : Found
deriving DecidableEq, Repr

/-- Cut a run at page boundaries. -/
def cutRun : Nat → Nat → Nat → List (Nat × Nat)
  | 0, _, _ => []
  | fuel + 1, va, len =>
    if len = 0 then []
    else
      let n := min len (4096 - va % 4096)
      (va, n) :: cutRun fuel (va + n) (len - n)

/-- R248: words per lane of a group's private base stride: private words and emulation words. -/
def Header.privWords (h : Header) : Nat := h.priv + (h.emuBytes + 127) / 128

/-- R248: bytes of a team's private frame. -/
def Header.privFrame (h : Header) : Nat := (h.groupCount * h.privWords * 128 + 4095) / 4096 * 4096

/-- R248: the private frame of a team: its address and bytes. -/
def Team.privRange (t : Team) : Nat × Nat := (t.privArea + t.frameIdx * t.hdr.privFrame, t.hdr.privFrame)

/-- R248: the private base of a group. -/
def Team.privBase (t : Team) (id : Nat) : Nat := t.privRange.1 + id * (t.hdr.privWords * 128)

/-- R251: a byte range meets the private frame of a live team of the partition. -/
def State.meetsPrivate (s : State) (p : Part) (va len : Nat) : Bool :=
  s.teams.any fun t => t.part == p.id && t.phase != .released && (let r := t.privRange; va < r.1 + r.2 && r.1 < va + len)

/-- R15, R262: the TLBs that an access on a hall looks in, its own first. -/
def State.sitesOf (s : State) (hall : Nat) : List TlbSite := [.hall hall, .cluster ((((s.halls[hall]?).map Hall.phys).getD 0) / 8)]

/-- R258, R261: what a run within a page finds: the frame of the fast path, or the TLBs; a private frame through a tb gives ACCESS. -/
def State.finds (s : State) (p : Part) (sites : List TlbSite) (i : Intent) (viaTb : Bool) (sp : Span) (va n : Nat) : Found :=
  if sp.lane == 32 then PartXlat.access p sites .load va
  else if viaTb && s.meetsPrivate p va n then .fault .access
  else
    match sp.fast with
    | some x => .hit x
    | none => PartXlat.access p sites i va

/-- R258: what the runs of a span find. -/
def State.pieces (s : State) (p : Part) (sites : List TlbSite) (i : Intent) (viaTb : Bool) (sp : Span) : List Piece :=
  sp.runs.flatMap fun r =>
    if r.1 < 0 || (classBase : Int) < r.1 + r.2 then [{ lane := sp.lane, va := r.1, len := r.2, found := .fault .access }]
    else
      (cutRun (r.2 / 4096 + 2) r.1.toNat r.2).map fun c =>
        { lane := sp.lane, va := c.1, len := c.2, found := s.finds p sites i viaTb sp c.1 c.2 }

/-- R265: one faulting page of an instruction. -/
structure PageFault where
  va : Nat
  stage2 : Bool
  reason : Nat
  guest : Nat
  table : Bool
deriving DecidableEq, Repr

/-- R265: the page fault of a piece. -/
def Piece.pageFault (x : Piece) : Option PageFault :=
  match x.found with
  | .fault (.page st2 r g tbl) =>
    some { va := x.va.toNat, stage2 := st2, reason := r, table := tbl,
           guest := if tbl then g else g / 4096 * 4096 + x.va.toNat % 4096 }
  | _ => none

/-- R265: one fault for each faulting page, ascending, of the lowest lane on it. -/
def pageFaults (xs : List Piece) : List PageFault :=
  let bad := xs.filter fun x => x.pageFault.isSome
  (ascending (bad.map fun x => x.va.toNat / 4096)).filterMap fun page =>
    (bad.find? fun x => x.va.toNat / 4096 == page).bind Piece.pageFault

/-- The lanes of some pieces. -/
def pieceLanes (xs : List Piece) : LaneMask := LaneMask.ofFn fun l => xs.any fun x => x.lane == l

/-- The address of the lowest lane of a mask in an access. -/
def spanAddr (spans : List Span) (m : LaneMask) : DWord :=
  match spans.find? fun sp => m.getLsbD sp.lane with
  | some sp => BitVec.ofInt 64 ((sp.runs.head?.map fun r => r.1).getD 0)
  | none => 0

/-- R128, R274: the address of the first span with a failing piece, which may have been widened to whole sectors or lines. -/
def failAddr (spans : List Span) (bad : List Piece) : DWord :=
  match spans.find? fun sp => bad.any fun x => x.lane == sp.lane && sp.runs.any fun r => r.1 < x.va + x.len && x.va < r.1 + r.2 with
  | some sp => BitVec.ofInt 64 ((sp.runs.head?.map fun r => r.1).getD 0)
  | none => 0

/-- What an access finds. -/
inductive Reach
  | ok (xs : List Piece)
  | wait (pages : List Nat)
  | trap (cause : Cause) (addr : DWord) (lanes : LaneMask)
  | page (faults : List PageFault) (addr : DWord) (lanes : LaneMask)
deriving DecidableEq, Repr

/-- R274 steps 3 and 4: the first condition that any lane fails. A lane that no translation covers yet waits for its
walk before any lane's outcome is decided (log 14). -/
def State.reach (s : State) (p : Part) (sites : List TlbSite) (i : Intent) (viaTb : Bool) (spans : List Span) : Reach :=
  let xs := spans.flatMap (s.pieces p sites i viaTb)
  let missing := xs.filter fun x => x.found == .missing
  if !missing.isEmpty then .wait (ascending (missing.map fun x => x.va.toNat / 4096))
  else
    let acc := xs.filter fun x => x.found == .fault .access
    if !acc.isEmpty then .trap .access (failAddr spans acc) (pieceLanes acc)
    else
      let pg := xs.filter fun x => x.pageFault.isSome
      if !pg.isEmpty then .page (pageFaults pg) (failAddr spans pg) (pieceLanes pg)
      else .ok (xs.filter fun x => x.lane != 32)

/-- The key of a piece that translates. -/
def Piece.key (x : Piece) : Nat :=
  match x.found with
  | .hit t => t.at x.va.toNat
  | _ => 0

/-- R257: the piece's page is counted. -/
def Piece.cnt (x : Piece) : Bool :=
  match x.found with
  | .hit t => t.cnt
  | _ => false

/-- R431: the piece's page is shared. -/
def Piece.shr (x : Piece) : Bool :=
  match x.found with
  | .hit t => t.shr
  | _ => false

/-- R256: the guest-physical address of a piece that translates. -/
def Piece.guest (x : Piece) : Nat :=
  match x.found with
  | .hit t => t.guest + (x.va.toNat - t.va)
  | _ => 0

/-- R263: the next place among the walks asked for. -/
def State.nextAsk (s : State) : Nat := s.parts.foldl (fun n p => p.xlat.walks.foldl (fun n w => max n (w.asked + 1)) n) 0

/-- R262, R263: ask for the walks of some pages, for the TLBs of some sites. -/
def State.askWalks (s : State) (pid : Nat) (sites : List TlbSite) (pages : List Nat) : State :=
  (s.updPart pid fun p => { p with xlat := pages.foldl (PartXlat.askWalk s.nextAsk sites) p.xlat }).due .walkStart

/-- R257, R262: a translation comes to a TLB, in place of one of the same page, and of another entry where the TLB has no room (log 47). -/
def State.installAt (s : State) (pid : Nat) (x : Xlate) (site : TlbSite) : State :=
  let here := s.tlbAt site
  let out := (site.cap.bind fun cap => evictPick s.dice (2 ^ 83 + x.va) here.length cap).bind fun n => here[n]?
  let s1 := match out with
    | some v => s.updPart v.1 fun p => { p with xlat := { p.xlat with tlb := p.xlat.tlb.filter fun e => !(e.site == site && e.x == v.2) } }
    | none => s
  s1.updPart pid fun p => { p with xlat := { p.xlat with tlb := { site := site, x := x } :: p.xlat.tlb.filter fun e => e.site != site || e.x.va != x.va } }

/-- R262: a translation that the first of some sites does not hold has come from another of them; it is held in the first from then on. -/
def State.promote (s : State) (pid : Nat) (sites : List TlbSite) (va : Nat) : State :=
  match s.part? pid, sites with
  | some p, first :: _ :: _ =>
    match p.xlat.lookup [first] va, p.xlat.lookup sites va with
    | none, some x => s.installAt pid x first
    | _, _ => s
  | _, _ => s

/-- R262: an access has used the TLBs of some sites, and the ends of its walks. -/
def State.usedWalks (s : State) (pid : Nat) (sites : List TlbSite) (xs : List Piece) : State :=
  (ascending (xs.map fun x => x.va.toNat / 4096)).foldl (fun s page => s.promote pid sites (4096 * page))
    (s.updPart pid fun p => { p with xlat := p.xlat.forget (xs.map fun x => x.va.toNat / 4096) })

/-- R275: the granules of a piece. -/
def Piece.grans (x : Piece) : List Nat := ascending ((List.range x.len).map fun i => granOf (x.key + i))

/-- R46, R275: some byte that a piece reads of a granule comes from memory, and not from the group's own stores. -/
def Piece.fetches (x : Piece) (own : List OwnStore) (gran : Nat) : Bool :=
  (List.range x.len).any fun i => granOf (x.key + i) == gran && (ownByte own (x.key + i)).isNone

/-- R275: a poisoned granule that a piece reads: its virtual address. -/
def State.poisoned (s : State) (own : List OwnStore) (x : Piece) : Option Nat :=
  (x.grans.find? fun g => s.poisonNow.contains g && x.fetches own g).map fun g => (x.va.toNat + 16 * g - x.key) / 16 * 16

/-- R433: a sector that a piece reads and whose tag does not match. -/
def State.mismatched (s : State) (p : Part) (own : List OwnStore) (x : Piece) : Bool :=
  p.cfg.protect && x.grans.any fun g => s.torn (some p.id) x.shr g && x.fetches own g

/-- R274 steps 5 and 6: errors in the data that an access reads, the first pieces checked for uncorrectable errors and the second for tags. -/
def State.dataError (s : State) (p : Part) (spans : List Span) (own : List OwnStore) (reads sealed_ : List Piece) : Option (Cause × DWord × LaneMask) :=
  let bad := reads.filter fun x => (s.poisoned own x).isSome
  match bad with
  | x :: _ => some (.memoryError, BitVec.ofNat 64 ((s.poisoned own x).getD 0), pieceLanes bad)
  | [] =>
    let torn := sealed_.filter (s.mismatched p own)
    if torn.isEmpty then none else some (.integrity, failAddr spans torn, pieceLanes torn)

/-! ### Fault queues -/

/-- R265: the bytes of an entry. -/
def FaultEntry.bytes (e : FaultEntry) : List Byte :=
  natLe 8 e.addr.toNat ++ natLe 4 e.serial.toNat ++ [e.kind, e.reason] ++ natLe 2 e.hall ++ natLe 8 e.ref.toNat ++ natLe 8 0

/-- R265: the queue has room. -/
def FaultQueue.room (q : FaultQueue) : Bool := q.head - q.tail != BitVec.ofNat 32 q.size.toNat

/-- R264, R265: where the next entry of a queue goes; the owner's queue lies at a guest-physical address. -/
def State.faultSlot (s : State) (p : Part) (stage2 : Bool) : Option Nat :=
  let q := if stage2 then p.xlat.fq2 else p.xlat.fq1
  let a := q.base.toNat + 32 * (q.head.toNat % q.size.toNat)
  if stage2 then some a
  else
    match walk2 (s.walker p s.poison) p a with
    | .ok leaf => some (leaf.key + a % leaf.bytes)
    | .error _ => none

/-- A partition's fault queue changed. -/
def Part.setFq (p : Part) (stage2 : Bool) (q : FaultQueue) : Part :=
  { p with xlat := if stage2 then { p.xlat with fq2 := q } else { p.xlat with fq1 := q } }

/-- A partition's fault queue. -/
def Part.fq (p : Part) (stage2 : Bool) : FaultQueue := if stage2 then p.xlat.fq2 else p.xlat.fq1

/-- R265: write the oldest waiting entry, when the queue has room. -/
def State.writeFault (s : State) (pid : Nat) (stage2 : Bool) : State :=
  match s.part? pid with
  | none => s
  | some p =>
    let q := p.fq stage2
    match q.waiting, s.faultSlot p stage2 with
    | e :: rest, some key =>
      if q.room then
        let s1 := (s.deviceWrite (if stage2 then none else some pid) key e.bytes).updPart pid fun p => p.setFq stage2 { p.fq stage2 with head := q.head + 1, waiting := rest }
        if rest.isEmpty then s1 else s1.due (.faultEntryWrite pid stage2)
      else s
    | _, _ => s

/-- R265: queue the entry of one faulting page. -/
def State.queueFault (s : State) (pid kind hall : Nat) (ref : DWord) (f : PageFault) : State × FaultRef :=
  match s.part? pid with
  | none => (s, { stage2 := f.stage2, serial := 0, va := f.va, action := none })
  | some p =>
    let q := p.fq f.stage2
    let e : FaultEntry :=
      { addr := BitVec.ofNat 64 (if f.stage2 then f.guest else f.va), serial := BitVec.ofNat 32 q.serial,
        kind := BitVec.ofNat 8 (if f.stage2 && f.table then 4 else kind), reason := BitVec.ofNat 8 f.reason, hall := hall,
        ref := if f.stage2 then 0 else ref }
    let s1 := s.updPart pid fun p => p.setFq f.stage2
      { q with serial := q.serial + 1, waiting := q.waiting ++ [e], pending := q.pending ++ [q.serial] }
    ((if q.waiting.isEmpty && q.room then s1.writeFault pid f.stage2 else s1.due (.faultEntryWrite pid f.stage2)),
     { stage2 := f.stage2, serial := q.serial, va := f.va, action := none })

/-- R265: queue the entries of an instruction's faulting pages. -/
def State.queueFaults (s : State) (pid kind hall : Nat) (ref : DWord) : List PageFault → State × List FaultRef
  | [] => (s, [])
  | f :: fs =>
    let r := s.queueFault pid kind hall ref f
    let t := r.1.queueFaults pid kind hall ref fs
    (t.1, r.2 :: t.2)

end Sys2Proof.Machine
end

