-- ==== Sys2Proof/Machine/Access.lean ====
section
/-! DEFINITION. The access instructions (R272 to R282): spans, loads, stores, private and scratchpad accesses, atomics,
and the deferral of an access whose translation faults (R266). -/

namespace Sys2Proof.Machine

/-! ### Sizes and addresses -/

/-- R89: bytes of an access. -/
def sizeBytes : Size → Nat
  | .n8 => 1 | .i8 => 1 | .n16 => 2 | .i16 => 2 | .word => 4 | .double => 8 | .quad => 16

/-- R273: the alignment an access needs. -/
def sizeAlign : Size → Nat
  | .n8 => 1 | .i8 => 1 | .n16 => 2 | .i16 => 2 | _ => 4

/-- R89: the constant offset: the 3-bit field times the size, or the unscaled value of the IMM hints. -/
def HintSet.offset (h : HintSet) (scale : Nat) (imm : BitVec 3) : Int :=
  if h.imms.isEmpty then h.imm 3 imm.toNat * scale else h.imm 3 imm.toNat

/-- R276: a loaded value as register words. -/
def loadWords (z : Size) (bytes : List Byte) : List Word :=
  match z with
  | .n8 => [BitVec.ofNat 32 (fieldAt bytes 0 1)]
  | .n16 => [BitVec.ofNat 32 (fieldAt bytes 0 2)]
  | .i8 => [wordOf (signedOf 8 (fieldAt bytes 0 1))]
  | .i16 => [wordOf (signedOf 16 (fieldAt bytes 0 2))]
  | .word => [BitVec.ofNat 32 (fieldAt bytes 0 4)]
  | .double => [BitVec.ofNat 32 (fieldAt bytes 0 4), BitVec.ofNat 32 (fieldAt bytes 4 4)]
  | .quad => [BitVec.ofNat 32 (fieldAt bytes 0 4), BitVec.ofNat 32 (fieldAt bytes 4 4), BitVec.ofNat 32 (fieldAt bytes 8 4),
              BitVec.ofNat 32 (fieldAt bytes 12 4)]

/-- R278: the bytes that a lane stores. -/
def storeBytes (z : Size) (data : List (Lanes Word)) (l : Nat) : List Byte :=
  (data.flatMap fun x => natLe 4 (Lanes.at x l).toNat).take (sizeBytes z)

/-- The registers of an access, from its first. -/
def Regs.run (r : Regs) (d n : Nat) : List (Lanes Word) := (List.range n).map fun i => r.vreg (d + i)

/-- R276: per-lane results as register writes: the words of each lane in turn. -/
def laneWrites (d : Nat) (n : Nat) (vals : List (Nat × List Word)) : List (VReg × Lanes Word) :=
  (List.range n).map fun i =>
    (BitVec.ofNat 7 (d + i), Lanes.tabulate fun l => ((vals.find? fun v => v.1 == l).bind fun v => v.2[i]?).getD 0)

/-- R261: the frame that a lane of an access adds its offset to, when it takes the fast path. A lane that would leave the page of the frame
goes to the TLBs (log 47). -/
def TbReg.fast (p : Part) (i : Intent) (t : TbReg) (o : Int) (n : Nat) : Option Xlate :=
  match t.frame with
  | none => none
  | some x =>
    let va := t.base.toNat + o.toNat
    if 0 ≤ o && o + n ≤ t.limit.toNat && x.covers va && va + n ≤ x.va + x.bytes && (!i.writes || t.wr) && (permit p i x va).isNone then some x
    else none

/-- R273: the offset of a lane of a global access. -/
def Operands.offset (o : Operands) (l : Nat) : Int := ((Lanes.at o.x l).toNat : Int) + o.off

/-- R261: the first access after a release of the frame translates BASE too. -/
def TbReg.baseSpan (t : TbReg) : List Span := if t.released && t.frame.isNone then [{ lane := 32, runs := [((t.base.toNat : Int), 1)] }] else []

/-- R261, R273: the runs of a global access, one a lane, and that of BASE. -/
def globalSpans (p : Part) (i : Intent) (o : Operands) (bytes : Nat) : List Span :=
  ((LaneMask.lanes o.act).map fun l =>
    { lane := l, runs := [((o.tb.base.toNat : Int) + o.offset l, bytes)], fast := o.tb.fast p i (o.offset l) bytes }) ++
  (if o.act != 0 then o.tb.baseSpan else [])

/-- The spans whose address is not a multiple of an alignment. -/
def misaligned (n : Nat) (spans : List Span) : LaneMask :=
  LaneMask.ofFn fun l => spans.any fun sp => sp.lane == l && sp.runs.any fun r => r.1 % (n : Int) != 0

/-! ### Performing accesses -/

/-- What a piece's lines are read for. -/
def Piece.touch (pid : Nat) (x : Piece) : Touch := { pid := pid, va := x.va.toNat, key := x.key, len := x.len, cnt := x.cnt, shr := x.shr }

/-- The lines of some pieces, ascending, each with a piece that lies on it. -/
def pieceLines (pid : Nat) (xs : List Piece) : List (Nat × Touch) :=
  let ts := xs.map (Piece.touch pid)
  (ascending (ts.flatMap Touch.lines)).filterMap fun line => (ts.find? fun t => t.lines.contains line).map fun t => (line, t)

/-- A piece widened to whole units of `n` bytes. -/
def Piece.widen (n : Nat) (x : Piece) : Piece :=
  { x with va := x.va - ((x.key % n : Nat) : Int), len := ((x.key + x.len - 1) / n - x.key / n + 1) * n }

/-- R47, R52: the granules that an instruction reads from memory, and not from the group's own stores. -/
def fetchedGrans (own : List OwnStore) (xs : List Piece) : List Nat := ascending (xs.flatMap fun x => x.grans.filter fun g => x.fetches own g)

/-- R46, R47, R52: the bytes each lane reads. -/
def State.readPieces (s : State) (w : Who) (xs : List Piece) (l : Nat) : List Byte :=
  (xs.filter fun x => x.lane == l).flatMap fun x =>
    s.readSpan { s.readerOf w.gi with shr := x.shr, grans := fetchedGrans w.g.stores xs } w.g.stores s.free x.key x.len

/-- R247: the read's lines come into L1. -/
def State.touchPieces (s : State) (w : Who) (xs : List Piece) : State :=
  (pieceLines w.p.id xs).foldl (fun s x => s.touchL1 w.t.hall x.2 x.1) (s.markLost w.t.hall)

/-- R41, R43, R267: the phase store buffer of a group's hall holds a byte for it: a store of its own that is not committed at p, or one that
a group of the hall has committed at h. -/
def State.buffered (s : State) (w : Who) (key : Nat) : Bool :=
  (w.g.stores.any fun o => o.key == key && OwnStore.carried .p o) ||
    s.groups.any fun g => (s.teamOf g).any fun t => t.hall == w.t.hall && g.stores.any fun o => o.key == key && !o.nt && o.level == some .h

/-- R267: a lane whose data the hall holds: in L1, in the phase store buffer, or on the fast path to a line that L2 holds, which the device
may count or not (log 47). -/
def State.holdsPiece (s : State) (w : Who) (owner : Option Nat) (spans : List Span) (x : Piece) : Bool :=
  (List.range x.len).all fun i =>
    let line := lineOf (x.key + i)
    s.holdsL1 w.t.hall line owner || (owner.isNone && s.buffered w (x.key + i)) ||
      (inL2 s.homes.l2 line && (spans.any fun sp => sp.lane == x.lane && sp.fast.isSome) && Config.freePick s.free (2 ^ 84 + line) % 2 == 1)

/-- R267: the lanes whose data the hall holds. -/
def State.hitLanes (s : State) (w : Who) (owner : Option Nat) (spans : List Span) (xs : List Piece) : LaneMask :=
  LaneMask.ofFn fun l => xs.all fun x => x.lane != l || s.holdsPiece w owner spans x

/-- R273: the bytes a store writes, lanes ascending: each with its piece and place. -/
def laneBytes (xs : List Piece) (bytes : Nat → List Byte) : List ((Piece × Nat) × Byte) :=
  (ascending (xs.map fun x => x.lane)).flatMap fun l =>
    ((xs.filter fun x => x.lane == l).flatMap fun x => (List.range x.len).map fun i => (x, i)).zip (bytes l)

/-- R273: the bytes a store writes, lanes ascending, by key. -/
def storeCells (xs : List Piece) (bytes : Nat → List Byte) : List (Nat × Byte) := (laneBytes xs bytes).map fun b => (b.1.1.key + b.1.2, b.2)

/-- R41, R54, R278: the stores of a word's bytes, lanes ascending. -/
def ownStores (nt : Bool) (xs : List Piece) (bytes : Nat → List Byte) : List OwnStore :=
  (laneBytes xs bytes).map fun b =>
    { key := b.1.1.key + b.1.2, val := b.2, nt := nt, level := none, since := true, inRegion := false, atomicAfter := false, fence := 0,
      va := b.1.1.va.toNat + b.1.2, shr := b.1.1.shr, guest := b.1.1.guest + b.1.2 }

/-- R43, R44: granules that a store adds would exceed the group's quota. -/
def Group.overQuota (g : Group) (quota : Nat) (new : List OwnStore) : Bool :=
  quota < 16 * (ascending (g.occupied ++ new.map fun o => granOf o.key)).length

/-- R44, R184: a forced commit; `opens` opens the region that the header may ask for, at the store that forced it. -/
def State.forceCommit (s : State) (w : Who) (opens : Group → Group) : State :=
  (s.commitGroup w.gi .p).updGroup w.gi fun g => opens { g.endRegion with ctrl := { g.ctrl with phaseCnt := g.ctrl.phaseCnt + 1 } }

/-- R43, R278: a plain store. -/
def State.plainStore (s : State) (w : Who) (opens : Group → Group) (new : List OwnStore) : State :=
  let s1 := if w.g.overQuota w.t.hdr.quota new then s.forceCommit w opens else s
  s1.updGroup w.gi fun g => new.foldl (fun g o => g.addStore o) g

/-- R54: an .nt store, which may be performed at any time. -/
def State.ntStore (s : State) (w : Who) (new : List OwnStore) : State :=
  let s1 := s.updGroup w.gi fun g => new.foldl (fun g o => g.addStore o) g
  (ascending (new.map fun o => granOf o.key)).foldl (fun s gran => s.due (.ntStorePerformed w.gi gran .g)) s1

/-! ### Atomics -/

/-- R281: the operations. -/
inductive AtomOp
  | swap | add | and | or | xor | min | max | nmin | nmax | cas | fadd | load | store
deriving DecidableEq, Repr

/-- R281: the new value, for operands of `w` bits. -/
def atomNew (op : AtomOp) (w old v e : Nat) : Nat :=
  match op with
  | .swap => v
  | .add => (old + v) % 2 ^ w
  | .and => Nat.land old v
  | .or => Nat.lor old v
  | .xor => Nat.xor old v
  | .min => if signedOf w v < signedOf w old then v else old
  | .max => if signedOf w old < signedOf w v then v else old
  | .nmin => min old v
  | .nmax => max old v
  | .cas => if old = e then v else old
  | .fadd =>
    let f := if w = 64 then Fmt.fp64 else Fmt.fp32
    (f.round .rne 0 (Ext.add false (f.decode old) (f.decode v)).1).code
  | .load => old
  | .store => v

/-- R49: the scope at which an atomic commits its group's stores to its granule. -/
def flushScope (sc : Scope) : Scope := if sc == .y then .y else .p

/-- R49: the commit of the group's buffered stores to a granule before an atomic. -/
def State.flushGran (s : State) (gi gran : Nat) (sc : Scope) : State :=
  match s.groups[gi]? with
  | none => s
  | some g =>
    if g.stores.any fun o => OwnStore.carried (flushScope sc) o && granOf o.key == gran then
      s.commitSome gi (flushScope sc) fun o => granOf o.key == gran
    else s

/-- R50: what an acquiring load of `n` bytes by a group orders before its later loads: for each byte's value, the stores of the other group that
wrote it before that group's last FENCE.h. -/
def State.releasedBy (s : State) (ti gi key n : Nat) : List (SpadBy × Nat) :=
  (((List.range n).filterMap fun i => s.authorAt (key + i)).filter fun a => a.1 != gi).flatMap fun a => s.passedBy ti a.1 a.2

/-- R282: an atomic that only loads: the group's later plain loads of the granule return what it read, or a later value; it is no commit to
anyone else. -/
def State.noteAtomLoad (s : State) (gi gran : Nat) : State :=
  let k : CommitKind := { party := s.partyOf gi, scope := .g, atHome := true, atomic := true, sector := false, discard := false }
  { s with hist := s.commitOf k { gran := gran, bytes := List.replicate 16 none } :: s.hist, seq := s.seq + 1 }

/-- R49: what an atomic performed at a scope is. -/
def State.atomKind (s : State) (gi : Nat) (sc : Scope) : CommitKind :=
  { party := s.partyOf gi, scope := sc, atHome := true, atomic := true, sector := false, discard := false }

/-- R49, R281: the bytes that an atomic finds at its home. -/
def State.atomOld (s : State) (p : Part) (x : Piece) (n : Nat) : Nat :=
  leNat ((List.range n).map fun i => s.homeByte (some p.id) x.shr (x.key + i))

/-- R49, R281, R282: the atomic of one lane: what it read, and the state after it. One at p comes through L2. -/
def State.atomLane (s : State) (w : Who) (op : AtomOp) (wide : Bool) (sc : Scope) (acq : Bool) (x : Piece) (v e : Nat) : State × Nat :=
  let n := if wide then 8 else 4
  let s0 := s.flushGran w.gi (granOf x.key) sc
  let s1 := if sc == .y then s0 else s0.touchL2 (x.touch w.p.id) (lineOf x.key)
  let old := s1.atomOld w.p x n
  let new := atomNew op (8 * n) old v e
  let s2 := if op == .load then s1.noteAtomLoad w.gi (granOf x.key)
    else s1.commit (s1.atomKind w.gi sc)
      ((writesAt x.va.toNat x.shr (spanWrites x.key (natLe n new))).map fun g => { g with fences := List.replicate 16 (some (w.gi, w.g.fence)) })
  let s3 := s2.updGroup w.gi fun g =>
    { (if acq then Group.learn s2.seq (s1.releasedBy w.g.team w.gi x.key n) g else g) with
      stores := g.stores.map fun o => if granOf o.key == granOf x.key then { o with atomicAfter := true } else o }
  (s3.dropL1 w.t.hall (lineOf x.key), old)

/-- R282: the lanes of an atomic, ascending: lane, place, data, expected value. -/
def State.atomLanes (s : State) (w : Who) (op : AtomOp) (wide : Bool) (sc : Scope) (acq : Bool) :
    List (Nat × Piece × Nat × Nat) → State × List (Nat × Nat)
  | [] => (s, [])
  | (l, x, v, e) :: rest =>
    let r := s.atomLane w op wide sc acq x v e
    let t := r.1.atomLanes w op wide sc acq rest
    (t.1, (l, r.2) :: t.2)

/-- R77, R281: the scope an atomic is performed at. -/
def HintSet.atomScope (h : HintSet) : Scope :=
  match (h.modh.map fun m => m.scope.toNat).getD 0 with
  | 4 => .h
  | 5 => .h
  | 7 => .y
  | _ => .p

/-- R77: .acq. -/
def HintSet.acq (h : HintSet) : Bool := h.modh.any ModForm.acq

/-- R77: .rel. -/
def HintSet.rel (h : HintSet) : Bool := h.modh.any ModForm.rel

/-- R281: the operation, form and name of an atomic. -/
def atomOf : Instr → Option (AtomOp × AForm)
  | .atomSwap f => some (.swap, f) | .atomAdd f => some (.add, f) | .atomAnd f => some (.and, f) | .atomOr f => some (.or, f)
  | .atomXor f => some (.xor, f) | .atomMin f => some (.min, f) | .atomMax f => some (.max, f) | .atomNmin f => some (.nmin, f)
  | .atomNmax f => some (.nmax, f) | .atomCas f => some (.cas, f) | .atomFadd f => some (.fadd, f)
  | .atomLoad f => some (.load, f) | .atomStore f => some (.store, f)
  | _ => none

/-! ### What an access does -/

/-- What performing an access gives: the state, register results and their lanes, a scalar result, the lanes that miss L1 when some hit, and,
of an ATOM some of whose lanes wait for their turn (R449), what the others read. -/
structure Done where
  st : State
  mask : LaneMask
  writes : List (VReg × Lanes Word)
  scalar : Option (Nat × Word)
  miss : LaneMask
  more : Option (List (Nat × Nat)) := none

/-- The outcome of an access. -/
inductive Acc
  | done (d : Done)
  | wait (pages : List Nat)
  | trap (cause : Cause) (addr : DWord) (lanes : LaneMask)
  | page (faults : List PageFault) (addr : DWord) (lanes : LaneMask)

/-- A done access without results. -/
def Done.plain (s : State) : Done := { st := s, mask := 0, writes := [], scalar := none, miss := 0 }

/-- R261: an access has translated BASE again: the register holds its frame. -/
def State.holdFrame (s : State) (w : Who) (n : BitVec 3) (tb : TbReg) : State :=
  match (s.part? w.p.id).bind fun p => p.xlat.lookup (s.sitesOf w.t.hall) tb.base.toNat with
  | some x =>
    if tb.frame.isSome then s
    else
      s.updGroup w.gi fun g =>
        let t := g.regs.tbReg n
        if t.frame.isNone && t.released && t.base == tb.base then { g with regs := g.regs.setTb n { t with frame := some x, released := false } } else g
  | none => s

/-- R261: an access through a register, if it names one, has translated BASE again. -/
def State.holdFrameOf (s : State) (w : Who) (o : Operands) : State :=
  match o.tbn with
  | some n => s.holdFrame w n o.tb
  | none => s

/-- R274 steps 5 and 6: what finds errors in the data of an access. -/
abbrev Errors := State → List Piece → Option (Cause × DWord × LaneMask)

/-- R273, R274: alignment, translation, and errors in the data, then what follows. An access through a register names it in its operands. -/
def State.accessThen (s : State) (w : Who) (i : Intent) (o : Operands) (align : Nat) (spans : List Span) (errs : Errors)
    (k : State → List Piece → Acc) : Acc :=
  let bad := misaligned align spans
  if bad != 0 then .trap .align (spanAddr spans bad) bad
  else
    match s.reach w.p (s.sitesOf w.t.hall) i o.tbn.isSome spans with
    | .wait pages => .wait pages
    | .trap cause a m => .trap cause a m
    | .page fs a m => .page fs a m
    | .ok xs =>
      let s1 := (s.usedWalks w.p.id (s.sitesOf w.t.hall) xs).holdFrameOf w o
      match errs s1 xs with
      | some (cause, a, m) => .trap cause a m
      | none => k s1 xs

/-- R273, R274: the checks of an access, then the access. -/
def State.accessMem (s : State) (w : Who) (i : Intent) (o : Operands) (align : Nat) (spans : List Span) (errs : Errors)
    (k : State → List Piece → Done) : Acc :=
  s.accessThen w i o align spans errs fun s1 xs => .done (k s1 xs)

/-- R274: errors in what a global load reads. -/
def Who.loadErrors (w : Who) (spans : List Span) : Errors := fun s xs => s.dataError w.p spans w.g.stores xs xs

/-- R274, R294: errors that a global store meets: tags of the sectors that it writes in part. -/
def Who.storeErrors (w : Who) (spans : List Span) (bytes : Nat → List Byte) : Errors := fun s xs =>
  s.dataError w.p spans (ownStores false xs bytes) [] (xs.map (Piece.widen 32))

/-- R49, R275: the stores of a group that an atomic at a scope commits first and that write their granule whole, which mends it. -/
def wholeStores (sc : Scope) (stores : List OwnStore) : List OwnStore :=
  let out := stores.filter (OwnStore.carried (flushScope sc))
  out.filter fun o => (List.range 16).all fun i => out.any fun x => x.key == 16 * granOf o.key + i

/-- R49, R275: errors in what an atomic reads at its home, where its group's stores to the granule are committed first. -/
def Who.atomErrors (w : Who) (sc : Scope) (spans : List Span) : Errors := fun s xs => s.dataError w.p spans (wholeStores sc w.g.stores) xs xs

/-- R276: LD. -/
def State.loadGlobal (s : State) (w : Who) (z : Size) (d : VReg) (o : Operands) : Acc :=
  let spans := globalSpans w.p .load o (sizeBytes z)
  s.accessMem w .load o (sizeAlign z) spans (w.loadErrors spans) fun s1 xs =>
    let vals := (LaneMask.lanes o.act).map fun l => (l, loadWords z (s1.readPieces w xs l))
    { st := (s1.touchPieces w xs).spend, mask := o.act, writes := laneWrites d.toNat (sizeRegs z) vals, scalar := none,
      miss := o.act &&& ~~~(s1.hitLanes w none spans xs) }

/-- R277: SLD. -/
def State.loadScalar (s : State) (w : Who) (d : SReg) (o : Operands) : Acc :=
  let spans := globalSpans w.p .load { o with act := 1 } 4
  s.accessMem w .load o 4 spans (w.loadErrors spans) fun s1 xs =>
    { st := (s1.touchPieces w xs).spend, mask := 0, writes := [],
      scalar := some (d.val, (loadWords .word (s1.readPieces w xs 0)).headD 0), miss := 0 }

/-- R278: ST. -/
def State.storeGlobal (s : State) (w : Who) (z : Size) (o : Operands) (opens : Group → Group) : Acc :=
  let spans := globalSpans w.p .store o (sizeBytes z)
  s.accessMem w .store o (sizeAlign z) spans (w.storeErrors spans (storeBytes z o.data)) fun s1 xs =>
    Done.plain (if (HintSet.of o.hints).modh.any ModForm.nt then s1.ntStore w (ownStores true xs (storeBytes z o.data))
      else s1.plainStore w opens (ownStores false xs (storeBytes z o.data)))

/-- R249: words of a private access. -/
def privWords (z : Size) : Nat := sizeBytes z / 4

/-- R280: the word index of a lane. -/
def privIndex (o : Operands) (l : Nat) : Int := ((Lanes.at o.x l).toNat : Int) + o.off

/-- R249: the interleaved words of each lane. -/
def privSpans (w : Who) (z : Size) (o : Operands) : List Span :=
  (LaneMask.lanes o.act).map fun l =>
    { lane := l, runs := (List.range (privWords z)).map fun (j : Nat) =>
        (((w.t.privBase w.g.id : Nat) : Int) + ((privIndex o l + j) * 32 + l) * 4, 4) }

/-- R159: the limit of a group's private words. -/
def Who.privLimit (w : Who) : Nat := if w.g.land.isEmpty then w.t.hdr.priv else w.t.hdr.privWords

/-- R249, R274: bounds and alignment of a private access, then the access. -/
def State.accessPriv (s : State) (w : Who) (i : Intent) (z : Size) (o : Operands) (errs : Errors) (k : State → List Piece → Done) : Acc :=
  let spans := privSpans w z o
  let over_ := LaneMask.ofFn fun l => o.act.getLsbD l && (privIndex o l < 0 || (w.privLimit : Int) < privIndex o l + privWords z)
  if over_ != 0 then .trap .stackLimit (spanAddr spans over_) over_
  else
    let odd := LaneMask.ofFn fun l => o.act.getLsbD l && privIndex o l % (privWords z : Int) != 0
    if odd != 0 then .trap .align (spanAddr spans odd) odd
    else s.accessMem w i { o with tbn := none } 1 spans errs k

/-- R302: the pieces of a private access whose lines L1 does not hold, as whole lines. -/
def State.missedLines (s : State) (w : Who) (xs : List Piece) : List Piece :=
  (xs.filter fun x => !s.holdsL1 w.t.hall (lineOf x.key) (some w.gi)).map (Piece.widen 128)

/-- R274, R302: errors in the lines that a private load reads from the group's frame. -/
def Who.privLoadErrors (w : Who) (spans : List Span) : Errors := fun s xs =>
  s.dataError w.p spans [] (s.missedLines w xs) (s.missedLines w xs)

/-- R274, R275, R302: errors in the lines that a private store writes in part and reads first, raised at the store, DEDUCED (log 66); granules that
it writes whole are not read. -/
def Who.privStoreErrors (w : Who) (spans : List Span) (bytes : Nat → List Byte) : Errors := fun s xs =>
  let part := (s.missedLines w xs).filter fun x => !wholeLine (storeCells xs bytes) (lineOf x.key)
  s.dataError w.p spans (ownStores false xs bytes) part part

/-- R250, R251, R302: a private load visits its lines in ascending order: the bytes they hold, and the state after it. -/
def State.loadPrivLines (s : State) (w : Who) : List (Nat × Touch) → State × List (Nat × Byte)
  | [] => (s, [])
  | (line, x) :: rest =>
    let s1 := s.holdPriv w.t.hall w.gi x line false
    let here := ((s1.groups[w.gi]?).map fun g => (g.priv.filter fun c => lineOf c.1 == line).map fun c => (c.1, c.2)).getD []
    let r := s1.loadPrivLines w rest
    (r.1, here ++ r.2)

/-- R280: LDP. -/
def State.loadPriv (s : State) (w : Who) (z : Size) (d : VReg) (o : Operands) : Acc :=
  let spans := privSpans w z o
  s.accessPriv w .load z o (w.privLoadErrors spans) fun s1 xs =>
    let r := s1.loadPrivLines w (pieceLines w.p.id xs)
    let byte := fun key => ((r.2.find? fun c => c.1 == key).map fun c => c.2).getD 0
    let vals := (LaneMask.lanes o.act).map fun l =>
      (l, loadWords z ((xs.filter fun x => x.lane == l).flatMap fun x => (List.range x.len).map fun i => byte (x.key + i)))
    { st := r.1.spend, mask := o.act, writes := laneWrites d.toNat (sizeRegs z) vals, scalar := none,
      miss := o.act &&& ~~~(s1.hitLanes w (some w.gi) spans xs) }

/-- R280: STP. -/
def State.storePriv (s : State) (w : Who) (z : Size) (o : Operands) : Acc :=
  let spans := privSpans w z o
  s.accessPriv w .store z o (w.privStoreErrors spans (storeBytes z o.data)) fun s1 xs =>
    Done.plain ((pieceLines w.p.id xs).foldl (fun s x => s.storePrivLine w.t.hall w.gi x.2 x.1 (storeCells xs (storeBytes z o.data))) s1)

/-- R246, R279: the offsets of a scratchpad access. -/
def spadOffset (o : Operands) (l : Nat) : Int := ((Lanes.at o.x l).toNat : Int) + o.off

/-- R246, R274: the lanes beyond the team's scratchpad. -/
def spadBeyond (w : Who) (m : LaneMask) (bytes : Nat) (off : Nat → Int) : LaneMask :=
  LaneMask.ofFn fun l => m.getLsbD l && (off l < 0 || (w.t.hdr.scratch : Int) < off l + bytes)

/-- R274: bounds, then alignment, of a scratchpad access. -/
def spadFault (w : Who) (m : LaneMask) (bytes align : Nat) (off : Nat → Int) : Option (Cause × DWord × LaneMask) :=
  let out := spadBeyond w m bytes off
  let low := fun x : LaneMask => BitVec.ofInt 64 (off ((LaneMask.lowest x).getD 0))
  if out != 0 then some (.scratchBound, low out, out)
  else
    let odd := LaneMask.ofFn fun l => m.getLsbD l && off l % (align : Int) != 0
    if odd != 0 then some (.align, low odd, odd) else none

/-- R279: the granules that a scratchpad load reads. -/
def spadLoads (o : Operands) (z : Size) : List Nat := ascending ((LaneMask.lanes o.act).flatMap fun l => spadGrans (spadOffset o l).toNat (sizeBytes z))

/-- R279: LDS. -/
def State.loadSpad (s : State) (w : Who) (z : Size) (d : VReg) (o : Operands) : Acc :=
  match spadFault w o.act (sizeBytes z) (sizeAlign z) (spadOffset o) with
  | some (cause, a, m) => .trap cause a m
  | none =>
    let vals := (LaneMask.lanes o.act).map fun l =>
      (l, loadWords z (w.t.spadRead (w.g.spadReader w.gi (spadLoads o z)) s.free (spadOffset o l).toNat (sizeBytes z)))
    .done { st := s.spend, mask := o.act, writes := laneWrites d.toNat (sizeRegs z) vals, scalar := none, miss := 0 }

/-- R279: STS. -/
def State.storeSpad (s : State) (w : Who) (z : Size) (o : Operands) : Acc :=
  match spadFault w o.act (sizeBytes z) (sizeAlign z) (spadOffset o) with
  | some (cause, a, m) => .trap cause a m
  | none =>
    .done (Done.plain ((LaneMask.lanes o.act).foldl (fun s l =>
      s.spadWrite w.g.team w.gi (spadOffset o l).toNat (storeBytes z o.data l)) s))

/-- R448: the places of an atomic word's lanes. -/
def atomPlaces (sc : Scope) (xs : List Piece) : List AtomPlace := xs.map fun x => globalPlace (sc == .y) x.lane x.va.toNat

/-- R56, R281: an atomic whose addresses translate; `ends` closes the region that is open at its issue, before its BEGIN. Its BEGIN and its
results follow its last lane; `was` is what lanes that had their turn before read, and `more` that some still wait for theirs (R449). -/
def State.atomicAt (s : State) (w : Who) (op : AtomOp) (f : AForm) (o : Operands) (ends : State → State) (xs : List Piece)
    (was : List (Nat × Nat) := []) (more : Bool := false) : Done :=
  let h := HintSet.of o.hints
  let sc := h.atomScope
  let s1 := if h.rel then s.commitGroup w.gi sc else s
  let reg := fun (j l : Nat) => (Lanes.at (o.data.getD j (Lanes.all 0)) l).toNat
  let val := fun (j l : Nat) => if f.wide then reg (2 * j) l + 2 ^ 32 * reg (2 * j + 1) l else reg j l
  let r := s1.atomLanes w op f.wide sc h.acq (xs.map fun x => (x.lane, x, val 0 x.lane, val 1 x.lane))
  let s2 := if h.acq && !more then (ends r.1).beginGroup w.gi sc else r.1
  let got := was ++ r.2
  let vals := got.map fun x => (x.1, [BitVec.ofNat 32 x.2, BitVec.ofNat 32 (x.2 / 2 ^ 32)])
  { st := s2.noteAtoms w.p w.t w.g (atomPlaces sc xs), mask := o.act,
    writes := if op == .store then [] else laneWrites f.d.toNat (if f.wide then 2 else 1) vals, scalar := none, miss := 0,
    more := if more then some got else none }

/-- R449: the lanes that have not had their turn. -/
def Operands.rest (o : Operands) (was : List (Nat × Nat)) : Operands :=
  if was.isEmpty then o else { o with act := LaneMask.ofFn fun l => o.act.getLsbD l && !was.any fun x => x.1 == l }

/-- R449: the pieces of some atomics, in their order. -/
def piecesOf (xs : List Piece) (ps : List AtomPlace) : List Piece := ps.filterMap fun p => xs.find? fun x => x.lane == p.lane

/-- R281, R449: ATOM; in a rerun each lane waits for its turn at its location. -/
def State.atomic (s : State) (w : Who) (op : AtomOp) (f : AForm) (o : Operands) (ends : State → State) (was : List (Nat × Nat) := []) : Acc :=
  let n := if f.wide then 8 else 4
  let i := if op == .load then Intent.atomLoad else .atomic
  let spans := globalSpans w.p i (o.rest was) n
  s.accessThen w i o n spans (w.atomErrors (HintSet.of o.hints).atomScope spans) fun s1 xs =>
    let t := s1.turns w.p w.t w.g (atomPlaces (HintSet.of o.hints).atomScope xs)
    let s2 := match t.differs with
      | some q => s1.diverge_ w.p.id q
      | none => s1
    if t.now.isEmpty && !t.left.isEmpty then .wait [] else .done (s2.atomicAt w op f o ends (piecesOf xs t.now) was (!t.left.isEmpty))

end Sys2Proof.Machine
end

