-- ==== Sys2Proof/Machine/LaneFp.lean ====
section
/-! DEFINITION. The floating-point lane words (R223 to R226), the float members of VUN (R231, R232), the
conversions (R233 to R235) and QPACK (R236). -/

namespace Sys2Proof.Machine

/-! ### FP32, packed halves and FP64 -/

/-- R223: a source as an exact FP32 value. -/
def Cx.f32 (c : Cx) (x : Src) (l : Nat) : Ext := Fmt.fp32.decode (c.fsrc .fp32 x l)

/-- R226: a source as an exact FP64 value. -/
def Cx.f64 (c : Cx) (x : Src) (l : Nat) : Ext := Fmt.fp64.decode (c.fsrc .fp64 x l)

/-- R223: the third source of a format, with the SRC3 hint's sign bits. -/
def Cx.third32 (c : Cx) (d : VReg) (l : Nat) : Ext := signBits (c.third d).1 (c.third d).2.1 (c.f32 (c.third d).2.2 l)

/-- R226: the third source in FP64. -/
def Cx.third64 (c : Cx) (d : VReg) (l : Nat) : Ext := signBits (c.third d).1 (c.third d).2.1 (c.f64 (c.third d).2.2 l)

/-- R225: the half format of a word. -/
def Cx.half (c : Cx) : Fmt := if c.bf then .bf16 else .fp16

/-- R225: half `e` of a source as an exact value. -/
def Cx.f16 (c : Cx) (x : Src) (l e : Nat) : Ext := c.half.decode (c.hsrc c.half x l e)

/-- R225: half `e` of the third source. -/
def Cx.third16 (c : Cx) (d : VReg) (l e : Nat) : Ext :=
  signBits (c.third d).1 (c.third d).2.1 (c.f16 (c.third d).2.2 l e)

/-- R225: two halves in one word. -/
def pack2 (x y : Rounded) : Rounded := { code := x.code + 2 ^ 16 * y.code, flags := x.flags ||| y.flags }

/-- R198: the mode is RDN. -/
def Cx.rdn (c : Cx) : Bool := c.mode == .rdn

/-- R223: FADD. -/
def execFadd (f : VForm) (s : State) : Host.Outcome State Fault Refusal :=
  issue (.fadd f) s fun c => s.vFp c (.fadd f) f fun g l => c.finish .fp32 l 0 (Ext.add c.rdn (c.f32 g.a l) (c.f32 g.b l))

/-- R223: FMUL. -/
def execFmul (f : VForm) (s : State) : Host.Outcome State Fault Refusal :=
  issue (.fmul f) s fun c => s.vFp c (.fmul f) f fun g l => c.finish .fp32 l 0 ((c.f32 g.a l).mul (c.f32 g.b l))

/-- R223: FMAC. -/
def execFmac (f : VForm) (s : State) : Host.Outcome State Fault Refusal :=
  issue (.fmac f) s fun c => s.vFp c (.fmac f) f fun g l =>
    c.finish .fp32 l 0 (Ext.mac c.rdn (c.f32 g.a l) (c.f32 g.b l) (c.third32 g.d l))

/-- R224: FMIN. -/
def execFmin (f : VForm) (s : State) : Host.Outcome State Fault Refusal :=
  issue (.fmin f) s fun c => s.vInt c f fun g l =>
    BitVec.ofNat 32 (Fmt.fp32.pick false (c.fsrc .fp32 g.a l) (c.fsrc .fp32 g.b l))

/-- R224: FMAX. -/
def execFmax (f : VForm) (s : State) : Host.Outcome State Fault Refusal :=
  issue (.fmax f) s fun c => s.vInt c f fun g l =>
    BitVec.ofNat 32 (Fmt.fp32.pick true (c.fsrc .fp32 g.a l) (c.fsrc .fp32 g.b l))

/-- R225: a packed word from its operation on one half. -/
def packed (op : Nat → Rounded) : Rounded := pack2 (op 0) (op 1)

/-- R225: HADD2. -/
def execHadd2 (f : VForm) (s : State) : Host.Outcome State Fault Refusal :=
  issue (.hadd2 f) s fun c => s.vFp c (.hadd2 f) f fun g l =>
    packed fun e => c.finish c.half l e (Ext.add c.rdn (c.f16 g.a l e) (c.f16 g.b l e))

/-- R225: HMUL2. -/
def execHmul2 (f : VForm) (s : State) : Host.Outcome State Fault Refusal :=
  issue (.hmul2 f) s fun c => s.vFp c (.hmul2 f) f fun g l =>
    packed fun e => c.finish c.half l e ((c.f16 g.a l e).mul (c.f16 g.b l e))

/-- R225: HMAC2. -/
def execHmac2 (f : VForm) (s : State) : Host.Outcome State Fault Refusal :=
  issue (.hmac2 f) s fun c => s.vFp c (.hmac2 f) f fun g l =>
    packed fun e => c.finish c.half l e (Ext.mac c.rdn (c.f16 g.a l e) (c.f16 g.b l e) (c.third16 g.d l e))

/-- R226: DADD. -/
def execDadd (f : VForm) (s : State) : Host.Outcome State Fault Refusal :=
  issue (.dadd f) s fun c => s.vFp64 c (.dadd f) f fun g l => c.finish .fp64 l 0 (Ext.add c.rdn (c.f64 g.a l) (c.f64 g.b l))

/-- R226: DMUL. -/
def execDmul (f : VForm) (s : State) : Host.Outcome State Fault Refusal :=
  issue (.dmul f) s fun c => s.vFp64 c (.dmul f) f fun g l => c.finish .fp64 l 0 ((c.f64 g.a l).mul (c.f64 g.b l))

/-- R226: DMAC. -/
def execDmac (f : VForm) (s : State) : Host.Outcome State Fault Refusal :=
  issue (.dmac f) s fun c => s.vFp64 c (.dmac f) f fun g l =>
    c.finish .fp64 l 0 (Ext.mac c.rdn (c.f64 g.a l) (c.f64 g.b l) (c.third64 g.d l))

/-! ### VUN, float members -/

/-- R231: the sign of a code inverted, a NaN made canonical. -/
def negCode (f : Fmt) (x : Nat) : Nat := if f.isNan x then f.nanCode else if x < f.signBit then x + f.signBit else x - f.signBit

/-- R231: the sign of a code cleared, a NaN made canonical. -/
def absCode (f : Fmt) (x : Nat) : Nat := if f.isNan x then f.nanCode else x % f.signBit

/-- R231: a U word whose lanes compute an FP32 code without flags. -/
def State.uCode (s : State) (c : Cx) (f : UForm) (op : Nat → Nat) : State :=
  s.uInt c f fun g l => BitVec.ofNat 32 (op (c.fsrc .fp32 g.a l))

/-- R231: FNEG. -/
def execFneg (f : UForm) (s : State) : Host.Outcome State Fault Refusal :=
  issue (.fneg f) s fun c => s.uCode c f (negCode .fp32)

/-- R231: FABS. -/
def execFabs (f : UForm) (s : State) : Host.Outcome State Fault Refusal :=
  issue (.fabs f) s fun c => s.uCode c f (absCode .fp32)

/-- R231: DNEG and DABS on pairs. -/
def State.uCode64 (s : State) (c : Cx) (f : UForm) (op : Nat → Nat) : State :=
  let g := c.uForm f
  s.laneDone64 c g.wb g.d (c.act g.gd) (Lanes.tabulate fun l => BitVec.ofNat 64 (op (c.fsrc .fp64 g.a l)))

/-- R231: DNEG. -/
def execDneg (f : UForm) (s : State) : Host.Outcome State Fault Refusal :=
  issue (.dneg f) s fun c => s.uCode64 c f (negCode .fp64)

/-- R231: DABS. -/
def execDabs (f : UForm) (s : State) : Host.Outcome State Fault Refusal :=
  issue (.dabs f) s fun c => s.uCode64 c f (absCode .fp64)

/-- R231: HNEG2 and HABS2 on both halves. -/
def State.uCode16 (s : State) (c : Cx) (f : UForm) (op : Fmt → Nat → Nat) : State :=
  s.uInt c f fun g l =>
    BitVec.ofNat 32 (op c.half (c.hsrc c.half g.a l 0) + 2 ^ 16 * op c.half (c.hsrc c.half g.a l 1))

/-- R231: HNEG2. -/
def execHneg2 (f : UForm) (s : State) : Host.Outcome State Fault Refusal := issue (.hneg2 f) s fun c => s.uCode16 c f negCode

/-- R231: HABS2. -/
def execHabs2 (f : UForm) (s : State) : Host.Outcome State Fault Refusal := issue (.habs2 f) s fun c => s.uCode16 c f absCode

/-- R231: an FP32 code rounded to an integer, infinities and zeros unchanged, the sign kept. -/
def intCode (mode : RMode) (r code : Nat) : Rounded :=
  match Fmt.fp32.decode code with
  | .nan => { code := Fmt.fp32.nanCode, flags := 0 }
  | .fin neg m e =>
    let g := roundGrid mode neg r m e 0
    { code := (Fmt.fp32.round .rne 0 (Ext.of neg g.q 0)).code, flags := if g.inexact then flagInexact else 0 }
  | _ => { code := code, flags := 0 }

/-- R231: FFLOOR. -/
def execFfloor (f : UForm) (s : State) : Host.Outcome State Fault Refusal :=
  issue (.ffloor f) s fun c => s.uCode c f fun x => (intCode .rdn 0 x).code

/-- R231: FCEIL. -/
def execFceil (f : UForm) (s : State) : Host.Outcome State Fault Refusal :=
  issue (.fceil f) s fun c => s.uCode c f fun x => (intCode .rup 0 x).code

/-- R231: FTRUNC. -/
def execFtrunc (f : UForm) (s : State) : Host.Outcome State Fault Refusal :=
  issue (.ftrunc f) s fun c => s.uCode c f fun x => (intCode .rtz 0 x).code

/-- R231: FRINT, which raises inexact. -/
def execFrint (f : UForm) (s : State) : Host.Outcome State Fault Refusal :=
  issue (.frint f) s fun c => s.uFp c (.frint f) f fun g l => intCode c.mode (c.rword l 0) (c.fsrc .fp32 g.a l)

/-- R231: FCLASS of a code. -/
def classBit (code : Nat) : Nat :=
  let neg := code / Fmt.fp32.signBit % 2 == 1
  match Fmt.fp32.decode code with
  | .nan => 0
  | .inf _ => if neg then 1 else 8
  | .zero _ => if neg then 4 else 5
  | .fin _ _ _ =>
    if code % Fmt.fp32.signBit < 2 ^ 23 then (if neg then 3 else 6) else (if neg then 2 else 7)

/-- R231: FCLASS. -/
def execFclass (f : UForm) (s : State) : Host.Outcome State Fault Refusal :=
  issue (.fclass f) s fun c => s.uCode c f fun x => 2 ^ classBit x

/-- R232: a correctly rounded FP32 function. -/
def State.uFun (s : State) (c : Cx) (i : Instr) (f : UForm) (op : Ext → Pre) : State :=
  s.uFp c i f fun g l => c.finish .fp32 l 0 (op (c.f32 g.a l))

/-- R232: FRCP. -/
def execFrcp (f : UForm) (s : State) : Host.Outcome State Fault Refusal := issue (.frcp f) s fun c => s.uFun c (.frcp f) f Ext.rcp

/-- R232: FRSQ. -/
def execFrsq (f : UForm) (s : State) : Host.Outcome State Fault Refusal := issue (.frsq f) s fun c => s.uFun c (.frsq f) f Ext.rsq

/-- R232: FSQRT. -/
def execFsqrt (f : UForm) (s : State) : Host.Outcome State Fault Refusal :=
  issue (.fsqrt f) s fun c => s.uFun c (.fsqrt f) f Ext.sqrt

/-- R232: FEXP2. -/
def execFexp2 (f : UForm) (s : State) : Host.Outcome State Fault Refusal :=
  issue (.fexp2 f) s fun c => s.uFun c (.fexp2 f) f Ext.exp2

/-- R232: FLOG2. -/
def execFlog2 (f : UForm) (s : State) : Host.Outcome State Fault Refusal :=
  issue (.flog2 f) s fun c => s.uFun c (.flog2 f) f Ext.log2

/-- R232: FSIN. -/
def execFsin (f : UForm) (s : State) : Host.Outcome State Fault Refusal := issue (.fsin f) s fun c => s.uFun c (.fsin f) f Ext.sin

/-- R232: FCOS. -/
def execFcos (f : UForm) (s : State) : Host.Outcome State Fault Refusal := issue (.fcos f) s fun c => s.uFun c (.fcos f) f Ext.cos

/-- R232: FTANH. -/
def execFtanh (f : UForm) (s : State) : Host.Outcome State Fault Refusal :=
  issue (.ftanh f) s fun c => s.uFun c (.ftanh f) f Ext.tanh

/-- R232: a correctly rounded FP64 function. -/
def State.uFun64 (s : State) (c : Cx) (i : Instr) (f : UForm) (op : Ext → Pre) : State :=
  s.uFp64 c i f fun g l => c.finish .fp64 l 0 (op (c.f64 g.a l))

/-- R232: DSQRT. -/
def execDsqrt (f : UForm) (s : State) : Host.Outcome State Fault Refusal :=
  issue (.dsqrt f) s fun c => s.uFun64 c (.dsqrt f) f Ext.sqrt

/-- R232: DRCP. -/
def execDrcp (f : UForm) (s : State) : Host.Outcome State Fault Refusal :=
  issue (.drcp f) s fun c => s.uFun64 c (.drcp f) f Ext.rcp

/-! ### Conversions -/

/-- R206: an integer type: its width and whether it is signed. -/
structure IntType where
  w : Nat
  signed : Bool
deriving DecidableEq, Repr

/-- R206: the least value. -/
def IntType.lo (t : IntType) : Int := if t.signed then -(2 ^ (t.w - 1)) else 0

/-- R206: the greatest value. -/
def IntType.hi (t : IntType) : Int := if t.signed then 2 ^ (t.w - 1) - 1 else 2 ^ t.w - 1

/-- R206: the value of the low bits of a word. -/
def IntType.read (t : IntType) (x : Nat) : Int := if t.signed then signedOf t.w x else ((x % 2 ^ t.w : Nat) : Int)

/-- R233: a value of the type in a lane: sign extension above a signed narrow type, zeros above the others. -/
def IntType.word (t : IntType) (x : Int) : Nat :=
  if t.signed then unsignedOf 32 (signedOf t.w (unsignedOf t.w x)) else unsignedOf t.w x

/-- R84: a conversion type: a float format or an integer type. -/
inductive CvtKind
  | flt (f : Fmt)
  | int (t : IntType)
deriving DecidableEq, Repr

/-- R84: what a conversion type is. -/
def cvtKind : CvtType → CvtKind
  | .i32 => .int { w := 32, signed := true } | .n32 => .int { w := 32, signed := false }
  | .f32 => .flt .fp32 | .f16 => .flt .fp16 | .bf16 => .flt .bf16 | .e4m3 => .flt .e4m3 | .e5m2 => .flt .e5m2
  | .e2m1 => .flt .e2m1 | .i8 => .int { w := 8, signed := true } | .n8 => .int { w := 8, signed := false }
  | .i16 => .int { w := 16, signed := true } | .n16 => .int { w := 16, signed := false } | .f64 => .flt .fp64
  | .i4 => .int { w := 4, signed := true }

/-- R235: a float converted to an integer type. -/
def floatToInt (t : IntType) (sat : Bool) (mode : RMode) (r : Nat) (x : Ext) : Rounded :=
  let high := { code := t.word (if sat then t.hi else t.lo), flags := flagInvalid }
  let low := { code := t.word t.lo, flags := flagInvalid }
  match x with
  | .nan => { code := 0, flags := flagInvalid }
  | .inf false => high
  | .inf true => low
  | _ =>
    let i := x.toInt mode r
    if t.hi < i.1 then high
    else if i.1 < t.lo then low
    else { code := t.word i.1, flags := if i.2 then flagInexact else 0 }

/-- R234: one conversion. -/
def convert (dst src : CvtKind) (sat : Bool) (mode : RMode) (r code : Nat) : Rounded :=
  match dst, src with
  | .flt f, .flt g => f.round mode r (g.decode code)
  | .flt f, .int u => f.round mode r (Ext.ofInt (u.read code))
  | .int t, .flt g => floatToInt t sat mode r (g.decode code)
  | .int t, .int u => { code := t.word (if sat then satTo t.lo t.hi (u.read code) else u.read code), flags := 0 }

/-- R63, R233: the source of a conversion as a code of its type. -/
def Cx.cvtSrc (c : Cx) (u : CvtType) (x : Src) (l : Nat) : Nat :=
  match cvtKind u with
  | .flt f => c.fsrc f x l
  | .int _ => (c.src x l).toNat

/-- R233: VCVT. -/
def execVcvt (t u : CvtType) (f : UForm) (s : State) : Host.Outcome State Fault Refusal :=
  issue (.vcvt t u f) s fun c =>
    let op := fun (g : UForm) (l : Nat) => convert (cvtKind t) (cvtKind u) c.sat c.mode (c.rword l 0) (c.cvtSrc u g.a l)
    if t == .f64 then s.uFp64 c (.vcvt t u f) f op else s.uFp c (.vcvt t u f) f op

/-! ### QPACK -/

/-- R236: maxF of a type. -/
def packMax : PackType → Nat
  | .e4m3 => 448 | .e5m2 => 57344 | .e2m1 => 6 | .i8 => 127 | .i4 => 7

/-- R236: bits of a packed code. -/
def packBits : PackType → Nat
  | .e2m1 => 4 | .i4 => 4 | _ => 8

/-- R236: the type as a conversion type. -/
def packKind : PackType → CvtKind
  | .e4m3 => .flt .e4m3 | .e5m2 => .flt .e5m2 | .e2m1 => .flt .e2m1
  | .i8 => .int { w := 8, signed := true } | .i4 => .int { w := 4, signed := true }

/-- R236: one scaled element. -/
def packOne (t : PackType) (sat : Bool) (mode : RMode) (r : Nat) (x : Ext) : Rounded :=
  let y := match packKind t with
    | .flt f => f.round mode r x
    | .int u => floatToInt u sat mode r x
  { y with code := y.code % 2 ^ packBits t }

/-- R236: the smallest s from −127 for which every magnitude is at most maxF × 2^s. -/
def packScale (t : PackType) (xs : List Ext) : Int :=
  let fits := fun s : Int => xs.all fun x => match x with
    | .fin _ _ _ => x.magLe (.fin false (packMax t) s)
    | _ => true
  match (List.range 255).find? fun (n : Nat) => fits ((n : Int) - 127) with
  | some n => (n : Int) - 127
  | none => 127

/-- R214, R238: the contributing lanes of the tile that holds a lane. -/
def Cx.tileLanes (c : Cx) (m : LaneMask) (l : Nat) : List Nat :=
  let base := l / c.tile * c.tile
  ((List.range c.tile).map fun i => base + i).filter fun k => m.getLsbD k

/-- R236: the elements of a lane. -/
def Cx.packSrc (c : Cx) (t : PackType) (a : Src) (l : Nat) : List Ext :=
  match a with
  | .v n => (List.range t.count).map fun j => Fmt.fp32.decode (Lanes.at (c.g.regs.vreg (n.toNat + j)) l).toNat
  | _ => []

/-- R236: the scale of each tile, by its first lane. -/
def Cx.packScales (c : Cx) (t : PackType) (a : Src) (m : LaneMask) : Lanes Int :=
  let scales := (List.range (32 / c.tile)).map fun i => packScale t ((c.tileLanes m (i * c.tile)).flatMap (c.packSrc t a))
  Lanes.tabulate fun l => scales.getD (l / c.tile) 0

/-- R236: QPACK in a lane: the codes and the scale byte. -/
def Cx.packLane (c : Cx) (t : PackType) (a : Src) (scale : Int) (l : Nat) : Rounded :=
  let codes := ((c.packSrc t a l).zipIdx).map fun x => (packOne t c.sat c.packMode (c.rword l x.2) (x.1.scale (-scale)), x.2)
  { code := codes.foldl (fun n x => n + x.1.code * 2 ^ (packBits t * x.2)) ((scale + 127).toNat * 2 ^ 24),
    flags := codes.foldl (fun n x => n ||| x.1.flags) 0 }

/-- R236: QPACK. -/
def execQpack (t : PackType) (f : UForm) (s : State) : Host.Outcome State Fault Refusal :=
  issue (.qpack t f) s fun c =>
    let m := c.act (c.uForm f).gd
    let scales := c.packScales t (c.uForm f).a m
    s.uFp c (.qpack t f) f fun g l => c.packLane t g.a (Lanes.at scales l) l

end Sys2Proof.Machine
end

