-- ==== Sys2Proof/Machine/LaneCross.lean ====
section
/-! DEFINITION. Shuffles (R237), the XLANE words (R238, R239), TOPK (R240), and the order of reductions (R214 to
R217). -/

namespace Sys2Proof.Machine

/-! ### Shuffles -/

/-- R237: the value lane `l` receives from a source lane, when that lane is in its tile and active. -/
def Cx.fromLane (c : Cx) (a : Src) (l : Nat) (src : Option Nat) : Word :=
  match src with
  | some k => if k / c.tile == l / c.tile && c.e.active.getLsbD k then c.src a k else c.src a l
  | none => c.src a l

/-- R237: a shuffle, from the source lane of tile index, base, lane and k. -/
def State.shuffle (s : State) (c : Cx) (f : VForm) (pick : Nat → Nat → Option Nat) : State :=
  s.vInt c f fun g l => c.fromLane g.a l (pick l (c.src g.b l).toNat)

/-- R237: SHFI. -/
def execShfi (f : VForm) (s : State) : Host.Outcome State Fault Refusal :=
  issue (.shfi f) s fun c => s.shuffle c f fun l k => some (l / c.tile * c.tile + k % c.tile)

/-- R237: SHFU. -/
def execShfu (f : VForm) (s : State) : Host.Outcome State Fault Refusal :=
  issue (.shfu f) s fun c => s.shuffle c f fun l k => if k ≤ l % c.tile then some (l - k) else none

/-- R237: SHFD. -/
def execShfd (f : VForm) (s : State) : Host.Outcome State Fault Refusal :=
  issue (.shfd f) s fun c => s.shuffle c f fun l k => if l % c.tile + k < c.tile then some (l + k) else none

/-- R237: SHFX. -/
def execShfx (f : VForm) (s : State) : Host.Outcome State Fault Refusal :=
  issue (.shfx f) s fun c => s.shuffle c f fun l k => some (l / c.tile * c.tile + Nat.xor (l % c.tile) k % c.tile)

/-! ### XLANE -/

/-- R238: a U word that gives each lane of act a value from its tile's contributing lanes. -/
def State.tileInt (s : State) (c : Cx) (f : UForm) (op : Src → List Nat → Nat → Word) : State :=
  let g := c.uForm f
  s.uInt c f fun g' l => op g'.a (c.tileLanes (c.act g.gd) l) l

/-- R238: BALLOT. -/
def execBallot (f : UForm) (s : State) : Host.Outcome State Fault Refusal :=
  issue (.ballot f) s fun c => s.tileInt c f fun a ls _ =>
    BitVec.ofNat 32 ((ls.filter fun k => c.src a k != 0).foldl (fun n k => n + 2 ^ (k % c.tile)) 0)

/-- R238: VANY. -/
def execVany (f : UForm) (s : State) : Host.Outcome State Fault Refusal :=
  issue (.vany f) s fun c => s.tileInt c f fun a ls _ => if ls.any fun k => c.src a k != 0 then 1 else 0

/-- R238: VALL. -/
def execVall (f : UForm) (s : State) : Host.Outcome State Fault Refusal :=
  issue (.vall f) s fun c => s.tileInt c f fun a ls _ => if ls.all fun k => c.src a k != 0 then 1 else 0

/-- R238: FIRST. -/
def execFirst (f : UForm) (s : State) : Host.Outcome State Fault Refusal :=
  issue (.first f) s fun c => s.tileInt c f fun a ls l => c.src a (ls.headD l)

/-- R197: an FP32 code with a NaN made canonical. -/
def canon32 (x : Nat) : Nat := if Fmt.fp32.isNan x then Fmt.fp32.nanCode else x

/-- R215, R216: one addition of a reduction, with the random word of tile lane `t` and element `e`. -/
def Cx.addCodes (c : Cx) (t e x y : Nat) : Rounded :=
  c.finish .fp32 t e (Ext.add c.rdn (Fmt.fp32.decode x) (Fmt.fp32.decode y))

/-- R216: the inclusive results after some lanes: lane, code, the code before it, flags. -/
def Cx.prefixSums (c : Cx) (a : Src) : List Nat → Nat → Option Nat → List (Nat × Nat × Nat × FpFlags)
  | [], _, _ => []
  | l :: ls, j, acc =>
    match acc with
    | none => (l, (c.src a l).toNat, 0, 0) :: c.prefixSums a ls (j + 1) (some (c.src a l).toNat)
    | some x =>
      let r := c.addCodes (l % c.tile) j x (c.src a l).toNat
      (l, r.code, x, r.flags) :: c.prefixSums a ls (j + 1) (some r.code)

/-- R216, R239: PSUM.f32 in a lane. Under .x the rounding of the last contributing lane's own sum, which no result shows, is performed and
its flags count (log 53). -/
def Cx.psumF (c : Cx) (x : Bool) (a : Src) (ls : List Nat) (l : Nat) : Rounded :=
  match (c.prefixSums a ls 0 none).find? fun r => r.1 == l with
  | some (_, incl, excl, fl) => { code := canon32 (if x then excl else incl), flags := fl }
  | none => { code := 0, flags := 0 }

/-- R217, R238: PSUM of an integer type in a lane. -/
def Cx.psumI (c : Cx) (x : Bool) (a : Src) (ls : List Nat) (l : Nat) : Word :=
  (ls.filter fun k => k < l || (k == l && !x)).foldl (fun n k => n + c.src a k) 0

/-- R238: PSUM. -/
def execPsum (t : XType) (x : Bool) (f : UForm) (s : State) : Host.Outcome State Fault Refusal :=
  issue (.psum t x f) s fun c =>
    let m := c.act (c.uForm f).gd
    if t == .f32 then s.uFp c (.psum t x f) f fun g l => c.psumF x g.a (c.tileLanes m l) l
    else s.tileInt c f fun a ls l => c.psumI x a ls l

/-- R215: one level of the tree. -/
def Cx.treeLevel (c : Cx) (t k : Nat) : List (Option Rounded) → List (Option Rounded)
  | x :: y :: rest =>
    (match x, y with
     | some p, some q =>
       let r := c.addCodes t k p.code q.code
       some { r with flags := r.flags ||| p.flags ||| q.flags }
     | some p, none => some p
     | none, q => q) :: c.treeLevel t k rest
  | l => l

/-- R215: the root, after `n` levels. -/
def Cx.treeRoot (c : Cx) (t : Nat) : Nat → Nat → List (Option Rounded) → Rounded
  | 0, _, nodes => ((nodes.head?).join).getD { code := 0, flags := 0 }
  | n + 1, k, nodes => c.treeRoot t n (k + 1) (c.treeLevel t k nodes)

/-- R215, R239: RSUM.f32 of the tile that holds a lane. -/
def Cx.rsumF (c : Cx) (a : Src) (m : LaneMask) (l : Nat) : Rounded :=
  let base := l / c.tile * c.tile
  let low := ((c.tileLanes m l).headD base) - base
  let leaf := (List.range c.tile).map fun i =>
    if m.getLsbD (base + i) then some { code := (c.src a (base + i)).toNat, flags := 0 } else none
  let r := c.treeRoot low (Nat.log2 c.tile) 1 leaf
  { r with code := canon32 r.code }

/-- R238: RSUM. -/
def execRsum (t : XType) (f : UForm) (s : State) : Host.Outcome State Fault Refusal :=
  issue (.rsum t f) s fun c =>
    let m := c.act (c.uForm f).gd
    if t == .f32 then s.uFp c (.rsum t f) f fun g l => c.rsumF g.a m l
    else s.tileInt c f fun a ls _ => ls.foldl (fun n k => n + c.src a k) 0

/-- R217, R224, R238: the smaller or larger of two values of a type. -/
def xpick (t : XType) (max : Bool) (x y : Word) : Word :=
  match t with
  | .i32 => if max then imaxWord x y else iminWord x y
  | .n32 => if max then nmaxWord x y else nminWord x y
  | .f32 => BitVec.ofNat 32 (canon32 (Fmt.fp32.pick max x.toNat y.toNat))

/-- R238: the extreme of a tile's contributing lanes. -/
def Cx.extreme (c : Cx) (t : XType) (max : Bool) (a : Src) (ls : List Nat) : Word :=
  match ls with
  | [] => 0
  | k :: rest => rest.foldl (fun x j => xpick t max x (c.src a j)) (if t == .f32 then BitVec.ofNat 32 (canon32 (c.src a k).toNat) else c.src a k)

/-- R238: RMIN. -/
def execRmin (t : XType) (f : UForm) (s : State) : Host.Outcome State Fault Refusal :=
  issue (.rmin t f) s fun c => s.tileInt c f fun a ls _ => c.extreme t false a ls

/-- R238: RMAX. -/
def execRmax (t : XType) (f : UForm) (s : State) : Host.Outcome State Fault Refusal :=
  issue (.rmax t f) s fun c => s.tileInt c f fun a ls _ => c.extreme t true a ls

/-! ### TOPK -/

/-- R240: the rank of a lane among its tile's contributing lanes. -/
def Cx.rank (c : Cx) (a : Src) (ls : List Nat) (l : Nat) : Nat :=
  let key := fun k => Fmt.fp32.rankKey (c.src a k).toNat
  (ls.filter fun k => key l < key k || (key k == key l && k < l)).length

/-- R240: TOPK. -/
def execTopk (f : VForm) (s : State) : Host.Outcome State Fault Refusal :=
  issue (.topk f) s fun c =>
    let m := c.act (c.vForm f).gd
    s.vInt c f fun g l =>
      let r := c.rank g.a (c.tileLanes m l) l
      if r < (c.src g.b l).toNat then BitVec.ofNat 32 r else 0xFFFFFFFF

end Sys2Proof.Machine
end

