-- ==== Sys2Proof/Machine/Issue.lean ====
section
/-! DEFINITION. Issuing an access: its completion, its wait for a walk, its trap, or its deferral with replay (R160,
R266, R267), and the access words. -/

namespace Sys2Proof.Machine

/-- R265: the kind of an instruction's fault entries. -/
def faultKind (i : Instr) : Nat :=
  match i with
  | .st _ => 1 | .stp _ => 1 | .discard _ _ _ => 1 | .tbset _ _ _ => 3 | .bindSlot _ _ _ => 2 | .unbind _ _ _ => 2
  | j => if j.isAtom then 2 else 0

/-- R184: what the region that a store may open captures, as the registers stand before the store. -/
def Cx.before (c : Cx) (g : Group) (i : Instr) : Option Region :=
  match i with
  | .st _ => if c.t.hdr.regions && g.mayOpen && !(c.hs.modh.any ModForm.nt) then some (g.capture c.e.first g.retire) else none
  | _ => none

/-- R261, R266: the operands an access is logged with; the frames of its registers are looked for again at the replay. -/
def Operands.logged (o : Operands) : Operands := o.mapTb TbReg.noFrame

/-- R266: the operand-log entry of a faulted access. -/
def Cx.logEntry (c : Cx) (g : Group) (i : Instr) (o : Operands) (fs : List FaultRef) (a : DWord) (m : LaneMask) : LogEntry :=
  { id := g.log.foldl (fun n l => max n (l.id + 1)) 0, instr := i, word := wordOfInstr i, ref := c.e.first, rpt := c.e.rpt,
    mask := c.e.active, strand := c.k, ops := o.logged, faults := fs, addr := a, lanes := m, inRegion := g.region.isSome,
    level := g.ctxs.length, before := c.before g i, turned := c.e.turned }

/-- R265, R266: defer an access: its fault entries are queued, it takes a log entry, and the group goes on. -/
def State.defer_ (s : State) (c : Cx) (i : Instr) (o : Operands) (fs : List PageFault) (a : DWord) (m : LaneMask) : State :=
  let s1 := s.updPart c.p.id fun p => { p with xlat := p.xlat.forget (fs.map fun f => f.va / 4096) }
  let r := s1.queueFaults c.p.id (faultKind i) (c.p.relHall c.t.hall) c.e.pc.bits fs
  r.1.updGroup c.gi fun g => { g with log := g.log ++ [c.logEntry g i o r.2 a m] }

/-- R21, R148, R267: split the missing lanes of a load off, when there are two free entries and the device does. -/
def Cx.missTwo (c : Cx) (n : Nat) (d : Done) : Option (Fin 8 × Fin 8) :=
  if d.miss == 0 || d.miss == d.mask || Config.freePick n c.gi % 2 == 0 then none else c.g.freeTwo

/-- R148: the load retires with its missing lanes in a strand of their own. They bring what the load drew at its issue, DESIGN CHOICE (log 68). -/
def State.retireMiss (s : State) (c : Cx) (d : Done) (m j : Fin 8) : State :=
  let ctl := c.g.ctl.missSplit c.k m j c.e c.next d.miss (d.writes.map fun w => w.1) { mask := d.miss, writes := d.writes }
  (((s.updGroup c.gi fun g =>
      Group.settle { g with ctl := ctl, retire := g.retire + 1, regs := Regs.writeLanes (d.mask &&& ~~~d.miss) g.regs d.writes }).countRetired
        c.p.id).yieldAfter c).due (.missDataArrival c.gi)

/-- R274: what an access comes to at its issue; `closes` says that the word closes an open region (R56). -/
def State.finishAccess (s : State) (c : Cx) (i : Instr) (o : Operands) (closes : Bool) (acc : Acc) : State :=
  let close := fun s : State => if closes then s.closeRegion c else s
  match acc with
  | .wait pages => (s.askWalks c.p.id (s.sitesOf c.t.hall) pages).setWait c .walk
  | .trap cause a m => s.trap c (wordOfInstr i) cause 0 a m
  | .page fs a m => if c.g.logUsed ≥ 4 then s.setWait c .logFull else (close (s.defer_ c i o fs a m)).retire c
  | .done d =>
    match d.more, c.missTwo s.free d with
    | some got, _ => ((d.st.endRegion c).updGroup c.gi (Group.setEntry c.k fun e => { e with turned := got })).setWait c .walk
    | none, some (m, j) => d.st.retireMiss c d m j
    | none, none =>
      (close (d.st.setRegs c fun r =>
        let r1 := Regs.writeLanes d.mask r d.writes
        match d.scalar with
        | some x => r1.setS x.1 x.2
        | none => r1)).retire c

/-- The group of a context, with its team and partition. -/
def Cx.who (c : Cx) : Who := { gi := c.gi, g := c.g, t := c.t, p := c.p }

/-- An empty translation base register, for accesses that name none. -/
def TbReg.none : TbReg :=
  { base := 0, limit := 0, wr := false, dsc := false, shr := false, frame := Option.none }

/-- The operands of an M word. -/
def Cx.mOps (c : Cx) (f : MForm) (scale : Nat) (data : Bool) : Operands :=
  { act := c.act f.gd, x := c.srcLanes f.x, data := if data then c.g.regs.run f.d.toNat (sizeRegs f.size) else [],
    off := c.hs.offset scale f.imm, tb := c.g.regs.tbReg f.tb, tbn := some f.tb, hints := c.e.hints, chain := none }

/-- The operands of an LDS, STS, LDP or STP word. -/
def Cx.lOps (c : Cx) (f : LForm) (scale : Nat) (data : Bool) : Operands :=
  { act := c.act f.gd, x := c.srcLanes f.x, data := if data then c.g.regs.run f.d.toNat (sizeRegs f.size) else [],
    off := c.hs.offset scale f.imm, tb := TbReg.none, tbn := none, hints := c.e.hints, chain := none }

/-- R276: LD. -/
def execLd (f : MForm) (s : State) : Host.Outcome State Fault Refusal :=
  issue (.ld f) s fun c =>
    let o := c.mOps f (sizeBytes f.size) false
    s.finishAccess c (.ld f) o false (s.loadGlobal c.who f.size f.d o)

/-- R277: SLD. -/
def execSld (d : SReg) (tb : BitVec 3) (x : Src) (imm : BitVec 3) (s : State) : Host.Outcome State Fault Refusal :=
  issue (.sld d tb x imm) s fun c =>
    let o : Operands := { act := 1, x := c.srcLanes x, data := [], off := c.hs.offset 4 imm, tb := c.g.regs.tbReg tb, tbn := some tb, hints := c.e.hints, chain := none }
    s.finishAccess c (.sld d tb x imm) o false (s.loadScalar c.who d o)

/-- R278: ST. -/
def execSt (f : MForm) (s : State) : Host.Outcome State Fault Refusal :=
  issue (.st f) s fun c =>
    let o := c.mOps f (sizeBytes f.size) true
    s.finishAccess c (.st f) o (c.hs.modh.any ModForm.nt) (s.storeGlobal c.who f.size o (Group.autoRegion c.t.hdr c.e.first c.g.retire))

/-- R279: LDS. -/
def execLds (f : LForm) (s : State) : Host.Outcome State Fault Refusal :=
  issue (.lds f) s fun c =>
    let o := c.lOps f (sizeBytes f.size) false
    s.finishAccess c (.lds f) o false (s.loadSpad c.who f.size f.d o)

/-- R279: STS. -/
def execSts (f : LForm) (s : State) : Host.Outcome State Fault Refusal :=
  issue (.sts f) s fun c =>
    let o := c.lOps f (sizeBytes f.size) true
    s.finishAccess c (.sts f) o false (s.storeSpad c.who f.size o)

/-- R280: LDP. -/
def execLdp (f : LForm) (s : State) : Host.Outcome State Fault Refusal :=
  issue (.ldp f) s fun c =>
    let o := c.lOps f (privWords f.size) false
    s.finishAccess c (.ldp f) o false (s.loadPriv c.who f.size f.d o)

/-- R280: STP. -/
def execStp (f : LForm) (s : State) : Host.Outcome State Fault Refusal :=
  issue (.stp f) s fun c =>
    let o := c.lOps f (privWords f.size) true
    s.finishAccess c (.stp f) o false (s.storePriv c.who f.size o)

/-! ### Atomics -/

/-- R281: the operands of an atomic: the registers from d, and the offset of IMM hints. -/
def Cx.aOps (c : Cx) (f : AForm) (n : Nat) : Operands :=
  { act := c.act f.gd, x := c.srcLanes f.x, data := c.g.regs.run f.d.toNat n, off := c.hs.imm 0 0, tb := c.g.regs.tbReg f.tb,
    tbn := some f.tb, hints := c.e.hints, chain := none }

/-- R56, R281: issue an atomic, which closes an open region. -/
def State.issueAtom (s : State) (c : Cx) (i : Instr) (op : AtomOp) (f : AForm) : State :=
  let o := c.aOps f 4
  s.finishAccess c i o true (s.atomic c.who op f o (fun s1 => (s1.endRegion c).unpin c.p.id) c.e.turned)

/-- R281: ATOM.SWAP. -/
def execAtomSwap (f : AForm) (s : State) : Host.Outcome State Fault Refusal :=
  issue (.atomSwap f) s fun c => s.issueAtom c (.atomSwap f) .swap f

/-- R281: ATOM.ADD. -/
def execAtomAdd (f : AForm) (s : State) : Host.Outcome State Fault Refusal :=
  issue (.atomAdd f) s fun c => s.issueAtom c (.atomAdd f) .add f

/-- R281: ATOM.AND. -/
def execAtomAnd (f : AForm) (s : State) : Host.Outcome State Fault Refusal :=
  issue (.atomAnd f) s fun c => s.issueAtom c (.atomAnd f) .and f

/-- R281: ATOM.OR. -/
def execAtomOr (f : AForm) (s : State) : Host.Outcome State Fault Refusal :=
  issue (.atomOr f) s fun c => s.issueAtom c (.atomOr f) .or f

/-- R281: ATOM.XOR. -/
def execAtomXor (f : AForm) (s : State) : Host.Outcome State Fault Refusal :=
  issue (.atomXor f) s fun c => s.issueAtom c (.atomXor f) .xor f

/-- R281: ATOM.MIN. -/
def execAtomMin (f : AForm) (s : State) : Host.Outcome State Fault Refusal :=
  issue (.atomMin f) s fun c => s.issueAtom c (.atomMin f) .min f

/-- R281: ATOM.MAX. -/
def execAtomMax (f : AForm) (s : State) : Host.Outcome State Fault Refusal :=
  issue (.atomMax f) s fun c => s.issueAtom c (.atomMax f) .max f

/-- R281: ATOM.NMIN. -/
def execAtomNmin (f : AForm) (s : State) : Host.Outcome State Fault Refusal :=
  issue (.atomNmin f) s fun c => s.issueAtom c (.atomNmin f) .nmin f

/-- R281: ATOM.NMAX. -/
def execAtomNmax (f : AForm) (s : State) : Host.Outcome State Fault Refusal :=
  issue (.atomNmax f) s fun c => s.issueAtom c (.atomNmax f) .nmax f

/-- R281: ATOM.CAS. -/
def execAtomCas (f : AForm) (s : State) : Host.Outcome State Fault Refusal :=
  issue (.atomCas f) s fun c => s.issueAtom c (.atomCas f) .cas f

/-- R281: ATOM.FADD. -/
def execAtomFadd (f : AForm) (s : State) : Host.Outcome State Fault Refusal :=
  issue (.atomFadd f) s fun c => s.issueAtom c (.atomFadd f) .fadd f

/-- R281: ATOM.LOAD. -/
def execAtomLoad (f : AForm) (s : State) : Host.Outcome State Fault Refusal :=
  issue (.atomLoad f) s fun c => s.issueAtom c (.atomLoad f) .load f

/-- R281: ATOM.STORE. -/
def execAtomStore (f : AForm) (s : State) : Host.Outcome State Fault Refusal :=
  issue (.atomStore f) s fun c => s.issueAtom c (.atomStore f) .store f

/-! ### APPEND -/

/-- R241: the tiles of APPEND with contributing lanes: the lowest lane and all of them. -/
def Cx.appendTiles (c : Cx) (m : LaneMask) : List (Nat × List Nat) :=
  (List.range (32 / c.tile)).filterMap fun i =>
    match c.tileLanes m (i * c.tile) with
    | [] => none
    | l :: ls => some (l, l :: ls)

/-- R241: one tile's read-modify-write: each lane's result, and the state after it. -/
def Cx.appendTile (c : Cx) (f : VForm) (s : State) (x : Nat × List Nat) : State × List (Nat × Word) :=
  let off := (c.src f.a x.1).toNat
  let old := ((s.teams[c.g.team]?).map fun t => t.spad.num off 4).getD 0
  let total := x.2.foldl (fun n l => n + (c.src f.b l).toNat) 0
  let before := fun l => (x.2.filter fun m => m < l).foldl (fun n m => n + (c.src f.b m).toNat) 0
  (s.spadWrite c.g.team c.gi off (natLe 4 ((old + total) % 2 ^ 32)),
   x.2.map fun l => (l, BitVec.ofNat 32 (old + before l)))

/-- R241, R448: the location of a tile's counter. -/
def State.appendPlace (s : State) (c : Cx) (f : VForm) (x : Nat × List Nat) : AtomPlace :=
  spadPlace_ ((s.recorded c.p c.t).getD 0) c.t x.1 (c.src f.a x.1).toNat

/-- R241: every tile has been performed: the lanes receive their results, and the word retires. -/
def State.appendEnd (s : State) (c : Cx) (f : VForm) (m : LaneMask) (got : List (Nat × Word)) : State :=
  let res : Lanes Word := Lanes.tabulate fun l => ((got.find? fun x => x.1 == l).map fun x => x.2).getD 0
  ((s.setRegs c (Regs.laneWrite f.wb f.d m res)).closeRegion c).retire c

/-- R241, R242: the next tile of an APPEND; after the last one the word ends. -/
def State.appendNext (s : State) (c : Cx) (f : VForm) (m : LaneMask) (x : Nat × List Nat) (more : List (Nat × List Nat)) : State :=
  let r := c.appendTile f s x
  let got := c.e.appended ++ r.2
  let s1 := r.1.noteAtoms c.p c.t c.g [s.appendPlace c f x]
  match more with
  | [] => s1.appendEnd c f m got
  | _ :: _ => (s1.endRegion c).updGroup c.gi (Group.setEntry c.k fun e => { e with appended := got })

/-- R241, R242, R449: APPEND: each step performs one tile, so that another group's may fall between two; in a rerun a tile waits for its
turn. -/
def execAppend (f : VForm) (s : State) : Host.Outcome State Fault Refusal :=
  issue (.append f) s fun c =>
    let g := c.vForm f
    let m := c.act g.gd
    let tiles := (c.appendTiles m).filter fun x => !c.e.appended.any fun d => d.1 == x.1
    let firsts := LaneMask.ofFn fun l => tiles.any fun t => t.1 == l
    match spadFault c.who firsts 4 4 (fun l => (c.src g.a l).toNat), tiles with
    | some (cause, a, lanes), _ => s.trap c (wordOfInstr (.append f)) cause 0 a lanes
    | none, [] => s.appendEnd c g m c.e.appended
    | none, x :: more =>
      match s.turn c.p c.t c.g (s.appendPlace c g x) with
      | .wait => s
      | .go => s.appendNext c g m x more
      | .diverge q => (s.diverge_ c.p.id q).appendNext c g m x more

end Sys2Proof.Machine
end

