-- ==== Sys2Proof/Machine/MemCtl.lean ====
section
/-! DEFINITION. The MEMCTL words (R283 to R293, R54, R55) and KTIE (R181). -/

namespace Sys2Proof.Machine

/-! ### Group-level accesses -/

/-- The bytes of a group-level word, page by page, so that a fault names the first that fails (R128, R289). -/
def oneSpan (va : Int) (n : Nat) : List Span :=
  if va < 0 then [{ lane := 0, runs := [(va, n)] }]
  else (cutRun (n / 4096 + 2) va.toNat n).map fun r => { lane := 0, runs := [((r.1 : Int), r.2)] }

/-- A group-level word's faults name no lane. -/
def Acc.noLanes (a : Acc) : Acc :=
  match a with
  | .trap cause x _ => .trap cause x 0
  | .page fs x _ => .page fs x 0
  | r => r

/-- A group-level word's operands: an address part and a count. -/
def Cx.ctlOps (c : Cx) (tb : TbReg) (off count : Nat) : Operands :=
  { act := 0, x := Lanes.all 0, data := [Lanes.all (BitVec.ofNat 32 count)], off := off, tb := tb, tbn := none, hints := c.e.hints, chain := none }

/-! ### TBSET -/

/-- R260: the register that TBSET leaves, of the page that holds its base. -/
def TbReg.load (base : DWord) (req : Word) (x : Xlate) : TbReg :=
  { base := base, limit := BitVec.ofNat 32 (min req.toNat (x.va + x.bytes + x.more - base.toNat)), wr := x.w1 && x.w2, dsc := x.dsc,
    shr := x.shr, frame := some x }

/-- R260, R284: TBSET of a register, with the base and requested limit it was issued with. -/
def State.tbset (s : State) (w : Who) (tb : BitVec 3) (o : Operands) : Acc :=
  (s.accessMem w .load o 1 (oneSpan o.tb.base.toNat 1) (fun _ _ => none) fun s1 xs =>
    match xs with
    | [{ found := .hit x, .. }] =>
      Done.plain (s1.updGroup w.gi fun g => { g with regs := g.regs.setTb tb (TbReg.load o.tb.base o.tb.limit x) })
    | _ => Done.plain s1).noLanes

/-- R284: TBSET. -/
def execTbset (tb : BitVec 3) (p l : SReg) (s : State) : Host.Outcome State Fault Refusal :=
  issue (.tbset tb p l) s fun c =>
    let o := c.ctlOps { TbReg.none with base := c.g.regs.spair p.val, limit := c.g.regs.sreg l.val } 0 0
    s.finishAccess c (.tbset tb p l) o false (s.tbset c.who tb o)

/-! ### Phase words -/

/-- R285: COMMIT; at h or wider it closes an open region. -/
def execCommitAt (sc : Scope) (s : State) : Host.Outcome State Fault Refusal :=
  issue (.commitAt sc) s fun c =>
    let s1 := s.commitGroup c.gi sc
    (if sc == .g then s1 else s1.closeRegion c).retire c

/-- R286: BEGIN. -/
def execBeginAt (sc : Scope) (s : State) : Host.Outcome State Fault Refusal :=
  issue (.beginAt sc) s fun c => (s.beginGroup c.gi sc).retire c

/-- R50, R287: FENCE; every earlier access that is not buffered is performed already. -/
def execFence (sc : Scope) (s : State) : Host.Outcome State Fault Refusal :=
  issue (.fence sc) s fun c => (if sc == .g then s else s.updGroup c.gi fun g => { g with fence := s.seq }).retire c

/-- R54, R288: DRAIN; it closes an open region at every scope (R56). -/
def execDrain (sc : Scope) (s : State) : Host.Outcome State Fault Refusal :=
  issue (.drain sc) s fun c => ((s.drainGroup c.gi sc).closeRegion c).retire c

/-! ### DISCARD -/

/-- R55: a sector as it was last written back to memory, in plaintext; one that never was reads as its page was scrubbed. -/
def Homes.backSector (h : Homes) (sec : Nat) : List Byte :=
  let raw := h.backing.readN (32 * sec) 32
  match h.seal? sec with
  | none => raw
  | some x => if raw.all (· == 0) then raw else openSector x.material (keyAddr (32 * sec)) raw

/-- R55: a granule as it was last written back. -/
def Homes.backGran (h : Homes) (gran : Nat) : List Byte := ((h.backSector (gran / 2)).drop (16 * (gran % 2))).take 16

/-- R55: what the DISCARD of a granule leaves: the value it held or the one last written back, and the other of them. -/
def State.discardPick (s : State) (gran : Nat) : List Byte × List Byte :=
  let held := s.mem.readN (16 * gran) 16
  let back := s.homes.backGran gran
  if Config.freePick s.free gran % 2 == 0 then (held, back) else (back, held)

/-- R55: after a DISCARD a reader is given one of two values of a granule, and none that is older; what other groups have committed at h stays
in the hall's buffer, over either. -/
def State.discardGran (k : CommitKind) (s : State) (gran : Nat) : State :=
  let v := s.discardPick gran
  let others := s.hist.filter fun c => c.gran != gran
  let buffer := s.hist.filter fun c => c.gran == gran && !c.atHome
  { s with
    mem := s.mem.writeN (16 * gran) v.1
    hist := buffer ++ { s.commitOf k { gran := gran, bytes := v.1.map some } with prior := v.2, seq := 0 } :: others }

/-- R55: what DISCARD takes from a group and its hall: buffered stores to some lines, and L1's copies. -/
def State.discardLocal (s : State) (w : Who) (lines : List Nat) : State :=
  let here := fun gran : Nat => lines.contains (gran / 8)
  let s1 := s.updGroup w.gi fun g => { g with stores := g.stores.filter fun o => o.nt || !here (granOf o.key) }
  { s1 with hist := s1.hist.filter fun c => !(here c.gran && !c.atHome && c.party.group == some w.gi) }.updHall w.t.hall fun h =>
    { h with l1 := h.l1.filter fun l => l.owner.isSome || !lines.contains l.line }

/-- R55: some lines leave L2 and the memory-side cache without write-back; their system homes hold what is left of them. -/
def State.discardHomes (s : State) (lines : List Nat) : State :=
  let h : Homes :=
    { s.homes with l2 := s.homes.l2.filter fun l => !lines.contains l.line, msc := s.homes.msc.filter fun l => !lines.contains l.line }
  { s with homes := (lines.flatMap fun l => (List.range 4).map fun i => 4 * l + i).foldl (fun h sec =>
      h.putSector sec (s.mem.readN (32 * sec) 32)) h }

/-- R55, R291: discard some lines, by number, for a group. -/
def State.discardLines (s : State) (w : Who) (lines : List Nat) : State :=
  let grans := lines.flatMap fun l => (List.range 8).map fun i => 8 * l + i
  let k : CommitKind := { party := .outside, scope := .y, atHome := true, atomic := false, sector := false, discard := true }
  let s1 := (grans.foldl (State.discardGran k) (s.discardLocal w lines)).discardHomes lines
  let s2 := grans.foldl State.written s1
  { s2 with seq := s2.seq + 1 }

/-- R258, R289: a page that DISCARD may not reach: one that refuses the access, or one of a peer, whether its lease was given or denied, and
whether it may be written or not. -/
def Piece.noDiscard (p : Part) (sites : List TlbSite) (x : Piece) : Bool :=
  (match x.found with
   | .fault .access => true
   | .fault (.page _ reason _ _) => reason == 3
   | _ => false) ||
    (p.xlat.lookup sites x.va.toNat).any fun t => keyClass t.key == 2

/-- R55, R289: DISCARD of lines from an offset of a translation base register. -/
def State.discard (s : State) (w : Who) (o : Operands) : Acc :=
  let count := (Lanes.at (o.data.headD (Lanes.all 0)) 0).toNat
  let start : Int := o.tb.base.toNat + o.off
  if start % 128 != 0 then .trap .align (BitVec.ofInt 64 start) 0
  else if count != 0 && (classBase : Int) < start + 128 * count then .trap .access (BitVec.ofInt 64 (max start classBase)) 0
  else
    let spans := if count = 0 then [] else oneSpan start (128 * count)
    let sites := s.sitesOf w.t.hall
    match s.reach w.p sites .store true spans, (spans.flatMap (s.pieces w.p sites .store true)).find? (Piece.noDiscard w.p sites) with
    | .wait pages, _ => .wait pages
    | _, some x => .trap .access (BitVec.ofInt 64 x.va) 0
    | .trap cause a _, none => .trap cause a 0
    | .page fs a _, none => .page fs a 0
    | .ok xs, none =>
      let lines := ascending (xs.flatMap fun x => (List.range (x.len / 128)).map fun i => lineOf (x.key + 128 * i))
      .done { Done.plain (((s.usedWalks w.p.id sites xs).discardLines w lines).spend) with mask := 0 }

/-- R289: DISCARD. -/
def execDiscard (tb : BitVec 3) (o n : SReg) (s : State) : Host.Outcome State Fault Refusal :=
  issue (.discard tb o n) s fun c =>
    let ops := c.ctlOps (c.g.regs.tbReg tb) (c.g.regs.sreg o.val).toNat (c.g.regs.sreg n.val).toNat
    s.finishAccess c (.discard tb o n) ops true (s.discard c.who ops)

/-! ### PFETCH -/

/-- R290: the translation of an address that a load would reach without a fault; a peer's page only where its lease is held already. -/
def State.prefetchable (s : State) (p : Part) (sites : List TlbSite) (va : Nat) : Option Xlate :=
  let allowed := fun x : Xlate => if (permit p .load x va).isNone then some x else none
  if classBase ≤ va || s.meetsPrivate p va 1 then none
  else
    match p.xlat.lookup sites va with
    | some x => allowed x
    | none =>
      match s.translate (s.unreadable p) p va with
      | .ok x => if keyClass x.key == 2 then none else allowed x
      | .error _ => none

/-- R290: one lane of PFETCH: the line of an address comes to L2 and L1. -/
def State.prefetch (c : Cx) (s : State) (va : Nat) : State :=
  match s.prefetchable c.p (s.sitesOf c.t.hall) va with
  | some x =>
    let line := lineOf (x.at va)
    s.touchL1 c.t.hall { pid := c.p.id, va := va, key := x.at va, len := 1, cnt := x.cnt, shr := x.shr } line
  | none => s

/-- R290: PFETCH. -/
def execPfetch (tb : BitVec 3) (x : Src) (s : State) : Host.Outcome State Fault Refusal :=
  issue (.pfetch tb x) s fun c =>
    (((LaneMask.lanes c.e.active).map fun l => (c.g.regs.tbReg tb).base.toNat + (c.src x l).toNat).foldl (State.prefetch c) (s.markLost c.t.hall)).retire c

/-! ### WATCH and WAITW -/

/-- R291: arm a watch on a line. -/
def Group.arm (line : Nat) (g : Group) : Group :=
  if g.watch.any fun w => w.line == line then g
  else { g with watch := (if g.watch.length < 8 then g.watch else g.watch.drop 1) ++ [{ line := line, fired := false }] }

/-- R291: WATCH of an address: class 00 only. A class 10 page whose lease is denied gives the PAGE of its translation, DESIGN CHOICE (log 65). -/
def State.watch (s : State) (w : Who) (o : Operands) : Acc :=
  match s.reach w.p (s.sitesOf w.t.hall) .load true (oneSpan (o.tb.base.toNat + o.off) 1) with
  | .wait pages => .wait pages
  | .trap cause a _ => .trap cause a 0
  | .page fs a _ => .page fs a 0
  | .ok xs =>
    match xs.head? with
    | some x =>
      if keyClass x.key != 0 then .trap .access (BitVec.ofInt 64 x.va) 0
      else .done (Done.plain ((s.usedWalks w.p.id (s.sitesOf w.t.hall) xs).updGroup w.gi (Group.arm (lineOf x.key))))
    | none => .done (Done.plain s)

/-- R291: WATCH. -/
def execWatch (tb : BitVec 3) (o : SReg) (s : State) : Host.Outcome State Fault Refusal :=
  issue (.watch tb o) s fun c =>
    let ops := c.ctlOps (c.g.regs.tbReg tb) (c.g.regs.sreg o.val).toNat 0
    s.finishAccess c (.watch tb o) ops false (s.watch c.who ops)

/-- R292: WAITW. -/
def execWaitw (s : State) : Host.Outcome State Fault Refusal :=
  issue .waitw s fun c =>
    if c.g.watch.isEmpty || c.g.wakes || c.e.grant == some .woken then
      ((s.updGroup c.gi fun g => { g with watch := g.watch.map fun w => { w with fired := false } }).beginGroup c.gi .y).retire c
    else s.holdWord c .watch

/-! ### STEP and KTIE -/

/-- R255, R293: STEP. -/
def execStepCounter (x : SOp) (s : State) : Host.Outcome State Fault Refusal :=
  issue (.stepCounter x) s fun c =>
    (s.updPart c.p.id fun p => { p with xlat := { p.xlat with l2step := p.xlat.l2step + c.sop x } }).retire c

/-- R181: the tie of a knot to the word at an address. -/
def State.ktie (s : State) (w : Who) (k : Nat) (o : Operands) : Acc :=
  (s.accessMem w .load o 4 (oneSpan o.tb.base.toNat 4) (fun _ _ => none) fun s1 xs =>
    match xs with
    | x :: _ => Done.plain (s1.updTeam w.g.team fun t => { t with knots := listModify t.knots k fun kn => { kn with tie := some x.key } })
    | [] => Done.plain s1).noLanes

/-- R181: KTIE. -/
def execKtie (k : BitVec 8) (r : SReg) (s : State) : Host.Outcome State Fault Refusal :=
  issue (.ktie k r) s fun c =>
    let o := c.ctlOps { TbReg.none with base := c.g.regs.spair r.val } 0 0
    s.finishAccess c (.ktie k r) o false (s.ktie c.who k.toNat o)

end Sys2Proof.Machine
end

