-- ==== Sys2Proof/Machine/Trap.lean ====
section
/-! DEFINITION. TRAP (R186), and the return from a trap (R187, R459), which a parked group's resumption shares
(R396). -/

namespace Sys2Proof.Machine

/-- R75, R186: the detail of TRAP. -/
def Cx.trapDetail (c : Cx) (code : BitVec 20) : Word := if c.hs.imms.isEmpty then code.zeroExtend 32 else wordOf (c.hs.imm 20 code.toNat)

/-- R186: TRAP raises SOFTWARE, resuming at the word after it. -/
def execTrap (code : BitVec 20) (s : State) : Host.Outcome State Fault Refusal :=
  issue (.trap code) s fun c =>
    (s.countIssued c.p.id).takeTrap c.gi c.p
      { cause := .software, detail := c.trapDetail code, addr := 0, lanes := 0, ref := c.e.pc.add 4, former := c.e.active,
        word := wordOfInstr (.trap code), hint1 := c.e.hints.getD 0 0, hint2 := c.e.hints.getD 1 0, rpt := 0, deferred := none }

/-- R152: the frame and the latches as the group reads them from its save slot. -/
def State.readSlot (s : State) (w : Who) : Option (List Byte) :=
  s.readVa w.p (s.readerOf w.gi) w.g.stores s.free w.g.ctrl.frame.toNat saveSlotBytes

/-- R187: the latches and validity bits of a save slot. -/
def Regs.reloadLatches (slot : List Byte) (r : Regs) : Regs :=
  let flags := fieldAt slot 1 1
  { r with
    b := Vector.ofFn fun (j : Fin 4) => Lanes.tabulate fun l => BitVec.ofNat 64 (fieldAt slot (64 + (32 * j.val + l) * 8) 8)
    bOk := Vector.ofFn fun (j : Fin 4) => flags / 2 ^ j.val % 2 == 1 }

/-- R187, R459: the strand that a trap came from: its active set from the frame, its owned set kept. At the issue point
that a deferred trap froze, its hints, repeats and wait stand. -/
def Entry.resume (deferred : Bool) (mask : LaneMask) (dst : CodeRef) (rpt : Nat) (e : Entry) : Entry :=
  if deferred && dst == e.first then { e with active := mask &&& e.owned }
  else
    { e with pc := dst, active := mask &&& e.owned, hints := [], rpt := rpt, wait := .ready, grant := none,
             drawn := (if dst == e.first then e.drawn else none), appended := (if dst == e.first then e.appended else []),
             turned := if dst == e.first then e.turned else [] }

/-- R187, R459: the log after TRET: the deferred access replays, or is discarded. -/
def resumeLog (deferred : Option Nat) (keep : Bool) (log : List LogEntry) : List LogEntry :=
  match deferred with
  | none => log
  | some id => if keep then log.map fun l => if l.id == id then { l with faults := [] } else l else log.filter fun l => l.id != id

/-- R187: the group after TRET with the slot's bytes. -/
def Group.endTrap (slot : List Byte) (x : Ctx) (rest : List Ctx) (g : Group) : Group :=
  let back := Entry.resume x.deferred.isSome (BitVec.ofNat 32 (fieldAt slot 0x1C 4)) (CodeRef.ofBits (BitVec.ofNat 64 (fieldAt slot 8 8)))
    (fieldAt slot 2 1 % 64)
  let g1 : Group :=
    { g with ctl := x.ctl.put x.ctl.cur ((x.ctl.get x.ctl.cur).map back), ctxs := rest, regs := g.regs.reloadLatches slot,
             ctrl := { g.ctrl with rptIdx := BitVec.ofNat 6 (fieldAt slot 2 1) },
             log := resumeLog x.deferred (fieldAt slot 1 1 / 64 % 2 == 1) g.log }
  Group.wake (fun w => w == .fault || w == .logFull) g1.settle

/-- R275, R434: an error in the save slot that the group reads back. -/
def State.slotError (s : State) (w : Who) : Option Cause :=
  let bad := (Machine.pieces (saveSlotBytes + 1) w.g.ctrl.frame.toNat (List.replicate saveSlotBytes 0)).any fun pc =>
    (s.vaXlate w.p pc.1).any fun x =>
      s.poisonNow.contains (granOf (x.at pc.1)) && (List.range pc.2.length).any fun i => (ownByte w.g.stores (x.at pc.1 + i)).isNone
  if bad then some .memoryError else if s.tornVa w.p w.g.ctrl.frame.toNat saveSlotBytes then some .integrity else none

/-- R187: the frame may be returned to: the slot reads, and its code reference passes R131. A slot that does not translate raises ACCESS,
as a code reference that fails (log 51). -/
def State.returnSlot (s : State) (w : Who) : Except Cause (List Byte) :=
  match s.readSlot w, s.slotError w with
  | none, _ => .error .access
  | some _, some cause => .error cause
  | some slot, none => if w.p.refOk (CodeRef.ofBits (BitVec.ofNat 64 (fieldAt slot 8 8))) then .ok slot else .error .access

/-- R187, R266: leave the trap handler; the group's faulted accesses may replay. -/
def State.endTrap (s : State) (w : Who) (slot : List Byte) (x : Ctx) (rest : List Ctx) : State :=
  let s1 := (s.updGroup w.gi (Group.endTrap slot x rest)).spend
  if (s1.groups[w.gi]?).any fun g => !g.activeLog.isEmpty then s1.due (.faultReplay w.gi) else s1

/-- R187: TRET. -/
def execTret (s : State) : Host.Outcome State Fault Refusal :=
  issue .tret s fun c =>
    match c.g.ctxs with
    | x :: rest =>
      if x.landing then s.trap c (wordOfInstr .tret) .badHandle 0 0 0
      else
        match s.returnSlot c.who with
        | .ok slot =>
          (((((s.updGroup c.gi fun g => { g with retire := g.retire + 1 }).endTrap c.who slot x rest).countRetired c.p.id).unpin c.p.id).yieldAfter c)
        | .error cause => s.trap c (wordOfInstr .tret) cause 0 0 0
    | [] => s.trap c (wordOfInstr .tret) .badHandle 0 0 0

/-! ### Deferred traps -/

/-- R459: the strand at whose issue point a deferred trap is taken: the one that issued last, else the first. -/
def Group.issueStrand (g : Group) : Option (Fin 8) :=
  match g.ctl.get g.ctl.cur with
  | some e => if e.kind == .strand && e.wait != .data then some g.ctl.cur else (g.ctl.indexes fun e => e.kind == .strand && e.wait != .data).head?
  | none => (g.ctl.indexes fun e => e.kind == .strand && e.wait != .data).head?

/-- R266, R459: a trap at the replay of a deferred access. The access's log entry is kept. -/
def State.deferTrap (s : State) (w : Who) (l : LogEntry) (cause : Cause) (detail : Word) (addr : DWord) (lanes : LaneMask) : State :=
  match w.g.issueStrand with
  | none => s
  | some k =>
    match w.g.ctl.get k with
    | none => s
    | some e =>
      (s.updGroup w.gi fun g => { g with ctl := { g.ctl with cur := k } }).takeTrap w.gi w.p
        { cause := cause, detail := detail, addr := addr, lanes := lanes, ref := e.first, former := e.active, word := l.word,
          hint1 := l.ops.hints.getD 0 0, hint2 := l.ops.hints.getD 1 0, rpt := l.rpt, deferred := some l.id }

end Sys2Proof.Machine
end

