-- ==== Sys2Proof/Machine/Matrix.lean ====
section
/-! DEFINITION. Slots, tiles and the carry gallery (R329 to R332, R337 to R341), and the MATCTL words (R355 to R359). -/

namespace Sys2Proof.Machine

/-! ### Collective words -/

/-- R329: one strand, every lane active, no lane exited. -/
def Cx.collective (c : Cx) : Bool :=
  (c.g.ctl.indexes fun e => e.kind == .strand).length == 1 && c.g.ctl.serial.isEmpty && c.e.active == allLanes && c.e.owned == allLanes

/-- R329, R345: issue a matrix word, which waits for a chain of another group on its slot. -/
def issueMatrix (i : Instr) (s : State) (k : Cx → State) : Host.Outcome State Fault Refusal :=
  issue i s fun c =>
    if !c.collective then s.trap c (wordOfInstr i) .illegalConvergence 0 0 0
    else if s.slotBusy c i then s.holdWord c .chain
    else k c

/-- R331: the word is refused by a slot. -/
def State.badSlot (s : State) (c : Cx) (i : Instr) (z : BitVec 2) : State :=
  s.trap c (wordOfInstr i) .badHandle (BitVec.ofNat 32 z.toNat) 0 0

/-- R355: ZERO. -/
def execZero (z : BitVec 2) (t : BitVec 8) (s : State) : Host.Outcome State Fault Refusal :=
  issueMatrix (.zero z t) s fun c =>
    ((((s.updTeam c.g.team fun x => { x with tiles := x.tiles.clear (tileAt t.toNat) 4096 }).setSlot c.g.team z.toNat
      { Slot.empty with bound := some (t.toNat, .opened) }).dropPool c.t.hall fun e => e.team == c.g.team && e.slot.val == z.toNat)).retire c

/-- R332: the bytes a float slot drains. -/
def drainBytes (k : SlotKind) (x : Slot) : List Byte :=
  x.cells.toList.flatMap fun v => natLe (if k == .fp64 then 8 else 4) v.toNat

/-- R339: sext(c, 22) added to every element. -/
def drainInt (m : Mem) (tile : Nat) (x : Slot) : Mem :=
  (List.range 1024).foldl (fun m c => tileAdd m tile c (cellInt (x.cells.toList.getD c 0))) m

/-- R332, R339, R356: DRAIN of a bound slot. -/
def State.drainTile (s : State) (ti z tile : Nat) (k : SlotKind) : State :=
  let s1 := if k == .integer then s.foldSlot ti z else s
  match s1.teams[ti]? with
  | none => s1
  | some t =>
    let x := t.slot z
    (s1.updTeam ti fun t =>
      { t with tiles := match k with
          | .opened => t.tiles
          | .integer => drainInt t.tiles tile x
          | f => t.tiles.writeN (tileAt tile) (drainBytes f x) }).setSlot ti z Slot.empty

/-- R356: DRAIN. -/
def execDrainSlot (z : BitVec 2) (s : State) : Host.Outcome State Fault Refusal :=
  issueMatrix (.drainSlot z) s fun c =>
    match (c.t.slot z.toNat).bound with
    | none => s.badSlot c (.drainSlot z) z
    | some (tile, k) => (s.drainTile c.g.team z.toNat tile k).retire c

/-- R356: FOLD. -/
def execFold (z : BitVec 2) (s : State) : Host.Outcome State Fault Refusal :=
  issueMatrix (.fold z) s fun c =>
    match (c.t.slot z.toNat).bound with
    | some (_, .integer) => (s.foldSlot c.g.team z.toNat).retire c
    | _ => s.badSlot c (.fold z) z

/-- R357: cell (row, j) of a slot. -/
def Slot.cell (x : Slot) (row j : Nat) : BitVec 64 := x.cells.toList.getD (32 * row + j) 0

/-- R357: ACCRD. -/
def execAccrd (z : BitVec 2) (v : VReg) (row : BitVec 5) (s : State) : Host.Outcome State Fault Refusal :=
  issueMatrix (.accrd z v row) s fun c =>
    let x := c.t.slot z.toNat
    let at_ := fun j => x.cell row.toNat j
    match x.bound with
    | none => s.badSlot c (.accrd z v row) z
    | some (_, .opened) => (s.setRegs c fun r => r.setV v.toNat (Lanes.all 0)).retire c
    | some (_, .integer) => (s.setRegs c fun r => r.setV v.toNat (Lanes.tabulate fun j => wordOf (cellInt (at_ j)))).retire c
    | some (_, .fp32) => (s.setRegs c fun r => r.setV v.toNat (Lanes.tabulate fun j => loWord (at_ j))).retire c
    | some (_, .fp64) =>
      if v.toNat % 2 == 1 || !within v.toNat 2 c.budget then s.trap c (wordOfInstr (.accrd z v row)) .badHandle (BitVec.ofNat 32 v.toNat) 0 0
      else (s.setRegs c fun r => (r.setV v.toNat (Lanes.tabulate fun j => loWord (at_ j))).setV (v.toNat + 1)
        (Lanes.tabulate fun j => hiWord (at_ j))).retire c

/-- R357: write a row of cells. -/
def Slot.setRow (x : Slot) (row : Nat) (f : Nat → BitVec 64) : Slot :=
  { x with cells := Vector.ofFn fun i => if i.val / 32 == row then f (i.val % 32) else x.cells[i] }

/-- R357: ACCWR. -/
def execAccwr (z : BitVec 2) (v : VReg) (row : BitVec 5) (s : State) : Host.Outcome State Fault Refusal :=
  issueMatrix (.accwr z v row) s fun c =>
    let x := c.t.slot z.toNat
    let lo := fun j => Lanes.at (c.g.regs.vreg v.toNat) j
    match x.bound with
    | none => s.badSlot c (.accwr z v row) z
    | some (_, .opened) => s.badSlot c (.accwr z v row) z
    | some (_, .integer) =>
      (s.setSlot c.g.team z.toNat (x.setRow row.toNat fun j => BitVec.ofNat 64 ((lo j).toNat % 2 ^ 22))).retire c
    | some (_, .fp32) => (s.setSlot c.g.team z.toNat (x.setRow row.toNat fun j => pairOf (lo j) 0)).retire c
    | some (_, .fp64) =>
      if v.toNat % 2 == 1 || !within v.toNat 2 c.budget then s.trap c (wordOfInstr (.accwr z v row)) .badHandle (BitVec.ofNat 32 v.toNat) 0 0
      else (s.setSlot c.g.team z.toNat (x.setRow row.toNat fun j => c.src64 (.v v) j)).retire c

/-! ### Moving tiles -/

/-- R358, R359: alignment, then bounds, of a transfer with the scratchpad. -/
def Cx.moveFault (c : Cx) (off n : Nat) : Option Cause :=
  if off % 64 != 0 then some .align else if c.t.hdr.scratch < off + n then some .scratchBound else none

/-- R358: an offset in a scalar register, checked. -/
def State.moveTile (s : State) (c : Cx) (i : Instr) (r : SReg) (n : Nat) (k : Nat → State) : State :=
  let off := (c.g.regs.sreg r.val).toNat
  match c.moveFault off n with
  | some cause => s.trap c (wordOfInstr i) cause 0 (BitVec.ofNat 64 off) 0
  | none => k off

/-- R358: ACCLD. -/
def execAccld (t : BitVec 8) (r : SReg) (s : State) : Host.Outcome State Fault Refusal :=
  issueMatrix (.accld t r) s fun c =>
    s.moveTile c (.accld t r) r 4096 fun off =>
      ((s.updTeam c.g.team fun x => { x with tiles := x.tiles.writeN (tileAt t.toNat) (c.t.spadRead (c.g.spadReader c.gi (spadGrans off 4096)) s.free off 4096) }).spend).retire c

/-- R358: ACCST. -/
def execAccst (t : BitVec 8) (r : SReg) (s : State) : Host.Outcome State Fault Refusal :=
  issueMatrix (.accst t r) s fun c =>
    s.moveTile c (.accst t r) r 4096 fun off =>
      (s.spadWrite c.g.team c.gi off (c.t.tiles.readN (tileAt t.toNat) 4096)).retire c

/-- R359: the gallery counts of a slot as signed bytes. -/
def galleryBytes (x : Slot) : List Byte := x.counts.toList.map fun n => BitVec.ofInt 8 n

/-- R359: GALST. -/
def execGalst (z : BitVec 2) (r : SReg) (s : State) : Host.Outcome State Fault Refusal :=
  issueMatrix (.galst z r) s fun c =>
    let x := c.t.slot z.toNat
    match x.bound with
    | some (_, .integer) =>
      s.moveTile c (.galst z r) r 1024 fun off => (s.spadWrite c.g.team c.gi off (galleryBytes x)).retire c
    | _ => s.badSlot c (.galst z r) z

end Sys2Proof.Machine
end

