-- ==== Sys2Proof/Machine/Beat.lean ====
section
/-! DEFINITION. Beats (R326 to R337, R342 to R344, R208 to R213): what one step of an MMA computes. -/

namespace Sys2Proof.Machine

/-! ### Formats -/

/-- R326: bytes of an A operand. -/
def aBytes : MmaFmt → Nat
  | .fp64 => 512 | .fp32 => 1024 | _ => 2048

/-- R326: bytes of a B operand. -/
def bBytes : MmaFmt → Nat
  | .fp64 => 512 | .fp32 => 1024 | .blk24 => 4096 | _ => 2048

/-- R326: the kind of a format. -/
def mmaKind : MmaFmt → SlotKind
  | .fp64 => .fp64 | .int8 => .integer | .int4 => .integer | _ => .fp32

/-- R350: the format reads described pages. -/
def mmaDescribed : MmaFmt → Bool
  | .blk => true | .blk24 => true | _ => false

/-- R327, R210: 4-bit element `i`, the low half of a byte first. -/
def nibble (bs : List Byte) (i : Nat) : Nat := fieldAt bs (i / 2) 1 / 16 ^ (i % 2) % 16

/-- R327: the elements of a row of A, or a column of B, of a float format. -/
def plainElems (f : MmaFmt) (row : List Byte) : List Ext :=
  match f with
  | .fp64 => (List.range 2).map fun k => Fmt.fp64.decode (fieldAt row (8 * k) 8)
  | .fp32 => (List.range 8).map fun k => Fmt.fp32.decode (fieldAt row (4 * k) 4)
  | .fp16 => (List.range 32).map fun k => Fmt.fp16.decode (fieldAt row (2 * k) 2)
  | .bf16 => (List.range 32).map fun k => Fmt.bf16.decode (fieldAt row (2 * k) 2)
  | _ => []

/-- R327: the elements of a row of A, or a column of B, of an integer format. -/
def intElems (f : MmaFmt) (row : List Byte) : List Int :=
  match f with
  | .int8 => row.map fun b => signedOf 8 b.toNat
  | _ => (List.range (2 * row.length)).map fun k => signedOf 4 (nibble row k)

/-- R327: row `i` of 32. -/
def opRow (bs : List Byte) (i : Nat) : List Byte := bytesAt bs (i * (bs.length / 32)) (bs.length / 32)

/-! ### Described blocks -/

/-- R209: the special value's count of quarters. -/
def blockSpecial (b : List Byte) : Int := signedOf 8 (fieldAt b 2 1)

/-- R210: the format code of a block. -/
def blockFmt (b : List Byte) : Nat := fieldAt b 0 1

/-- R209: the block's scale, as a power of two. -/
def blockScale (b : List Byte) : Int := (fieldAt b 1 1 : Int) - 127

/-- R211: an E2M1 code of a block; a special value of 0 has the sign + (log 53). -/
def e2m1Elem (q : Int) (c : Nat) : Ext := if c = 8 then Ext.of (q < 0) q.natAbs (-2) else Fmt.e2m1.decode c

/-- R210, R211: the decoded elements of a block, without its scale. -/
def blockElems (b : List Byte) : List Ext :=
  match blockFmt b with
  | 1 => (List.range 120).map fun i => e2m1Elem (blockSpecial b) (nibble (b.drop 4) i)
  | 2 => (List.range 120).map fun i => e2m1Elem (blockSpecial b) (nibble (b.drop 4) i)
  | 3 => (List.range 60).map fun i => Fmt.e4m3.decode (fieldAt b (4 + i) 1)
  | 4 => (List.range 60).map fun i => Fmt.e4m3.decode (fieldAt b (4 + i) 1)
  | 5 => (List.range 60).map fun i => Fmt.e5m2.decode (fieldAt b (4 + i) 1)
  | 6 => (List.range 60).map fun i => Fmt.e5m2.decode (fieldAt b (4 + i) 1)
  | 7 => (List.range 60).map fun i => Ext.ofInt (signedOf 8 (fieldAt b (4 + i) 1))
  | 8 => (List.range 120).map fun i => Ext.ofInt (signedOf 4 (nibble (b.drop 4) i))
  | 9 => (List.range 30).map fun i => Fmt.fp16.decode (fieldAt b (4 + 2 * i) 2)
  | 10 => (List.range 30).map fun i => Fmt.bf16.decode (fieldAt b (4 + 2 * i) 2)
  | _ => []

/-- R213: what the header of a block fails, given whether an index block is expected. -/
def blockFault (index : Bool) (b : List Byte) : Option Nat :=
  let f := blockFmt b
  if (f == 15) != index || (10 < f && f != 15) then some 0
  else if f != 0 && f != 15 && fieldAt b 1 1 == 255 then some 1
  else if f != 0 && f != 15 && ((blockSpecial b).natAbs > 48 || (blockSpecial b != 0 && f != 1 && f != 2)) then some 2
  else if fieldAt b 3 1 != 0 then some 3
  else none

/-- R210, R335: a 2:4 values format. -/
def is24 (f : Nat) : Bool := f == 2 || f == 4 || f == 6

/-- R334, R335: the format that a value block's format pairs by: a 2:4 values format with its dense one. -/
def pairFmt (f : Nat) : Nat := if is24 f then f - 1 else f

/-- One block of a step that is checked: its address, its bytes, and whether it is an index block or an A block. -/
structure Checked where
  addr : Int
  bytes : List Byte
  index : Bool
  ofA : Bool
deriving DecidableEq, Repr

/-- R213, R334, R335: the first failing block of a step, with its detail; `ref` is the step's format so far. -/
def checkBlocks (sparse : Bool) : List Checked → Option Nat → Option (Int × Nat)
  | [], _ => none
  | x :: rest, ref =>
    let f := blockFmt x.bytes
    let value := !x.index && f != 0 && f ≤ 10
    let paired := !value || ((is24 f == (sparse && x.ofA)) && (match ref with
      | some r => r == pairFmt f
      | none => true))
    let fault := if !paired then some 0 else blockFault x.index x.bytes
    match fault with
    | some d => some (x.addr, d)
    | none => checkBlocks sparse rest (if value && ref.isNone then some (pairFmt f) else ref)

/-- R334, R335: the blocks of a step in the order they are checked. -/
def stepBlocks (f : MmaFmt) (aAddr bAddr xAddr : Int) (a b x : List Byte) : List Checked :=
  let blk := fun (addr : Int) (bs : List Byte) (o : Nat) (index ofA : Bool) =>
    ({ addr := addr + (o : Int), bytes := bytesAt bs o 64, index := index, ofA := ofA } : Checked)
  match f with
  | .blk24 =>
    ((List.range 32).flatMap fun i =>
      blk aAddr a (64 * i) false true :: if i % 2 == 0 then [blk xAddr x (32 * i) true true] else []) ++
    (List.range 64).map fun j => blk bAddr b (64 * j) false false
  | _ =>
    ((List.range 32).map fun i => blk aAddr a (64 * i) false true) ++ (List.range 32).map fun j => blk bAddr b (64 * j) false false

/-! ### Exact partial sums -/

/-- R333: an exact sum under way: the specials seen and the sum of the rest. -/
structure Partial where
  nan : Bool
  pos : Bool
  neg : Bool
  invalid : Bool
  sum : Option Ext
deriving DecidableEq, Repr

/-- R333: nothing added yet. -/
def Partial.start : Partial := { nan := false, pos := false, neg := false, invalid := false, sum := none }

/-- R333: one more addend; `rdn` says the mode is RDN. -/
def Partial.add (rdn : Bool) (p : Partial) (x : Pre) : Partial :=
  let q := { p with invalid := p.invalid || x.2 != 0 }
  match x.1 with
  | .nan => { q with nan := true }
  | .inf true => { q with neg := true }
  | .inf false => { q with pos := true }
  | y => { q with sum := some (match p.sum with
      | none => y
      | some z => (Ext.add rdn z y).1) }

/-- R334: the finite part scaled by a power of two. -/
def Partial.scale (p : Partial) (k : Int) : Partial := { p with sum := p.sum.map fun x => x.scale k }

/-- R333: the exact sum, with invalid for a forbidden sum or product. -/
def Partial.value (p : Partial) : Pre :=
  if p.invalid || (p.pos && p.neg) then (.nan, flagInvalid)
  else if p.nan then (.nan, 0)
  else if p.pos then (.inf false, 0)
  else if p.neg then (.inf true, 0)
  else (p.sum.getD (.zero false), 0)

/-- R333: the exact sum of products of two rows of elements, each with the flags its forming raised. -/
def dotPartial (rdn : Bool) (a b : List Pre) : Partial :=
  (a.zip b).foldl (fun p x =>
    let y := x.1.1.mul x.2.1
    p.add rdn (y.1, y.2 ||| x.1.2 ||| x.2.2)) Partial.start

/-- R333, R334: one accumulation: C + P rounded once. -/
def accumulate (f : Fmt) (mode : RMode) (r : Nat) (c : Nat) (p : Partial) : Rounded :=
  let v := (p.add (mode == .rdn) (f.decode c, 0)).value
  let x := f.round mode r v.1
  { x with flags := x.flags ||| v.2 }

/-- R211, R334: a void block's partial is +0.0. -/
def Partial.void : Partial := Partial.start.add false (.zero false, 0)

/-- R212, R343: the logical elements of a 2:4 value block with half `h` of its index block. -/
def logical24 (rdn : Bool) (b x : List Byte) (h : Nat) : List Pre :=
  let es := (blockElems b).zipIdx
  let at_ := fun n : Nat => fieldAt x (4 + (240 * h + 2 * n) / 8) 1 / 2 ^ ((240 * h + 2 * n) % 8) % 4
  (List.range (2 * es.length)).map fun pos =>
    match es.filter fun e => 4 * (e.2 / 2) + at_ e.2 == pos with
    | [] => (.zero false, 0)
    | [e] => (e.1, 0)
    | e :: f :: _ => Ext.add rdn e.1 f.1

/-- The elements of a block, with no flags. -/
def pres (xs : List Ext) : List Pre := xs.map fun x => (x, 0)

/-- R333: the partials of cell (i, j) of a step, one for each rounding. -/
def cellPartials (f : MmaFmt) (rdn : Bool) (rows cols : List (List (Bool × Int × List Pre))) (i j : Nat) : List Partial :=
  match f with
  | .blk | .blk24 =>
    ((rows.getD i []).zip (cols.getD j [])).map fun x =>
      if x.1.1 || x.2.1 then Partial.void else (dotPartial rdn x.1.2.2 x.2.2.2).scale (x.1.2.1 + x.2.2.1)
  | _ => ((rows.getD i []).zip (cols.getD j [])).map fun x => dotPartial rdn x.1.2.2 x.2.2.2

/-- R327, R334, R335: the rows of A of a float step: for each rounding whether the block is void, its scale, its elements. -/
def floatRows (f : MmaFmt) (rdn : Bool) (a x : List Byte) : List (List (Bool × Int × List Pre)) :=
  (List.range 32).map fun i =>
    let b := bytesAt a (64 * i) 64
    match f with
    | .blk => [(blockFmt b == 0, blockScale b, pres (blockElems b))]
    | .blk24 =>
      let l := logical24 rdn b (bytesAt x (64 * (i / 2)) 64) (i % 2)
      let n := l.length / 2
      [(blockFmt b == 0, blockScale b, l.take n), (blockFmt b == 0, blockScale b, l.drop n)]
    | _ => [(false, 0, pres (plainElems f (opRow a i)))]

/-- R327, R334, R335: the columns of B of a float step. -/
def floatCols (f : MmaFmt) (bs : List Byte) : List (List (Bool × Int × List Pre)) :=
  let one := fun o => let b := bytesAt bs o 64; (blockFmt b == 0, blockScale b, pres (blockElems b))
  (List.range 32).map fun j =>
    match f with
    | .blk => [one (64 * j)]
    | .blk24 => [one (128 * j), one (128 * j + 64)]
    | _ => [(false, 0, pres (plainElems f (opRow bs j)))]

/-- R333 to R335, R353: a cell after a float step, with its flags. -/
def floatCell (acc : Fmt) (mode : RMode) (seed : Word) (retire : DWord) (k i j : Nat) (c : Nat) (ps : List Partial) : Rounded :=
  (ps.zipIdx.foldl (fun r p =>
    let x := accumulate acc mode (srbits seed retire j (32 * (2 * k + p.2) + i)) r.code p.1
    { code := x.code, flags := r.flags ||| x.flags }) { code := c, flags := 0 })

/-- R333 to R336: a float step: the cells and the flags of all of them. -/
def floatStep (f : MmaFmt) (mode : RMode) (seed : Word) (retire : DWord) (k : Nat) (cells : Vector (BitVec 64) 1024)
    (a b x : List Byte) : Vector (BitVec 64) 1024 × FpFlags :=
  let acc : Fmt := if f == .fp64 then .fp64 else .fp32
  let rdn := mode == .rdn
  let rows := floatRows f rdn a x
  let cols := floatCols f b
  let res : Vector Rounded 1024 := Vector.ofFn fun n =>
    floatCell acc mode seed retire k (n.val / 32) (n.val % 32) cells[n].toNat (cellPartials f rdn rows cols (n.val / 32) (n.val % 32))
  (res.map fun r => BitVec.ofNat 64 r.code, res.toList.foldl (fun fl r => fl ||| r.flags) 0)

/-- R337: the exact sums of an integer step. -/
def intSums (f : MmaFmt) (cells : Vector (BitVec 64) 1024) (a b : List Byte) : Vector Int 1024 :=
  let rows := (List.range 32).map fun i => intElems f (opRow a i)
  let cols := (List.range 32).map fun j => intElems f (opRow b j)
  Vector.ofFn fun n =>
    cellInt cells[n] + ((rows.getD (n.val / 32) []).zip (cols.getD (n.val % 32) [])).foldl (fun t x => t + x.1 * x.2) 0

/-- R337: the carry of a sum. -/
def carryOf (x : Int) : Int := if x ≥ 2 ^ 21 then 1 else if x < -(2 ^ 21) then -1 else 0

/-- R337: the cells of an integer step. -/
def intCells (sums : Vector Int 1024) : Vector (BitVec 64) 1024 := sums.map cellOfInt

end Sys2Proof.Machine
end

