-- ==== Sys2Proof/Machine/Mma.lean ====
section
/-! DEFINITION. MMA (R342, R344, R349 to R354) and the beats of its chain (R326, R341, R345). -/

namespace Sys2Proof.Machine

/-- R350: one operand of a live step: its number (0 A, 1 B, 2 index), whether the tile fetch unit reads it, the register,
the offset and the bytes. -/
structure MmaOperand where
  operand : Nat
  fetched : Bool
  tbn : BitVec 3
  tb : TbReg
  off : Nat
  len : Nat
deriving DecidableEq, Repr

/-- R350: the address of an operand: in scratchpad its offset, which is also what FORMAT gives as the faulting address (log 53). -/
def MmaOperand.addr (o : MmaOperand) : Int := if o.fetched then (o.tb.base.toNat : Int) + o.off else o.off

/-- R350: the operands of step `k`. -/
def Chain.operands (ch : Chain) (k : Nat) : List MmaOperand :=
  let f := ch.form
  { operand := 0, fetched := f.asrc, tbn := f.atb, tb := ch.tba, off := ch.a + k * aBytes f.fmt, len := aBytes f.fmt } ::
  { operand := 1, fetched := f.bsrc, tbn := f.btb, tb := ch.tbb, off := ch.b + k * bBytes f.fmt, len := bBytes f.fmt } ::
  (if f.fmt == .blk24 then [{ operand := 2, fetched := f.asrc, tbn := f.atb, tb := ch.tba, off := ch.x + 1024 * k, len := 1024 }] else [])

/-- R258, R261, R350: what the tile fetch unit finds for an operand; a DSC attribute that does not match gives ACCESS. -/
def State.mmaPieces (s : State) (w : Who) (f : MmaFmt) (o : MmaOperand) : List Piece :=
  let sites := s.sitesOf w.t.hall
  if o.fetched then
    ((s.pieces w.p sites .load true { lane := 0, runs := [(o.addr, o.len)], fast := o.tb.fast w.p .load o.off o.len }).map fun x =>
      match x.found with
      | .hit t => if t.dsc == mmaDescribed f then x else { x with found := .fault .access }
      | _ => x) ++ o.tb.baseSpan.flatMap (s.pieces w.p sites .load true)
  else []

/-- What the checks of one step find. -/
inductive StepCheck
  | ok
  | wait (pages : List Nat)
  | trap (cause : Cause) (addr : Int)
deriving DecidableEq, Repr

/-- R350, R352: ALIGN, SCRATCH_BOUND and ACCESS of one step. -/
def State.checkStep (s : State) (w : Who) (ch : Chain) (k : Nat) : StepCheck :=
  let os := ch.operands k
  match os.find? fun o => o.addr % 64 != 0 with
  | some o => .trap .align o.addr
  | none =>
    match os.find? fun o => !o.fetched && w.t.hdr.scratch < o.off + o.len with
    | some o => .trap .scratchBound o.addr
    | none =>
      let xs := os.flatMap (s.mmaPieces w ch.form.fmt)
      let missing := xs.filter fun x => x.found == .missing
      if !missing.isEmpty then .wait (ascending (missing.map fun x => x.va.toNat / 4096))
      else
        match xs.find? fun x => x.found == .fault .access with
        | some x => .trap .access x.va
        | none => .ok

/-- R352: the checks of every live step, in order. -/
def State.checkSteps (s : State) (w : Who) (ch : Chain) : List Nat → StepCheck
  | [] => .ok
  | k :: rest =>
    match s.checkStep w ch k with
    | .ok => s.checkSteps w ch rest
    | r => r

/-- The pieces that the tile fetch unit reads in every live step. -/
def State.chainPieces (s : State) (w : Who) (ch : Chain) : List Piece :=
  ch.steps.flatMap fun k => (ch.operands k).flatMap (s.mmaPieces w ch.form.fmt)

/-- R328, R354: the operand bytes that scratchpad gives at the issue. -/
def State.captureSpad (s : State) (w : Who) (ch : Chain) : List OperandRead :=
  ch.steps.flatMap fun k => (ch.operands k).filterMap fun o =>
    if o.fetched then none
    else some { step := k, operand := o.operand, bytes := w.t.spadRead (w.g.spadReader w.gi (spadGrans o.off o.len)) s.free o.off o.len, runs := [] }

/-- R344: what the tile fetch unit reads, as translated. -/
def State.fetchRuns (s : State) (w : Who) (ch : Chain) : List OperandRead :=
  ch.steps.flatMap fun k => (ch.operands k).filterMap fun o =>
    if o.fetched then
      some { step := k, operand := o.operand, bytes := [],
             runs := ((s.mmaPieces w ch.form.fmt o).filter fun x => x.lane != 32).map (Piece.touch w.p.id) }
    else none

/-- R344, R352: what checking a chain gives: the chain goes on, waits, traps, or is deferred. -/
inductive ChainStart
  | run (ch : Chain)
  | wait (pages : List Nat)
  | trap (cause : Cause) (addr : Int)
  | page (faults : List PageFault) (addr : DWord)
deriving DecidableEq, Repr

/-- R261, R262: an MMA's operands have used the TLBs, and their registers hold their frames. -/
def State.usedChain (s : State) (w : Who) (ch : Chain) : State :=
  ((ch.operands 0).filter MmaOperand.fetched).foldl (fun s o => s.holdFrame w o.tbn o.tb)
    (s.usedWalks w.p.id (s.sitesOf w.t.hall) (s.chainPieces w ch))

/-- R352: the checks of an MMA's live steps. -/
def State.startChain (s : State) (w : Who) (ch : Chain) : ChainStart :=
  match s.checkSteps w ch ch.steps with
  | .wait pages => .wait pages
  | .trap cause a => .trap cause a
  | .ok =>
    let pg := (s.chainPieces w ch).filter fun x => x.pageFault.isSome
    match pg with
    | x :: _ => .page (pageFaults pg) (BitVec.ofInt 64 x.va)
    | [] => .run { ch with reads := ch.reads ++ s.fetchRuns w ch }

/-- R328: the tile fetch unit as a reader: BEGIN.p at the issue. -/
def Chain.reader (w : Who) (ch : Chain) : Reader :=
  { party := { part := some w.p.id, hall := none, group := none }, beginH := ch.begins, beginP := ch.begins, beginY := 0, sysHome := false,
    sectors := true }

/-- R328, R352: the bytes of an operand of a step, as they were read. -/
def Chain.operandBytes (ch : Chain) (k n : Nat) : List Byte :=
  (ch.reads.filter fun r => r.step == k && r.operand == n).flatMap OperandRead.bytes

/-- R344: what the tile fetch unit has still to read for a step. -/
def Chain.unread (ch : Chain) (k : Nat) : List Touch :=
  (ch.reads.filter fun r => r.step == k && r.bytes.isEmpty).flatMap OperandRead.runs

/-- R344: the lines of some reads. -/
def linesOf (xs : List Touch) : List (Nat × Touch) :=
  (ascending (xs.flatMap Touch.lines)).filterMap fun line => (xs.find? fun t => t.lines.contains line).map fun t => (line, t)

/-- R344: lines that a hall may still pin. -/
def State.pinRoom (s : State) (hall : Nat) : Nat := 64 - ((s.halls[hall]?).map fun h => h.pins.length).getD 0

/-- R344: the next event of a chain may happen: its next step has its bytes, or the hall has room for its pins. -/
def State.beatReady (s : State) (w : Who) (ch : Chain) : Bool :=
  match ch.steps with
  | [] => true
  | k :: _ => (linesOf (ch.unread k)).length ≤ s.pinRoom w.t.hall

/-- R275, R433: an error in what the tile fetch unit reads for a step: the cause and the address. -/
def State.stepError (s : State) (w : Who) (ch : Chain) (k : Nat) : Option (Cause × Nat) :=
  let runs := ch.unread k
  let bad := fun x : Touch => (List.range x.len).find? fun i => s.poisonNow.contains (granOf (x.key + i))
  match runs.find? fun x => (bad x).isSome with
  | some x => some (.memoryError, (x.va + (bad x).getD 0) / 16 * 16)
  | none =>
    (runs.find? fun x => w.p.cfg.protect && (List.range x.len).any fun i => s.torn (some w.p.id) x.shr (granOf (x.key + i))).map fun x =>
      (.integrity, x.va)

/-- R344, R417: the tile fetch unit reads the operands of a step: its lines come to L2 and stay pinned until the beat. -/
def State.fetchStep (s : State) (w : Who) (ch : Chain) (k : Nat) : State × Chain :=
  let get := fun x : Touch => s.readSpan { ch.reader w with shr := x.shr } [] s.free x.key x.len
  let ls := linesOf (ch.unread k)
  let s1 := ls.foldl (fun s x => (s.touchL2 x.2 x.1).updHall w.t.hall fun h => { h with pins := h.pins ++ [(x.1, w.gi)] }) s
  (s1.spend, { ch with reads := ch.reads.map fun r => if r.step == k && r.bytes.isEmpty then { r with bytes := r.runs.flatMap get } else r })

/-- What one step of a chain comes to. -/
inductive BeatEnd
  | done (s : State)
  | trap (cause : Cause) (detail : Word) (addr : Int)

/-- R337 to R341: an integer step. -/
def State.intStep (s : State) (w : Who) (ch : Chain) (tile : Nat) (a b : List Byte) : BeatEnd :=
  let z := ch.form.slot.toNat
  let x := w.t.slot z
  let sums := intSums ch.form.fmt x.cells a b
  let carries := ((List.range 1024).map fun c => (c, carryOf (sums.toList.getD c 0))).filter fun y => y.2 != 0
  if w.t.hdr.carryTrap && s.carriesFull w.t z (carries.map fun y => y.1) then .trap .carryFull (BitVec.ofNat 32 z) 0
  else
    let s1 := s.setSlot w.g.team z { x with bound := some (tile, .integer), cells := intCells sums }
    .done (carries.foldl (fun s y => s.takeCarry w.g.team z y.1 y.2) s1)

/-- R183, R333 to R336: a float step; its flags are among those that a region which opened behind its MMA has captured. -/
def State.fltStep (s : State) (w : Who) (ch : Chain) (tile k : Nat) (a b x : List Byte) : BeatEnd :=
  let z := ch.form.slot.toNat
  let slot := w.t.slot z
  let r := floatStep ch.form.fmt (RMode.ofCode ch.rnd) ch.seed ch.retire k slot.cells a b x
  if r.2 &&& ch.trapEn != 0 then .trap .arith (BitVec.ofNat 32 r.2.toNat) 0
  else
    .done ((s.setSlot w.g.team z { slot with bound := some (tile, mmaKind ch.form.fmt), cells := r.1 }).updGroup w.gi fun g =>
      { g with ctrl := { g.ctrl with fpFlags := g.ctrl.fpFlags ||| r.2 },
               region := if ch.inRegion then g.region
                 else g.region.map fun x => { x with ctrl := { x.ctrl with fpFlags := x.ctrl.fpFlags ||| r.2 } } })

/-- R213, R352: the first block of a step that fails its checks. -/
def Chain.badBlock (ch : Chain) (k : Nat) : Option (Int × Nat) :=
  let rd := ch.operandBytes k
  let addr := fun n => ((ch.operands k).find? fun o => o.operand == n).map MmaOperand.addr |>.getD 0
  if mmaDescribed ch.form.fmt then
    checkBlocks (ch.form.fmt == .blk24) (stepBlocks ch.form.fmt (addr 0) (addr 1) (addr 2) (rd 0) (rd 1) (rd 2)) none
  else none

/-- R342, R352: one live step. -/
def State.beatStep (s : State) (w : Who) (ch : Chain) (tile k : Nat) : BeatEnd :=
  let rd := ch.operandBytes k
  match ch.badBlock k with
  | some (a, d) => .trap .format (BitVec.ofNat 32 d) a
  | none =>
    if mmaKind ch.form.fmt == .integer then s.intStep w ch tile (rd 0) (rd 1)
    else s.fltStep w ch tile k (rd 0) (rd 1) (rd 2)

/-! ### The word -/

/-- R351: the coarse bitmap. -/
def Cx.coarse (c : Cx) : Word :=
  match c.hs.src3 with
  | some x => c.src x.2.2 0
  | none => 1

/-- R342, R352: the chain that an MMA word starts: its live steps from the step it resumes at. -/
def Cx.chain (c : Cx) (s : State) (f : MmaForm) : Chain :=
  { strand := some c.k, log := none, ref := c.e.first, hints := c.e.hints, form := f, steps := (List.range 32).filter fun k => c.coarse.getLsbD k && c.e.rpt ≤ k,
    a := (c.g.regs.sreg f.as.val).toNat, b := (c.g.regs.sreg f.bs.val).toNat,
    x := if f.fmt == .blk24 then (c.g.regs.sreg (f.as.val + 1)).toNat else 0,
    tba := c.g.regs.tbReg f.atb, tbb := c.g.regs.tbReg f.btb,
    rnd := (match c.hs.modh with
      | some m => if m.rnd == 0 then c.g.ctrl.round else m.rnd
      | none => c.g.ctrl.round),
    seed := c.g.ctrl.seed, retire := c.e.drawn.getD c.g.retire, trapEn := c.g.ctrl.trapEn, begins := s.seq + 1,
    inRegion := c.g.region.isSome, reads := [] }

/-- R331, R352: the slot refuses the format: UNBOUND, another kind, or no tile pair. -/
def slotRefuses (t : Team) (f : MmaForm) : Bool :=
  match (t.slot f.slot.toNat).bound with
  | none => true
  | some (tile, k) =>
    (k != .opened && k != mmaKind f.fmt) ||
      (k == .opened && mmaKind f.fmt == .fp64 && (tile % 2 == 1 || t.hdr.tiles ≤ tile + 1))

/-- R79, R352: an MMA's word retires, with RPTIDX 0. -/
def State.retireChain (s : State) (w : Who) (k : Fin 8) : State :=
  let yields := (w.g.ctl.get k).any fun e => (HintSet.of e.hints).yields
  let s1 := ((s.updGroup w.gi fun g => { g with ctrl := { g.ctrl with rptIdx := 0 } }).updGroup w.gi (Group.retireWord k 1)).countRetired w.p.id
  if yields then s1.updGroup w.gi fun g => { g with age := s1.youngest } else s1

/-- R354: the strand does not wait for the chain any more: when, is timing, a free value (log 40). -/
def State.lets (s : State) (w : Who) : Bool := Config.freePick s.free (2 ^ 92 + w.gi) % 2 == 0

/-- R354: a chain goes on; the strand stands at its word still, or goes on beside it. -/
def State.runChain (s : State) (w : Who) (ch : Chain) : State :=
  (match ch.strand with
    | some k =>
      if s.lets w then (s.updGroup w.gi fun g => { g with chain := some { ch with strand := none } }).retireChain w k
      else s.updGroup w.gi fun g => { (Group.setEntry k (fun e => { e with wait := .chain }) g) with chain := some ch }
    | none => s.updGroup w.gi fun g => { g with chain := some ch }).due (.matrixBeat w.gi)

/-- R344, R266: defer an MMA whose operand does not translate. -/
def State.deferChain (s : State) (c : Cx) (i : Instr) (ch : Chain) (fs : List PageFault) (a : DWord) : State :=
  if c.g.logUsed ≥ 4 then s.setWait c .logFull
  else
    let o : Operands := { act := allLanes, x := Lanes.all 0, data := [], off := 0, tb := TbReg.none, tbn := none, hints := c.e.hints,
                          chain := some { ch with strand := none } }
    ((s.defer_ c i o fs a 0).updGroup c.gi fun g => { g with ctrl := { g.ctrl with rptIdx := 0 } }).retire c

/-- R349, R352: MMA. The tile fetch unit's BEGIN.p is at the issue, whether the word is deferred or not (R328). -/
def execMma (f : MmaForm) (s : State) : Host.Outcome State Fault Refusal :=
  issueMatrix (.mma f) s fun c =>
    let ch := c.chain s f
    if slotRefuses c.t f then s.badSlot c (.mma f) f.slot
    else if ch.steps.isEmpty then s.retireChain c.who c.k
    else
      let ch1 := { ch with reads := s.captureSpad c.who ch }
      match s.startChain c.who ch1 with
      | .wait pages => (s.askWalks c.p.id (s.sitesOf c.t.hall) pages).setWait c .walk
      | .trap cause a => s.trap c (wordOfInstr (.mma f)) cause 0 (BitVec.ofInt 64 a) 0
      | .page fs a => { s.spend with seq := s.seq + 1 }.deferChain c (.mma f) ch1 fs a
      | .run ch2 => ({ (s.usedChain c.who ch1).spend with seq := s.seq + 1 }).runChain c.who ch2

/-! ### The event -/

/-- R342: a trap at step `k` of a chain whose strand stands at its word. -/
def State.chainTrap (s : State) (w : Who) (ch : Chain) (k : Nat) (st : Fin 8) (cause : Cause) (detail : Word) (a : Int) : State :=
  match w.g.ctl.get st with
  | none => s
  | some e =>
    ((s.updGroup w.gi fun g =>
        { (Group.setEntry st (fun e => { e with wait := .ready, drawn := some ch.retire }) g) with chain := none }).countIssued w.p.id).takeTrap
      w.gi w.p { cause := cause, detail := detail, addr := BitVec.ofInt 64 a, lanes := 0, ref := e.first, former := e.active,
                 word := wordOfInstr (.mma ch.form), hint1 := e.hints.getD 0 0, hint2 := e.hints.getD 1 0, rpt := k, deferred := none }

/-- R266, R459: a trap at step `k` of a replayed MMA: its entry resumes there. -/
def State.replayedChainTrap (s : State) (w : Who) (ch : Chain) (k id : Nat) (cause : Cause) (detail : Word) (a : Int) : State :=
  match w.g.log.find? fun l => l.id == id with
  | none => s.updGroup w.gi fun g => { g with chain := none }
  | some l =>
    let l1 := { l with rpt := k, ops := { l.ops with chain := some { ch with log := none } } }
    (s.updGroup w.gi fun g => { g with chain := none, log := g.log.map fun x => if x.id == id then l1 else x }).deferTrap w l1 cause detail
      (BitVec.ofInt 64 a) 0

/-- R345, R354: words of the team's groups that wait for a chain look again; those of a group whose strand stands at its own MMA do not. -/
def State.wakeChain (s : State) (w : Who) : State :=
  s.updTeamGroups w.t fun g => if g.chain.any fun ch => ch.strand.isSome then g else g.wake fun x => x == .chain

/-- R342, R352: the group's strand goes back to the MMA of a chain, whose step `k` is the next, and which has not retired. -/
def Group.backTo (ch : Chain) (k : Nat) (g : Group) : Group :=
  { Group.setEntry g.ctl.cur (fun e => { e with pc := ch.ref, hints := [], rpt := k, wait := .ready, grant := none, drawn := some ch.retire }) g with
    chain := none, retire := g.retire - 1 }

/-- R203, R403: a word that has retired and traps counts no more. -/
def State.uncount (s : State) (p : Nat) : State :=
  s.updPart p fun q => { q with counters := { q.counters with retired := q.counters.retired - 1 } }

/-- R342, R352: a trap at step `k` of a chain whose strand has gone on. Its frame resumes at the MMA, and what the strand has issued since is issued
again (log 40). It is taken once the group has one strand again, or none that could issue; a parked group meets it when it resumes. -/
def State.lateTrap (s : State) (w : Who) (ch : Chain) (k : Nat) (cause : Cause) (detail : Word) (a : Int) : State :=
  let ks := w.g.ctl.indexes fun e => e.kind == .strand
  let s1 := (((s.unpinLines w.t.hall w.gi).wakeChain w).updGroup w.gi (Group.backTo ch k)).uncount w.p.id
  if w.g.phase != .running then s1
  else if ks.length ≤ 1 || !ks.any fun k => (w.g.ctl.get k).any (Entry.isReady w.g) then
    s1.takeTrap w.gi w.p { cause := cause, detail := detail, addr := BitVec.ofInt 64 a, lanes := 0, ref := ch.ref,
                           former := ((w.g.ctl.get w.g.ctl.cur).map Entry.active).getD 0, word := wordOfInstr (.mma ch.form),
                           hint1 := ch.hints.getD 0 0, hint2 := ch.hints.getD 1 0, rpt := k, deferred := none }
  else s.due (.matrixBeat w.gi)

/-- R266: a replayed access is done: its entry is freed, and waiting words look again. -/
def State.endReplay (s : State) (gi id : Nat) : State :=
  let s1 := s.updGroup gi fun g =>
    Group.wake (fun w => w == .fault || w == .logFull) { g with log := g.log.filter fun l => l.id != id }
  if (s1.groups[gi]?).any fun g => !g.activeLog.isEmpty then s1.due (.faultReplay gi) else s1

/-- R352: a chain has run its last step. -/
def State.endChain (s : State) (w : Who) (ch : Chain) : State :=
  match ch.strand, ch.log with
  | some k, _ => ((s.updGroup w.gi fun g => { g with chain := none }).retireChain w k).wakeChain w
  | none, some id =>
    ((s.updGroup w.gi fun g => { g with chain := none, ctrl := { g.ctrl with rptIdx := 0 } }).wakeChain w).endReplay w.gi id
  | none, none => (s.updGroup w.gi fun g => { g with chain := none }).wakeChain w

/-- R342, R352: a chain stops at a step that traps. -/
def State.stopAt (s : State) (w : Who) (ch : Chain) (k : Nat) (cause : Cause) (d : Word) (a : Int) : State :=
  match ch.strand, ch.log with
  | some st, _ => ((s.unpinLines w.t.hall w.gi).wakeChain w).chainTrap w ch k st cause d a
  | none, some id => ((s.unpinLines w.t.hall w.gi).wakeChain w).replayedChainTrap w ch k id cause d a
  | none, none => s.lateTrap w ch k cause d a

/-- R326, R344, R345, R363: the next event of a group's chain: the tile fetch unit's reads for a step, or the step's beat. Its slot is as the word
found it, since no word of another group on the slot comes in between. -/
def State.beat (s : State) (w : Who) (ch : Chain) : State :=
  match ch.steps with
  | [] => s.endChain w ch
  | k :: rest =>
    if !(ch.unread k).isEmpty then
      if !s.beatReady w ch then s.due (.matrixBeat w.gi)
      else
        match s.stepError w ch k with
        | some (cause, a) => s.stopAt w ch k cause 0 a
        | none => (s.fetchStep w ch k).1.runChain w (s.fetchStep w ch k).2
    else
      match s.beatStep w ch (((w.t.slot ch.form.slot.toNat).bound.map fun b => b.1).getD 0) k with
      | .trap cause d a => s.stopAt w ch k cause d a
      | .done s1 =>
        let s2 := (s1.unpinLines w.t.hall w.gi).spend
        if rest.isEmpty then s2.endChain w ch else s2.runChain w { ch with steps := rest }

/-- R326: MATRIX_BEAT. -/
def execMatrixBeat (g : Nat) (s : State) : Host.Outcome State Fault Refusal :=
  .next (match s.who? g with
    | some w => match w.g.chain with
      | some ch => s.beat w ch
      | none => s
    | none => s)

end Sys2Proof.Machine
end

