-- ==== Sys2Proof/Machine/Engine.lean ====
section
/-! DEFINITION. Engine commands (R304 to R310, R321): their issue, the accesses an engine makes, the sectors it writes,
and the decrement that ends a command. -/

namespace Sys2Proof.Machine

/-! ### Queues -/

/-- R321: entries of an engine's queue. -/
def Engine.capacity : Engine → Nat
  | .stair _ => 64 | .hoist _ => 16 | .braid _ => 16 | .cmpr _ => 8

/-- R321: commands an engine runs at once. -/
def Engine.atOnce : Engine → Nat
  | .stair _ => 4 | _ => 1

/-- R23: the scope of an engine's fork and join. -/
def Engine.scope : Engine → Scope
  | .stair _ => .p | .cmpr _ => .p | _ => .y

/-- R24, R305: the engine of a partition that a word commands: its stair engine of a hall, or its engine of the word's index; the number past
the last engine where it has none of that index. -/
def Part.engineFor (p : Part) (i : Instr) (hall : Nat) : Engine :=
  let pick := fun (w x : Nat) => (bitsOf w x).getD (engineIndex i) w
  match i with
  | .hoist _ _ _ => .hoist (pick 32 p.cfg.hoistMask.toNat)
  | .braid _ _ _ => .braid (pick 16 p.cfg.braidMask.toNat)
  | .cmpr _ _ _ => .cmpr (pick 8 p.cfg.cmprMask.toNat)
  | .dcmp _ _ _ => .cmpr (pick 8 p.cfg.cmprMask.toNat)
  | _ => .stair hall

/-- R305: the engine a word commands. -/
def Cx.engine (c : Cx) (i : Instr) : Engine := c.p.engineFor i c.t.hall

/-- R13: the package has the engine. -/
def Engine.real : Engine → Bool
  | .stair _ => true | .hoist n => n < 32 | .braid n => n < 16 | .cmpr n => n < 8

/-- R321: the command runs. -/
def Cmd.runs (c : Cmd) : Bool :=
  match c.phase with
  | .running => true | .writing => true | .waitFault _ _ _ => true | .decrement => true | _ => false

/-- R321: queued entries of an engine. -/
def State.queued (s : State) (e : Engine) : Nat := (s.cmds.filter fun c => c.engine == e && c.phase == .queued).length

/-- R321: commands that an engine runs. -/
def State.engineBusy (s : State) (e : Engine) : Nat := (s.cmds.filter fun c => c.engine == e && c.runs).length

/-- R321, R400, R424, R436: a context that is switched out, held or exported starts no command: those that have not started stay queued,
and travel with its image (log 18). -/
def State.mayRun (s : State) (pid : Nat) : Bool := (s.part? pid).any fun p => p.ctxState != 2 && p.ctxState != 3 && p.ctxState != 4

/-- R306: a command is the next of its engine's queue to start, and the engine has room. -/
def State.mayStart (s : State) (ci : Nat) : Bool :=
  match s.cmds[ci]? with
  | some c =>
    c.phase == .queued && c.engine.real && s.mayRun c.part && s.engineBusy c.engine < c.engine.atOnce &&
      (s.cmds.all fun d => !(d.engine == c.engine && d.phase == .queued && d.order < c.order))
  | none => false

/-- R307: the event that runs a command. -/
def runEvent (i : Instr) (c : Nat) : Instr :=
  match i with
  | .stairg _ _ => .stairgExecute c | .hoist _ _ _ => .hoistExecute c | .braid _ _ _ => .braidMatch c
  | .cmpr _ _ _ => .cmprExecute c | .dcmp _ _ _ => .dcmpExecute c | _ => .stairExecute c

/-- R25, R51, R306: the fork: COMMIT at the engine's scope, then the command is queued. -/
def State.fork (s : State) (c : Cx) (i : Instr) (k : BitVec 8) (r : SReg) : State :=
  let e := c.engine i
  let s1 := s.commitGroup c.gi e.scope
  let s2 := if c.g.carriesRegion e.scope then s1.closeRegion c else s1
  let begins := s2.seq + 1
  let cmd : Cmd :=
    { team := c.g.team, group := c.gi, part := c.p.id, engine := e, instr := i, knot := k.toNat, record := c.g.regs.spair r.val,
      ref := c.e.pc, hall := c.p.relHall c.t.hall, phase := .queued, pending := [], status := 0, addr := 0, beginSeq := begins,
      order := s.cmds.foldl (fun n d => max n (d.order + 1)) 0, matched := false, braid := none, data := none, remote := [],
      know := (.group c.gi, begins) :: c.g.know.map (fun k => (k.by_, k.upTo)), readSpad := false }
  ({ s2 with seq := begins, cmds := s2.cmds ++ [cmd] }.due (runEvent i s2.cmds.length)).retire c

/-- R305, R306: issue an engine command, or wait for its full queue. -/
def State.issueEngine (s : State) (c : Cx) (i : Instr) (k : BitVec 8) (r : SReg) : State :=
  if (c.engine i).capacity ≤ s.queued (c.engine i) then s.holdWord c .engineQueue else s.fork c i k r

/-- R305: STAIR. -/
def execStair (k : BitVec 8) (r : SReg) (s : State) : Host.Outcome State Fault Refusal :=
  issue (.stair k r) s fun c => s.issueEngine c (.stair k r) k r

/-- R305: STAIRG. -/
def execStairg (k : BitVec 8) (r : SReg) (s : State) : Host.Outcome State Fault Refusal :=
  issue (.stairg k r) s fun c => s.issueEngine c (.stairg k r) k r

/-- R305: HOIST. -/
def execHoist (e : BitVec 5) (k : BitVec 8) (r : SReg) (s : State) : Host.Outcome State Fault Refusal :=
  issue (.hoist e k r) s fun c => s.issueEngine c (.hoist e k r) k r

/-- R305: BRAID. -/
def execBraid (e : BitVec 5) (k : BitVec 8) (r : SReg) (s : State) : Host.Outcome State Fault Refusal :=
  issue (.braid e k r) s fun c => s.issueEngine c (.braid e k r) k r

/-- R305: CMPR. -/
def execCmpr (e : BitVec 5) (k : BitVec 8) (r : SReg) (s : State) : Host.Outcome State Fault Refusal :=
  issue (.cmpr e k r) s fun c => s.issueEngine c (.cmpr e k r) k r

/-- R305: DCMP. -/
def execDcmp (e : BitVec 5) (k : BitVec 8) (r : SReg) (s : State) : Host.Outcome State Fault Refusal :=
  issue (.dcmp e k r) s fun c => s.issueEngine c (.dcmp e k r) k r

/-! ### What an engine reads and writes -/

/-- A command with its team and partition. -/
structure Job where
  ci : Nat
  c : Cmd
  t : Team
  p : Part
deriving DecidableEq, Repr

/-- The command of a number with its team and partition. -/
def State.job? (s : State) (ci : Nat) : Option Job :=
  match s.cmds[ci]? with
  | none => none
  | some c =>
    match s.teams[c.team]?, s.part? c.part with
    | some t, some p => some { ci := ci, c := c, t := t, p := p }
    | _, _ => none

/-- R39, R390: a command as a party; a stair command moves with its team. -/
def Job.party (j : Job) : Party :=
  match j.c.engine with
  | .stair h => { part := some j.p.id, hall := some h, group := none, team := some j.c.team }
  | .cmpr _ => { part := some j.p.id, hall := none, group := none }
  | _ => Party.outside

/-- R51: a command as a reader; what an operator's HOIST reads comes from the system home (R422). -/
def Job.reader (j : Job) : Reader :=
  { party := j.party, beginH := j.c.beginSeq, beginP := j.c.beginSeq,
    beginY := if j.c.engine.scope == .y then j.c.beginSeq else 0,
    sysHome := j.p.cfg.tag == .operator && (match j.c.engine with | .hoist _ => true | _ => false), own := some j.p.id, sectors := true }

/-- Why an engine's access does not go on: a walk, a failure with its status and address, a torn seal, or a queued
fault. -/
inductive EngStop
  | wait (pages : List Nat)
  | fail (status : Nat) (addr : DWord)
  | torn (addr : DWord)
  | page (f : PageFault)
deriving DecidableEq, Repr

/-- R308: the statuses. -/
def statusRecord : Nat := 1
/-- R308: PAGE. -/
def statusPage : Nat := 2
/-- R308: ACCESS. -/
def statusAccess : Nat := 3
/-- R308: ALIGN. -/
def statusAlign : Nat := 4
/-- R308: SCRATCH_BOUND. -/
def statusScratch : Nat := 5
/-- R308: ACCTILE. -/
def statusTile : Nat := 6
/-- R308: FORMAT. -/
def statusFormat : Nat := 7
/-- R308: MEMORY_ERROR. -/
def statusMemory : Nat := 8
/-- R308: INDEX. -/
def statusIndex : Nat := 9
/-- R308: PEER. -/
def statusPeer : Nat := 10
/-- R308: MISMATCH. -/
def statusMismatch : Nat := 11
/-- R308: DATA. -/
def statusData : Nat := 12
/-- R308: CANCELLED. -/
def statusCancelled : Nat := 14

/-- R262, R310: the TLBs that an engine looks in: a stair engine those of its hall, the others that of the I/O die (log 47). -/
def State.engSites (s : State) (j : Job) : List TlbSite :=
  match j.c.engine with
  | .stair h => s.sitesOf h
  | _ => [.io]

/-- R310, R320, R431: the pieces of a run of global bytes, as an engine translates them. A page that no key seals takes no write (log 28). -/
def State.engPieces (s : State) (j : Job) (i : Intent) (va : Int) (n : Nat) : Except EngStop (List Piece) :=
  let xs := s.pieces j.p (s.engSites j) i false { lane := 0, runs := [(va, n)] }
  let compress := match j.c.engine with | .cmpr _ => true | _ => false
  let refused := fun x : Piece => match x.found with
    | .fault .access => true
    | .hit t => (compress && j.p.cfg.protect && !t.shr) || (i == .store && s.keyless (some j.p.id) t.shr (granOf x.key))
    | _ => false
  match xs.find? fun x => x.found == .missing || refused x || x.pageFault.isSome with
  | none => .ok xs
  | some x =>
    if refused x then .error (.fail statusAccess (BitVec.ofInt 64 x.va))
    else
      match x.pageFault with
      | some f => .error (.page f)
      | none => .error (.wait (ascending ((xs.filter fun y => y.found == .missing).map fun y => y.va.toNat / 4096)))

/-- R254, R417, R422: an engine's read of lines counts as an access; a read at the system home brings nothing to L2. -/
def State.touchEng (s : State) (j : Job) (xs : List Piece) : State :=
  let s1 := s.usedWalks j.p.id (s.engSites j) xs
  if j.reader.sysHome then s1 else (pieceLines j.p.id xs).foldl (fun s x => s.touchL2 x.2 x.1) s1

/-- R51, R275, R434: bytes that an engine reads from global memory. -/
def State.engRead (s : State) (j : Job) (va : Int) (n : Nat) : Except EngStop (List Byte × List Piece) :=
  match s.engPieces j .load va n with
  | .error e => .error e
  | .ok xs =>
    match xs.find? fun x => (s.poisoned [] x).isSome with
    | some x => .error (.fail statusMemory (BitVec.ofNat 64 ((s.poisoned [] x).getD 0)))
    | none =>
      match xs.find? (s.mismatched j.p []) with
      | some x =>
        .error (.torn (BitVec.ofNat 64 (match (List.range x.len).find? fun i => s.torn (some j.p.id) x.shr (granOf (x.key + i)) with
          | some i => (x.va.toNat + i) / 32 * 32
          | none => x.va.toNat)))
      | none => .ok (xs.flatMap fun x => s.readSpan { j.reader with shr := x.shr } [] s.free x.key x.len, xs)

/-- R50, R51: bytes of the team's scratchpad as the command reads them. -/
def State.engSpad (s : State) (j : Job) (off n : Nat) : List Byte :=
  j.t.spadRead { self := none, know := j.c.know, whole := true, grans := [] } s.free off n

/-- R311: bytes of a space. -/
def State.engGet (s : State) (j : Job) (space : Nat) (a : Int) (n : Nat) : Except EngStop (List Byte × List Piece) :=
  match space with
  | 0 => s.engRead j a n
  | 1 => .ok (s.engSpad j a.toNat n, [])
  | _ => .ok (j.t.tiles.readN a.toNat n, [])

/-- Bytes laid over those that a sector write has. -/
def overlaySome : List (Option Byte) → List (Option Byte) → List (Option Byte)
  | [], _ => []
  | x :: xs, [] => x :: xs
  | x :: xs, y :: ys => (if y.isSome then y else x) :: overlaySome xs ys

/-- R52: add bytes at an address of a space, and at a virtual address in space 0, to the sectors of a command. -/
def addSector (ws : List SectorWrite) (space a va : Nat) (shr : Bool) (bytes : List Byte) : List SectorWrite :=
  let n := bytes.length
  (ascending ((List.range n).map fun i => (a + i) / 32)).foldl (fun ws sec =>
    let new := (List.range 32).map fun i => let b := 32 * sec + i; if a ≤ b && b < a + n then bytes[b - a]? else none
    if ws.any fun w => w.space == space && w.addr == 32 * sec then
      ws.map fun w => if w.space == space && w.addr == 32 * sec then { w with bytes := overlaySome w.bytes new } else w
    else ws ++ [{ space := space, addr := 32 * sec, bytes := new, va := va / 32 * 32 + 32 * (sec - a / 32), shr := shr }]) ws

/-- R311: bytes to a space, as sectors. -/
def State.engPut (s : State) (j : Job) (ws : List SectorWrite) (space : Nat) (a : Int) (bytes : List Byte) : Except EngStop (List SectorWrite) :=
  match space with
  | 0 =>
    match s.engPieces j .store a bytes.length with
    | .error e => .error e
    | .ok xs =>
      .ok (xs.foldl (fun r x => (addSector r.1 0 x.key x.va.toNat x.shr (r.2.take x.len), r.2.drop x.len)) (ws, bytes)).1
  | sp => .ok (addSector ws sp a.toNat a.toNat false bytes)

/-- R308: the sectors of a command that no byte of a range it has not come to lies in: those hold the command's content whole. -/
def settled (space : Nat) (a : Int) (n : Nat) (ws : List SectorWrite) : List SectorWrite :=
  ws.filter fun w => !(w.space == space && (w.va : Int) < a + n && a < (w.va : Int) + 32)

/-! ### Ending a command -/

/-- Change a command. -/
def State.setCmd (s : State) (j : Job) (f : Cmd → Cmd) : State := s.updCmd j.ci f

/-- R307: a command has performed its writes. -/
def State.engDone (s : State) (j : Job) : State := (s.setCmd j fun c => { c with phase := .decrement }).due (.knotDecrement j.ci)

/-- R307: a command ends with a status; some of the sectors it would have written are written (R308). -/
def State.engFail (s : State) (j : Job) (status : Nat) (addr : DWord) (ws : List SectorWrite) : State :=
  let some_ := ws.filter fun w => Config.freePick s.free (w.space * 2 ^ 93 + w.addr) % 2 == 0
  let s1 := s.spend.setCmd j fun c => { c with status := status, addr := addr, pending := some_, phase := .writing }
  if some_.isEmpty then s1.engDone j else s1.due (.engineSectorCommit j.ci)

/-- R51: a command's writes are known: each sector is a commit of its own. -/
def State.engWrite (s : State) (j : Job) (ws : List SectorWrite) : State :=
  let s1 := s.spend.setCmd j fun c => { c with pending := ws, phase := .writing }
  if ws.isEmpty then s1.engDone j else s1.due (.engineSectorCommit j.ci)

/-- R310: the kind-5 entry of an engine's fault; the command pauses. -/
def State.engPage (s : State) (j : Job) (f : PageFault) (ws : List SectorWrite) : State :=
  let s1 := s.updPart j.p.id fun p => { p with xlat := p.xlat.forget [f.va / 4096] }
  let r := s1.queueFault j.p.id 5 j.c.hall j.c.ref.bits f
  r.1.setCmd j fun c => { c with phase := .waitFault r.2.serial f.stage2 none, addr := BitVec.ofNat 64 f.va, pending := ws }

/-- R307, R310, R434: a command stops at an access; a torn seal holds the partition. -/
def State.engStop (s : State) (j : Job) (e : EngStop) (ws : List SectorWrite) : State :=
  match e with
  | .wait pages => (s.askWalks j.p.id (s.engSites j) pages).due (runEvent j.c.instr j.ci)
  | .fail st a => s.engFail j st a ws
  | .torn a => (s.engFail j statusMemory a ws).beginHold j.p.id 2
  | .page f => s.engPage j f ws

/-- The granules of a sector write. -/
def SectorWrite.grans (w : SectorWrite) : List GranWrite :=
  [0, 1].filterMap fun h =>
    let bs := (w.bytes.drop (16 * h)).take 16
    if bs.any Option.isSome then some { gran := granOf w.addr + h, bytes := bs } else none

/-- R52, R313: a sector write of a space. -/
def State.writeSector (s : State) (j : Job) (w : SectorWrite) : State :=
  match w.space with
  | 0 =>
    s.commit { party := j.party, scope := j.c.engine.scope, atHome := true, atomic := false, sector := true, discard := false, own := some j.p.id }
      (writesAt w.va w.shr w.grans)
  | 1 => s.spadPlace j.c.team (.cmd j.ci) w.grans
  | _ => s.updTeam j.c.team fun t => { t with tiles := t.tiles.writeSome w.addr w.bytes }

/-- R51: ENGINE_SECTOR_COMMIT: one sector of a command, whichever the device takes next. -/
def execEngineSectorCommit (c : Nat) (s : State) : Host.Outcome State Fault Refusal :=
  .next (match s.job? c with
    | none => s
    | some j =>
      match j.c.pending with
      | [] => s
      | w0 :: rest =>
        let w := j.c.pending.getD (Config.freePick s.free c % (rest.length + 1)) w0
        let left := j.c.pending.erase w
        let s1 := ((s.writeSector j w).setCmd j fun c => { c with pending := left }).spend
        if left.isEmpty then s1.engDone j else s1.due (.engineSectorCommit c))

/-- R306: words that wait on a full queue look again. -/
def State.freeQueue (s : State) : State :=
  s.groups.zipIdx.foldl (fun s x => if x.1.anyEntry fun e => e.wait == .engineQueue then s.due (.engineEnqueue x.2) else s) s

/-- R306: ENGINE_ENQUEUE: a word that waits on a full engine queue issues again. -/
def execEngineEnqueue (g : Nat) (s : State) : Host.Outcome State Fault Refusal :=
  .next (s.updGroup g (Group.wake fun w => w == .engineQueue))

/-- R321: the commands that may start now, other than one. -/
def State.startNext (s : State) : State :=
  (List.range s.cmds.length).foldl (fun s c => match s.cmds[c]? with
    | some cmd => if s.mayStart c then s.due (runEvent cmd.instr c) else s
    | none => s) s

/-- R307: a command begins to run: its queue entry frees. -/
def State.begins (s : State) (j : Job) : State :=
  if j.c.phase == .queued then (s.setCmd j fun c => { c with phase := .running }).freeQueue else s.setCmd j fun c => { c with phase := .running }

/-- R30: a team may be released: every group has exited and every command has decremented its knot. A grid that the foyer's team has
launched is not one of its commands: it does not hold the team, and its decrement is lost where the team has been released (log 52). -/
def State.teamFinished (s : State) (ti : Nat) : Bool :=
  match s.teams[ti]? with
  | some t =>
    t.phase == .resident && (t.groups.all fun gi => (s.groups[gi]?).any Group.gone) &&
      (s.cmds.all fun c => !(c.team == ti && c.phase != .done))
  | none => false

/-- R30: see whether a team's release is due. -/
def State.checkTeam (s : State) (ti : Nat) : State := if s.teamFinished ti then s.due (.teamRelease ti) else s

/-- R27, R307: KNOT_DECREMENT: the command's last act. -/
def execKnotDecrement (c : Nat) (s : State) : Host.Outcome State Fault Refusal :=
  .next (match s.job? c with
    | none => s
    | some j =>
      if j.c.phase == .decrement then
        ((((s.setCmd j fun c => { c with phase := .done }).decrement j.c.team j.c.knot j.c.engine.scope j.c.status j.c.addr
          (j.c.passes j.ci s.seq)).checkTeam
          j.c.team).startNext)
      else s)

end Sys2Proof.Machine
end

