-- ==== Sys2Proof/Machine/Zstd.lean ====
section
/-! DEFINITION. Zstandard frames (R320), which the spec names and RFC 8878 gives (log 9): what a frame decodes to, and the frame that a
command writes. -/

namespace Sys2Proof.Machine

/-! ### XXH64 -/

/-- XXH64: its primes. -/
def xxhP1 : DWord := 0x9E3779B185EBCA87
/-- XXH64: its primes. -/
def xxhP2 : DWord := 0xC2B2AE3D27D4EB4F
/-- XXH64: its primes. -/
def xxhP3 : DWord := 0x165667B19E3779F9
/-- XXH64: its primes. -/
def xxhP4 : DWord := 0x85EBCA77C2B2AE63
/-- XXH64: its primes. -/
def xxhP5 : DWord := 0x27D4EB2F165667C5

/-- XXH64: one round of an accumulator. -/
def xxhRound (acc lane : DWord) : DWord := (acc + lane * xxhP2).rotateLeft 31 * xxhP1

/-- XXH64: an accumulator merged into the hash. -/
def xxhMerge (h acc : DWord) : DWord := (h ^^^ xxhRound 0 acc) * xxhP1 + xxhP4

/-- XXH64: 8 bytes of a list. -/
def xxhLane (bs : List Byte) (i : Nat) : DWord := BitVec.ofNat 64 (leNat ((bs.drop (8 * i)).take 8))

/-- XXH64: the four accumulators over whole stripes of 32 bytes, and the bytes that are left. -/
def xxhStripes : Nat → DWord × DWord × DWord × DWord → List Byte → (DWord × DWord × DWord × DWord) × List Byte
  | 0, v, bs => (v, bs)
  | n + 1, (a, b, c, d), bs =>
    if bs.length < 32 then ((a, b, c, d), bs)
    else xxhStripes n (xxhRound a (xxhLane bs 0), xxhRound b (xxhLane bs 1), xxhRound c (xxhLane bs 2), xxhRound d (xxhLane bs 3)) (bs.drop 32)

/-- XXH64: the last bytes, fewer than 32: by 8, then 4, then 1. -/
def xxhTail : Nat → DWord → List Byte → DWord
  | 0, h, _ => h
  | n + 1, h, bs =>
    if 8 ≤ bs.length then xxhTail n ((h ^^^ xxhRound 0 (xxhLane bs 0)).rotateLeft 27 * xxhP1 + xxhP4) (bs.drop 8)
    else if 4 ≤ bs.length then xxhTail n ((h ^^^ BitVec.ofNat 64 (leNat (bs.take 4)) * xxhP1).rotateLeft 23 * xxhP2 + xxhP3) (bs.drop 4)
    else
      match bs with
      | [] => h
      | b :: rest => xxhTail n ((h ^^^ b.zeroExtend 64 * xxhP5).rotateLeft 11 * xxhP1) rest

/-- XXH64 with seed 0. -/
def xxh64 (bs : List Byte) : DWord :=
  let r := xxhStripes (bs.length / 32) (xxhP1 + xxhP2, xxhP2, 0, 0 - xxhP1) bs
  let v := r.1
  let h0 := if bs.length < 32 then xxhP5
    else xxhMerge (xxhMerge (xxhMerge (xxhMerge (v.1.rotateLeft 1 + v.2.1.rotateLeft 7 + v.2.2.1.rotateLeft 12 + v.2.2.2.rotateLeft 18) v.1) v.2.1)
      v.2.2.1) v.2.2.2
  let h1 := xxhTail 32 (h0 + BitVec.ofNat 64 bs.length) r.2
  let h2 := (h1 ^^^ (h1 >>> 33)) * xxhP2
  let h3 := (h2 ^^^ (h2 >>> 29)) * xxhP3
  h3 ^^^ (h3 >>> 32)

/-! ### Bits -/

/-- The place of the highest set bit. -/
def topBit (n : Nat) : Nat := Nat.log2 n

/-- RFC 8878, 4: bits read backward: a stream's number, and how many of its bits are left; below 0 when more were read than it has. -/
structure BackBits where
  value : Nat
  left : Int
deriving DecidableEq, Repr

/-- RFC 8878, 4.1: a backward stream: its last byte's highest set bit only ends it. -/
def BackBits.open? (bs : List Byte) : Option BackBits :=
  match bs.getLast? with
  | some b => if b == 0 then none else some { value := leNat bs, left := topBit (leNat bs) }
  | none => none

/-- RFC 8878, 4.1: the next `n` bits, the first one highest; bits beyond the stream are 0. -/
def BackBits.peek (b : BackBits) (n : Nat) : Nat :=
  if b.left ≤ 0 then 0
  else
    let l := b.left.toNat
    if n ≤ l then b.value / 2 ^ (l - n) % 2 ^ n else b.value % 2 ^ l * 2 ^ (n - l)

/-- RFC 8878, 4.1: `n` bits are read. -/
def BackBits.skip (b : BackBits) (n : Nat) : BackBits := { b with left := b.left - n }

/-! ### FSE (RFC 8878, 4.1) -/

/-- A state of an FSE table: its symbol, the bits that give the next state, and what they add to. -/
structure FseCell where
  symbol : Nat
  bits : Nat
  base : Nat
deriving DecidableEq, Repr

/-- An FSE table: its accuracy, and its states. -/
structure Fse where
  acc : Nat
  cells : List FseCell
deriving DecidableEq, Repr

/-- RFC 8878, 4.1.1: symbols of probability 0 that a repeat flag adds: counts so far, newest first, and the bit place. -/
def fseZeros (value : Nat) : Nat → Nat → List Int → List Int × Nat
  | 0, pos, cs => (cs, pos)
  | fuel + 1, pos, cs =>
    let r := value / 2 ^ pos % 4
    let cs1 := List.replicate r 0 ++ cs
    if r == 3 then fseZeros value fuel (pos + 2) cs1 else (cs1, pos + 2)

/-- RFC 8878, 4.1.1: the counts of a table description, newest first, with the bit place after them. -/
def fseCounts (value : Nat) : Nat → Nat → Nat → List Int → Option (List Int × Nat)
  | 0, pos, remaining, cs => if remaining == 0 then some (cs, pos) else none
  | fuel + 1, pos, remaining, cs =>
    if remaining == 0 then some (cs, pos)
    else
      let bits := topBit (remaining + 1) + 1
      let v := value / 2 ^ pos % 2 ^ bits
      let low := v % 2 ^ (bits - 1)
      let threshold := 2 ^ bits - 1 - (remaining + 1)
      let short := low < threshold
      let x : Nat := if short then low else if 2 ^ (bits - 1) ≤ v then v - threshold else v
      let p : Int := (x : Int) - 1
      let pos1 := pos + (if short then bits - 1 else bits)
      if remaining < p.natAbs then none
      else
        let cs1 := p :: cs
        if p == 0 then
          let z := fseZeros value 256 pos1 cs1
          fseCounts value fuel z.2 (remaining - p.natAbs) z.1
        else fseCounts value fuel pos1 (remaining - p.natAbs) cs1

/-- RFC 8878, 4.1.1: the places after one where a symbol goes, past those of symbols of probability "less than 1". -/
def fseNext (size high : Nat) : Nat → Nat → Nat
  | 0, pos => pos
  | fuel + 1, pos =>
    let p := (pos + size / 2 + size / 8 + 3) % size
    if high ≤ p then fseNext size high fuel p else p

/-- RFC 8878, 4.1.1: symbols spread over a table, each at its place. -/
def fseSpread (size high : Nat) : List Nat → Nat → List (Nat × Nat) → List (Nat × Nat) × Nat
  | [], pos, acc => (acc, pos)
  | x :: rest, pos, acc => fseSpread size high rest (fseNext size high size pos) ((pos, x) :: acc)

/-- RFC 8878, 4.1.1: the states of a table, from its symbols in the order of the states; `seen` counts the states of each symbol so far. -/
def fseStates (acc : Nat) (count : Nat → Nat) : List Nat → List Nat → List FseCell
  | [], _ => []
  | x :: rest, seen =>
    let next := count x + (seen.filter fun y => y == x).length
    let bits := acc - topBit next
    { symbol := x, bits := bits, base := next * 2 ^ bits - 2 ^ acc } :: fseStates acc count rest (x :: seen)

/-- RFC 8878, 4.1.1: the table of an accuracy and counts. -/
def Fse.make (acc : Nat) (counts : List Int) : Option Fse :=
  let size := 2 ^ acc
  let rare := (counts.zipIdx.filter fun c => c.1 == -1).map fun c => c.2
  let high := size - rare.length
  let common := counts.zipIdx.flatMap fun c => List.replicate c.1.toNat c.2
  let r := fseSpread size high common 0 (rare.zipIdx.map fun x => (size - 1 - x.2, x.1))
  if r.2 != 0 then none
  else
    let symbols := (List.range size).map fun i => ((r.1.find? fun c => c.1 == i).map fun c => c.2).getD 0
    let count := fun x => (counts.getD x 0).natAbs
    some { acc := acc, cells := fseStates acc count symbols [] }

/-- RFC 8878, 4.1.1: a table description at the head of some bytes: the table and how many bytes it took. -/
def Fse.read (maxAcc maxSymbol : Nat) (bs : List Byte) : Option (Fse × Nat) :=
  let value := leNat (bs.take 512)
  let acc := value % 16 + 5
  if bs.isEmpty || maxAcc < acc then none
  else
    match fseCounts value (maxSymbol + 1) 4 (2 ^ acc) [] with
    | none => none
    | some (cs, pos) =>
      let used := (pos + 7) / 8
      if bs.length < used || maxSymbol + 1 < cs.length then none else (Fse.make acc cs.reverse).map fun f => (f, used)

/-- RFC 8878, 3.1.1.3.2.1: a table of one symbol. -/
def Fse.single (x : Nat) : Fse := { acc := 0, cells := [{ symbol := x, bits := 0, base := 0 }] }

/-- A state of a table. -/
def Fse.cell (f : Fse) (n : Nat) : FseCell := f.cells.getD n { symbol := 0, bits := 0, base := 0 }

/-- The state after one: it takes its bits from the stream. -/
def Fse.next (f : Fse) (n : Nat) (b : BackBits) : Nat × BackBits := ((f.cell n).base + b.peek (f.cell n).bits, b.skip (f.cell n).bits)

/-! ### Huffman (RFC 8878, 4.2) -/

/-- RFC 8878, 4.2.1.2: the weights that two states in turn give, newest first; they end when the stream is overrun. -/
def huffPairs (f : Fse) : Nat → Nat → Nat → BackBits → List Nat → Option (List Nat)
  | 0, _, _, _, _ => none
  | fuel + 1, a, b, bits, out =>
    let out1 := (f.cell a).symbol :: out
    let r := f.next a bits
    if r.2.left < 0 then some ((f.cell b).symbol :: out1) else huffPairs f fuel b r.1 r.2 out1

/-- RFC 8878, 4.2.1.2: weights compressed with FSE. -/
def huffFseWeights (bs : List Byte) : Option (List Nat) :=
  match Fse.read 6 255 bs with
  | none => none
  | some (f, used) =>
    (BackBits.open? (bs.drop used)).bind fun b =>
      let b1 := b.skip f.acc
      let b2 := b1.skip f.acc
      if b2.left < 0 then none else (huffPairs f 256 (b.peek f.acc) (b1.peek f.acc) b2 []).map List.reverse

/-- RFC 8878, 4.2.1: the weights of a tree description but the last, and how many bytes it took. -/
def huffWeights (bs : List Byte) : Option (List Nat × Nat) :=
  match bs with
  | [] => none
  | h :: rest =>
    let n := h.toNat
    if 128 ≤ n then
      let count := n - 127
      let size := (count + 1) / 2
      if rest.length < size then none
      else some (((rest.take size).flatMap fun b => [b.toNat / 16, b.toNat % 16]).take count, 1 + size)
    else if rest.length < n then none
    else (huffFseWeights (rest.take n)).map fun ws => (ws, 1 + n)

/-- A Huffman table: its longest code, and for each value of that many bits a symbol and the length of its code. -/
structure Huff where
  max : Nat
  codes : List (Nat × Nat)
deriving DecidableEq, Repr

/-- RFC 8878, 4.2.1.3: the table of some weights but the last, which makes the codes complete. -/
def Huff.make (ws : List Nat) : Option Huff :=
  let sum := (ws.map fun w => if w == 0 then 0 else 2 ^ (w - 1)).foldl (· + ·) 0
  if sum == 0 || ws.any (fun w => 11 < w) || 255 < ws.length then none
  else
    let m := topBit sum + 1
    let rest := 2 ^ m - sum
    if 2 ^ topBit rest != rest || 11 < m then none
    else
      let all := (ws ++ [topBit rest + 1]).zipIdx
      some { max := m, codes := (List.range (m + 1)).flatMap fun w =>
        if w == 0 then [] else (all.filter fun x => x.1 == w).flatMap fun x => List.replicate (2 ^ (w - 1)) (x.2, m + 1 - w) }

/-- RFC 8878, 4.2: a tree description: the table and how many bytes it took. -/
def Huff.read (bs : List Byte) : Option (Huff × Nat) := (huffWeights bs).bind fun r => (Huff.make r.1).map fun h => (h, r.2)

/-- RFC 8878, 4.2.2: `n` literals of a stream, newest first; the stream is read whole. -/
def Huff.decode (h : Huff) : Nat → BackBits → List Byte → Option (List Byte)
  | 0, b, out => if b.left == 0 then some out else none
  | n + 1, b, out =>
    let c := h.codes.getD (b.peek h.max) (0, 0)
    if b.left < c.2 then none else h.decode n (b.skip c.2) (BitVec.ofNat 8 c.1 :: out)

/-- RFC 8878, 4.2.2: the literals of one stream. -/
def Huff.stream (h : Huff) (bs : List Byte) (n : Nat) : Option (List Byte) :=
  (BackBits.open? bs).bind fun b => (h.decode n b []).map List.reverse

/-- RFC 8878, 4.2.2, 3.1.1.3.1.6: the literals of four streams after their jump table. -/
def Huff.streams (h : Huff) (bs : List Byte) (n : Nat) : Option (List Byte) :=
  let at_ := fun i => leNat ((bs.drop (2 * i)).take 2)
  let body := bs.drop 6
  let each := (n + 3) / 4
  if bs.length < 6 || body.length < at_ 0 + at_ 1 + at_ 2 || n < 3 * each then none
  else
    let b1 := body.drop (at_ 0)
    let b2 := b1.drop (at_ 1)
    (h.stream (body.take (at_ 0)) each).bind fun w =>
    (h.stream (b1.take (at_ 1)) each).bind fun x =>
    (h.stream (b2.take (at_ 2)) each).bind fun y =>
    (h.stream (b2.drop (at_ 2)) (n - 3 * each)).map fun z => w ++ x ++ y ++ z

/-! ### Blocks (RFC 8878, 3.1.1.2, 3.1.1.3) -/

/-- What a frame carries from block to block: its window, the output so far, newest first, the tables in force, and the last three
offsets. -/
structure ZFrame where
  window : Nat
  out : List Byte
  count : Nat
  huff : Option Huff
  ll : Option Fse
  off : Option Fse
  ml : Option Fse
  reps : Nat × Nat × Nat
deriving DecidableEq, Repr

/-- RFC 8878, 3.1.1.2.4: the largest content of a block. -/
def ZFrame.blockMax (z : ZFrame) : Nat := min z.window (128 * 1024)

/-- RFC 8878, 3.1.1.3.1: the literals of a compressed block, the table in force, and how many bytes the section took. -/
def zLiterals (huff : Option Huff) (bs : List Byte) : Option (List Byte × Option Huff × Nat) :=
  let v := leNat (bs.take 5)
  let sf := v / 4 % 4
  if v % 4 < 2 then
    let head := if sf % 2 == 0 then 1 else if sf == 1 then 2 else 3
    let n := if sf % 2 == 0 then v % 256 / 8 else if sf == 1 then v % 2 ^ 16 / 16 else v % 2 ^ 24 / 16
    let body := bs.drop head
    if bs.length < head then none
    else if v % 4 == 0 then (if body.length < n then none else some (body.take n, huff, head + n))
    else
      match body with
      | [] => none
      | b :: _ => some (List.replicate n b, huff, head + 1)
  else
    let head := if sf < 2 then 3 else if sf == 2 then 4 else 5
    let width := if sf < 2 then 10 else if sf == 2 then 14 else 18
    let n := v / 16 % 2 ^ width
    let size := v / 2 ^ (4 + width) % 2 ^ width
    let body := (bs.drop head).take size
    if bs.length < head + size then none
    else
      let tree : Option (Huff × Nat) := if v % 4 == 2 then Huff.read body else huff.map fun h => (h, 0)
      tree.bind fun t =>
        (if sf == 0 then t.1.stream (body.drop t.2) n else t.1.streams (body.drop t.2) n).map fun ls => (ls, some t.1, head + size)

/-- RFC 8878, 3.1.1.3.2.2: the default distributions. -/
def llDefault : List Int :=
  [4, 3, 2, 2, 2, 2, 2, 2, 2, 2, 2, 2, 2, 1, 1, 1, 2, 2] ++ [2, 2, 2, 2, 2, 2, 2, 3, 2, 1, 1, 1, 1, 1, -1, -1, -1, -1]
/-- RFC 8878, 3.1.1.3.2.2: the default distributions. -/
def mlDefault : List Int := [1, 4, 3, 2, 2, 2, 2, 2, 2] ++ List.replicate 37 1 ++ List.replicate 7 (-1)
/-- RFC 8878, 3.1.1.3.2.2: the default distributions. -/
def offDefault : List Int := [1, 1, 1, 1, 1, 1, 2, 2, 2] ++ List.replicate 15 1 ++ List.replicate 5 (-1)

/-- RFC 8878, 3.1.1.3.2.1: the table that a mode gives, and the bytes after its description. -/
def zTable (mode acc maxAcc maxSymbol : Nat) (default_ : List Int) (old : Option Fse) (bs : List Byte) : Option (Fse × List Byte) :=
  match mode with
  | 0 => (Fse.make acc default_).map fun f => (f, bs)
  | 1 =>
    match bs with
    | [] => none
    | b :: rest => if maxSymbol < b.toNat then none else some (Fse.single b.toNat, rest)
  | 2 => (Fse.read maxAcc maxSymbol bs).map fun r => (r.1, bs.drop r.2)
  | _ => old.map fun f => (f, bs)

/-- RFC 8878, 3.1.1.3.2.1.1: the bits that each literal-length code from 16 up adds. -/
def llBits (code : Nat) : Nat := if code < 16 then 0 else [1, 1, 1, 1, 2, 2, 3, 3, 4, 6, 7, 8, 9, 10, 11, 12, 13, 14, 15, 16].getD (code - 16) 0

/-- RFC 8878, 3.1.1.3.2.1.1: the bits that each match-length code from 32 up adds. -/
def mlBits (code : Nat) : Nat := if code < 32 then 0 else [1, 1, 1, 1, 2, 2, 3, 3, 4, 4, 5, 7, 8, 9, 10, 11, 12, 13, 14, 15, 16].getD (code - 32) 0

/-- RFC 8878, 3.1.1.3.2.1.1: the least length of a literal-length code. -/
def llBase (code : Nat) : Nat :=
  if code < 16 then code
  else if code < 25 then [16, 18, 20, 22, 24, 28, 32, 40, 48].getD (code - 16) 0
  else 2 ^ (code - 19)

/-- RFC 8878, 3.1.1.3.2.1.1: the least length of a match-length code. -/
def mlBase (code : Nat) : Nat :=
  if code < 32 then code + 3
  else if code < 43 then [35, 37, 39, 41, 43, 47, 51, 59, 67, 83, 99].getD (code - 32) 0
  else 2 ^ (code - 36) + 3

/-- RFC 8878, 3.1.1.5: the offset that a value stands for after some literals, and the last offsets then; none for an offset of 0. -/
def repOffset (value lits : Nat) (r : Nat × Nat × Nat) : Option (Nat × (Nat × Nat × Nat)) :=
  if 3 < value then some (value - 3, (value - 3, r.1, r.2.1))
  else
    match (if lits == 0 then value + 1 else value) with
    | 1 => some (r.1, r)
    | 2 => some (r.2.1, (r.2.1, r.1, r.2.2))
    | 3 => some (r.2.2, (r.2.2, r.1, r.2.1))
    | _ => if r.1 ≤ 1 then none else some (r.1 - 1, (r.1 - 1, r.1, r.2.1))

/-- RFC 8878, 3.1.1.4: a match is copied: the byte `off` back, `n` times over; the output is newest first. -/
def zCopy (off : Nat) : Nat → List Byte → List Byte
  | 0, out => out
  | n + 1, out => zCopy off n (out.getD (off - 1) 0 :: out)

/-- RFC 8878, 3.1.1.4: a sequence is executed: some literals, then a match within the window and the output. -/
def ZFrame.sequence (z : ZFrame) (lits : List Byte) (nlit off nmatch : Nat) : Option (ZFrame × List Byte) :=
  if lits.length < nlit || off == 0 || z.count + nlit < off || z.window < off then none
  else
    some ({ z with out := zCopy off nmatch ((lits.take nlit).reverse ++ z.out), count := z.count + nlit + nmatch }, lits.drop nlit)

/-- RFC 8878, 3.1.1.3.2: the states of the three codes. -/
structure ZStates where
  ll : Nat
  off : Nat
  ml : Nat
deriving DecidableEq, Repr

/-- RFC 8878, 3.1.1.3.2, 3.1.1.4: the sequences of a block, by the tables in force; the stream is read whole, and the literals that are left
end the block. -/
def ZFrame.sequences (l o m : Fse) : Nat → ZStates → BackBits → List Byte → ZFrame → Option ZFrame
  | 0, _, b, lits, z => if b.left == 0 then some { z with out := lits.reverse ++ z.out, count := z.count + lits.length } else none
  | n + 1, x, b, lits, z =>
    let oc := (o.cell x.off).symbol
    let mc := (m.cell x.ml).symbol
    let lc := (l.cell x.ll).symbol
    let value := 2 ^ oc + b.peek oc
    let b1 := b.skip oc
    let nmatch := mlBase mc + b1.peek (mlBits mc)
    let b2 := b1.skip (mlBits mc)
    let nlit := llBase lc + b2.peek (llBits lc)
    let b3 := b2.skip (llBits lc)
    if b3.left < 0 then none
    else
      (repOffset value nlit z.reps).bind fun r =>
        (({ z with reps := r.2 }).sequence lits nlit r.1 nmatch).bind fun z1 =>
          if n == 0 then ZFrame.sequences l o m n x b3 z1.2 z1.1
          else
            let u := l.next x.ll b3
            let v := m.next x.ml u.2
            let w := o.next x.off v.2
            if w.2.left < 0 then none else ZFrame.sequences l o m n { ll := u.1, off := w.1, ml := v.1 } w.2 z1.2 z1.1

/-- RFC 8878, 3.1.1.3.2.1: the number of sequences, and the bytes after it. -/
def zCount (bs : List Byte) : Option (Nat × List Byte) :=
  match bs with
  | [] => none
  | a :: rest =>
    if a.toNat < 128 then some (a.toNat, rest)
    else
      match rest with
      | [] => none
      | b :: rest2 =>
        if a.toNat < 255 then some ((a.toNat - 128) * 256 + b.toNat, rest2)
        else
          match rest2 with
          | [] => none
          | c :: rest3 => some (b.toNat + 256 * c.toNat + 0x7F00, rest3)

/-- RFC 8878, 3.1.1.3: a compressed block. -/
def ZFrame.compressed (z : ZFrame) (bs : List Byte) : Option ZFrame :=
  (zLiterals z.huff bs).bind fun x =>
    let z1 := { z with huff := x.2.1 }
    (zCount (bs.drop x.2.2)).bind fun c =>
      if c.1 == 0 then (if c.2.isEmpty then some { z1 with out := x.1.reverse ++ z1.out, count := z1.count + x.1.length } else none)
      else
        match c.2 with
        | [] => none
        | modes :: rest =>
          let m := modes.toNat
          if m % 4 != 0 then none
          else
            (zTable (m / 64) 6 9 35 llDefault z1.ll rest).bind fun l =>
            (zTable (m / 16 % 4) 5 8 31 offDefault z1.off l.2).bind fun o =>
            (zTable (m / 4 % 4) 6 9 52 mlDefault z1.ml o.2).bind fun t =>
            (BackBits.open? t.2).bind fun b =>
              let b1 := b.skip l.1.acc
              let b2 := b1.skip o.1.acc
              let b3 := b2.skip t.1.acc
              if b3.left < 0 then none
              else
                ZFrame.sequences l.1 o.1 t.1 c.1 { ll := b.peek l.1.acc, off := b1.peek o.1.acc, ml := b2.peek t.1.acc } b3 x.1
                  { z1 with ll := some l.1, off := some o.1, ml := some t.1 }

/-- RFC 8878, 3.1.1.2: the blocks of a frame, up to the last one, and the bytes after it. -/
def ZFrame.blocks : Nat → ZFrame → List Byte → Option (ZFrame × List Byte)
  | 0, _, _ => none
  | fuel + 1, z, bs =>
    let v := leNat (bs.take 3)
    let size := v / 8
    let body := bs.drop 3
    if bs.length < 3 || z.blockMax < size then none
    else
      let next : Option (ZFrame × List Byte) :=
        match v / 2 % 4 with
        | 0 => if body.length < size then none
               else some ({ z with out := (body.take size).reverse ++ z.out, count := z.count + size }, body.drop size)
        | 1 =>
          match body with
          | [] => none
          | b :: rest => some ({ z with out := List.replicate size b ++ z.out, count := z.count + size }, rest)
        | 2 => if body.length < size then none
               else ((z.compressed (body.take size)).bind fun y => if z.count + z.blockMax < y.count then none else some y).map fun y =>
                 (y, body.drop size)
        | _ => none
      next.bind fun r => if v % 2 == 1 then some r else ZFrame.blocks fuel r.1 r.2

/-! ### Frames -/

/-- R320, RFC 8878, 3.1.1.1: what a frame's header says: the window, the content size, whether a checksum follows, and the header's
length. -/
structure ZHeader where
  window : Nat
  size : Nat
  checksum : Bool
  length : Nat
deriving DecidableEq, Repr

/-- R320, RFC 8878, 3.1.1.1: a frame's header within the limits: a content size, no dictionary, and a window of at most 8 MiB. -/
def zHeader (bs : List Byte) : Option ZHeader :=
  let d := leNat ((bs.drop 4).take 1)
  let single := d / 32 % 2 == 1
  let flag := d / 64
  let sizeLen := if flag == 0 then (if single then 1 else 0) else 2 ^ flag
  let dictLen := [0, 1, 2, 4].getD (d % 4) 0
  let dictAt := if single then 5 else 6
  let sizeAt := dictAt + dictLen
  let w := leNat ((bs.drop 5).take 1)
  let size := leNat ((bs.drop sizeAt).take sizeLen) + (if flag == 1 then 256 else 0)
  let window := if single then size else 2 ^ (10 + w / 8) + 2 ^ (10 + w / 8) / 8 * (w % 8)
  if leNat (bs.take 4) != 0xFD2FB528 || bs.length < sizeAt + sizeLen || d / 8 % 2 == 1 || sizeLen == 0 ||
      leNat ((bs.drop dictAt).take dictLen) != 0 || 8 * 2 ^ 20 < window then none
  else some { window := window, size := size, checksum := d / 4 % 2 == 1, length := sizeAt + sizeLen }

/-- R320: what one frame decodes to; none for bytes that are no frame within the limits, or whose checksum does not match. -/
def zstdDecode (bs : List Byte) : Option (List Byte) :=
  (zHeader bs).bind fun h =>
    let start : ZFrame := { window := h.window, out := [], count := 0, huff := none, ll := none, off := none, ml := none, reps := (1, 4, 8) }
    (ZFrame.blocks bs.length start (bs.drop h.length)).bind fun r =>
      let out := r.1.out.reverse
      let sum := (natLe 8 (xxh64 out).toNat).take 4
      if r.1.count != h.size || r.2 != (if h.checksum then sum else []) then none else some out

/-- RFC 8878, 3.1.1.2: some bytes as raw blocks. -/
def rawBlocks : Nat → List Byte → List Byte
  | 0, _ => []
  | fuel + 1, bs =>
    let part := bs.take 1024
    let last := bs.length ≤ 1024
    natLe 3 (8 * part.length + (if last then 1 else 0)) ++ part ++ (if last then [] else rawBlocks fuel (bs.drop 1024))

/-- R320: a frame of raw blocks, with the content size and the checksum, a window of 1 KiB and no dictionary. -/
def rawFrame (bs : List Byte) : List Byte :=
  natLe 4 0xFD2FB528 ++ natLe 1 0xC4 ++ natLe 1 0 ++ natLe 8 bs.length ++ rawBlocks (bs.length + 1) bs ++ (natLe 8 (xxh64 bs).toNat).take 4

/-- R320: the frame that CMPR writes, which is a function of the level and the source: the device's, a free one, as long as it is one with
a checksum that decodes to the source (log 9). -/
def zstdFrame (level : Nat) (bs : List Byte) : List Byte :=
  let f := Config.zstdFrame level bs
  if zstdDecode f == some bs && (zHeader f).any ZHeader.checksum then f else rawFrame bs

end Sys2Proof.Machine
end

