-- ==== Sys2Proof/Machine/Copy.lean ====
section
/-! DEFINITION. The stair, hoist and compression engines (R311 to R315, R320). -/

namespace Sys2Proof.Machine

/-! ### Records -/

/-- Some bytes are all zero. -/
def zeroAt (rec_ : List Byte) (o n : Nat) : Bool := fieldAt rec_ o n == 0

/-- A signed 64-bit field. -/
def signedAt (rec_ : List Byte) (o : Nat) : Int := signedOf 64 (fieldAt rec_ o 8)

/-- A stop with a status at the record (R308). -/
def Job.bad (j : Job) (status : Nat) : EngStop := .fail status j.c.record

/-- R307: bytes of the command's record; the record is 32-byte aligned. -/
def State.readRecord (s : State) (j : Job) (o n : Nat) : Except EngStop (List Byte) :=
  if j.c.record.toNat % 32 != 0 then .error (j.bad statusAlign)
  else (s.engRead j (j.c.record.toNat + o) n).map fun r => r.1

/-- R313: a copy that is checked: spaces, element bytes, the fill pattern, the block check, and for each element its source
(none for a row of zeros) and its destination. -/
structure CopyPlan where
  src : Nat
  dst : Nat
  esize : Nat
  fill : Option (List Byte)
  check : Bool
  elems : List (Option Int × Int)
deriving DecidableEq, Repr

/-- R312: element bytes of a size code. -/
def elemBytes (code : Nat) : Nat :=
  match code with
  | 0 => 1 | 1 => 2 | 2 => 4 | 3 => 8 | 4 => 16 | _ => 64

/-- R312: a dimension: extent, source stride, destination stride. -/
structure Dim where
  extent : Nat
  src : Int
  dst : Int
deriving DecidableEq, Repr

/-- R313: every element, dimension 0 fastest. -/
def dimElems (src dst : Int) : List Dim → List (Int × Int)
  | [] => [(src, dst)]
  | ds => ds.foldl (fun out d => (List.range d.extent).flatMap fun (i : Nat) => out.map fun e => (e.1 + i * d.src, e.2 + i * d.dst)) [(src, dst)]

/-- R312: the fill of an element. -/
def fillBytes (esize : Nat) (v : List Byte) : List Byte := (List.range esize).map fun i => v.getD (i % 4) 0

/-- R308, R312: the STAIR record's RECORD checks, then its ALIGN checks. -/
def Job.stairPlan (j : Job) (rec_ : List Byte) : Except EngStop CopyPlan :=
  let rank := fieldAt rec_ 1 1
  let code := fieldAt rec_ 2 1
  let spaces := fieldAt rec_ 3 1
  let flags := fieldAt rec_ 4 1
  let ss := spaces % 4
  let ds := spaces / 4 % 4
  let esize := elemBytes code
  let dims := (List.range rank).map fun k =>
    { extent := fieldAt rec_ (0x20 + 24 * k) 4, src := signedAt rec_ (0x28 + 24 * k), dst := signedAt rec_ (0x30 + 24 * k) : Dim }
  let total := dims.foldl (fun n d => n * d.extent) 1
  let fill := flags % 2 == 1
  let check := flags / 2 % 2 == 1
  let src : Int := fieldAt rec_ 8 8
  let dst : Int := fieldAt rec_ 0x10 8
  if 5 < code || spaces / 16 != 0 || ss == 3 || ds == 3 || flags / 4 != 0 || (check && code != 5) || !zeroAt rec_ 5 3 ||
      !zeroAt rec_ 0x1C 4 || ((List.range rank).any fun k => !zeroAt rec_ (0x24 + 24 * k) 4) || 2 ^ 32 < total then
    .error (j.bad statusRecord)
  else if dst % (esize : Int) != 0 || (dims.any fun d => d.dst % (esize : Int) != 0) ||
      (!fill && (src % (esize : Int) != 0 || dims.any fun d => d.src % (esize : Int) != 0)) then
    .error (j.bad statusAlign)
  else
    .ok { src := ss, dst := ds, esize := esize, fill := if fill then some (fillBytes esize (bytesAt rec_ 0x18 4)) else none,
          check := check, elems := (dimElems src dst dims).map fun e => (some e.1, e.2) }

/-- R311, R313: elements beyond the team's scratchpad or tiles: the status. -/
def Job.outOfBound (j : Job) (space esize : Nat) (addrs : List Int) : Option Nat :=
  let beyond := fun limit : Nat => addrs.any fun a => a < 0 || (limit : Int) < a + esize
  match space with
  | 1 => if beyond j.t.hdr.scratch then some statusScratch else none
  | 2 => if beyond (4096 * j.t.hdr.tiles) then some statusTile else none
  | _ => none

/-- R313: the bounds of a plan; where both sides break theirs, the source's status is reported, DESIGN CHOICE (log 67). -/
def Job.checkBounds (j : Job) (p : CopyPlan) : Except EngStop Unit :=
  let srcs := if p.fill.isSome then [] else p.elems.filterMap fun e => e.1
  match j.outOfBound p.src p.esize srcs, j.outOfBound p.dst p.esize (p.elems.map fun e => e.2) with
  | some st, _ => .error (j.bad st)
  | none, some st => .error (j.bad st)
  | none, none => .ok ()

/-! ### Copying -/

/-- R313: the header check of a block that stands alone. -/
def aloneFault (b : List Byte) : Option Nat := blockFault (blockFmt b == 15) b

/-- R313: the bytes of one element. -/
def State.elemOf (s : State) (j : Job) (p : CopyPlan) (src : Option Int) : Except EngStop (List Byte × List Piece) :=
  match p.fill, src with
  | some f, _ => .ok (f, [])
  | none, none => .ok (List.replicate p.esize 0, [])
  | none, some a => s.engGet j p.src a p.esize

/-- What a copy comes to: the pieces it read, the sectors it would write, and what stopped it. -/
structure Copied where
  read : List Piece
  writes : List SectorWrite
  stop : Option EngStop

/-- R308, R313: copy the elements in order, up to one that fails; what may then be written are the sectors that no element from there on
lies in. -/
def State.copyElems (s : State) (j : Job) (p : CopyPlan) : List (Option Int × Int) → Copied → Copied
  | [], acc => acc
  | (a, d) :: rest, acc =>
    let left := ((a, d) :: rest).foldl (fun ws e => settled p.dst e.2 p.esize ws) acc.writes
    match s.elemOf j p a with
    | .error e => { acc with stop := some e, writes := left }
    | .ok (bytes, xs) =>
      if p.check && (aloneFault bytes).isSome then
        { acc with stop := some (.fail statusFormat (BitVec.ofInt 64 (if p.fill.isSome then d else a.getD d))), writes := left }
      else
        match s.engPut j acc.writes p.dst d bytes with
        | .error e => { acc with stop := some e, writes := left }
        | .ok ws => s.copyElems j p rest { read := acc.read ++ xs, writes := ws, stop := none }

/-- R51, R454: a command reads scratchpad. -/
def State.readsSpad (s : State) (j : Job) (b : Bool) : State := s.setCmd j fun c => { c with readSpad := c.readSpad || b }

/-- R307: a copy as a command performs it; `listed` says that it has read its indices in scratchpad. -/
def State.runCopy (s : State) (j : Job) (p : CopyPlan) (listed : Bool := false) : State :=
  match j.checkBounds p with
  | .error e => (s.readsSpad j listed).engStop j e []
  | .ok _ =>
    let r := s.copyElems j p p.elems { read := [], writes := [], stop := none }
    let s1 := s.readsSpad j (listed || (p.src == 1 && p.fill.isNone && !p.elems.isEmpty))
    match r.stop with
    | some e => s1.engStop j e r.writes
    | none => (s1.touchEng j r.read).engWrite j r.writes

/-- R307, R310: run a command that may: it is queued and next, or runs and looks again. -/
def State.runCmd (s : State) (ci : Nat) (k : State → Job → State) : State :=
  match s.job? ci with
  | none => s
  | some j =>
    if s.mayStart ci || j.c.phase == .running then k (s.begins j) j
    else
      match j.c.phase with
      | .waitFault _ _ (some true) => s.engFail j statusPage j.c.addr j.c.pending
      | .waitFault _ _ (some false) => k (s.begins j) j
      | _ => s

/-- R313: STAIR_EXECUTE. -/
def execStairExecute (c : Nat) (s : State) : Host.Outcome State Fault Refusal :=
  .next (s.runCmd c fun s j =>
    match s.readRecord j 0 32 with
    | .error e => s.engStop j e []
    | .ok h =>
      if fieldAt h 0 1 != 1 || fieldAt h 1 1 == 0 || 10 < fieldAt h 1 1 then s.engStop j (j.bad statusRecord) []
      else
        match s.readRecord j 32 (24 * fieldAt h 1 1) with
        | .error e => s.engStop j e []
        | .ok rest =>
          match j.stairPlan (h ++ rest) with
          | .error e => s.engStop j e []
          | .ok p => s.runCopy j p)

/-- R314: the STAIRG record. -/
structure Gather where
  idx : Nat
  space : Nat
  local_ : Bool
  check : Bool
  row : Nat
  src : Int
  srcPitch : Int
  dst : Int
  dstPitch : Int
  list : Nat
  rows : Nat
  bound : Nat
deriving DecidableEq, Repr

/-- R314: the fields of the record. -/
def readGather (rec_ : List Byte) : Gather :=
  { idx := fieldAt rec_ 1 1, space := fieldAt rec_ 2 1, local_ := fieldAt rec_ 3 1 % 2 == 1, check := fieldAt rec_ 3 1 / 2 % 2 == 1,
    row := fieldAt rec_ 4 4, src := fieldAt rec_ 8 8, srcPitch := signedAt rec_ 0x10, dst := fieldAt rec_ 0x18 8,
    dstPitch := signedAt rec_ 0x20, list := fieldAt rec_ 0x28 8, rows := fieldAt rec_ 0x30 4, bound := fieldAt rec_ 0x34 4 }

/-- R314: RECORD, then ALIGN. -/
def Job.checkGather (j : Job) (rec_ : List Byte) : Except EngStop Gather :=
  let g := readGather rec_
  if fieldAt rec_ 0 1 != 2 || (g.idx != 2 && g.idx != 4) || 2 < g.space || fieldAt rec_ 3 1 / 4 != 0 || g.row < 16 || 65536 < g.row ||
      g.row % 16 != 0 || (g.check && g.row != 64) || 65536 < g.rows || !zeroAt rec_ 0x38 8 then
    .error (j.bad statusRecord)
  else if g.src % 16 != 0 || g.srcPitch % 16 != 0 || g.dst % 16 != 0 || g.dstPitch % 16 != 0 || g.list % g.idx != 0 then
    .error (j.bad statusAlign)
  else .ok g

/-- R314: the plan of a gather whose indices are read. -/
def Gather.plan (g : Gather) (idx : List Nat) : CopyPlan :=
  let e := if g.check then 64 else 16
  let ones := 2 ^ (8 * g.idx) - 1
  { src := 0, dst := g.space, esize := e, fill := none, check := g.check,
    elems := idx.zipIdx.flatMap fun x => (List.range (g.row / e)).map fun (i : Nat) =>
      (if x.1 = ones then none else some (g.src + x.1 * g.srcPitch + i * e), g.dst + x.2 * g.dstPitch + i * e) }

/-- R314: the indices of a gather. -/
def State.readIndices (s : State) (j : Job) (g : Gather) : Except EngStop (List Nat) :=
  let n := g.idx * g.rows
  let bytes := if n = 0 then .ok []
    else if g.local_ then
      (match j.outOfBound 1 n [(g.list : Int)] with
       | some st => .error (j.bad st)
       | none => .ok (s.engSpad j g.list n))
    else (s.engRead j g.list n).map fun r => r.1
  bytes.map fun bs => (List.range g.rows).map fun i => fieldAt bs (g.idx * i) g.idx

/-- R314: STAIRG_EXECUTE. -/
def execStairgExecute (c : Nat) (s : State) : Host.Outcome State Fault Refusal :=
  .next (s.runCmd c fun s j =>
    match s.readRecord j 0 64 with
    | .error e => s.engStop j e []
    | .ok rec_ =>
      match j.checkGather rec_ with
      | .error e => s.engStop j e []
      | .ok g =>
        match j.checkBounds (g.plan (List.replicate g.rows (2 ^ (8 * g.idx) - 1))) with
        | .error e => s.engStop j e []
        | .ok _ =>
          match s.readIndices j g with
          | .error e => s.engStop j e []
          | .ok idx =>
            let listed := g.local_ && g.rows != 0
            if idx.any fun i => g.bound ≤ i && i != 2 ^ (8 * g.idx) - 1 then
              (s.readsSpad j listed).engStop j (.fail statusIndex (BitVec.ofNat 64 g.list)) []
            else s.runCopy j (g.plan idx) listed)

/-- R315: the HOIST record. -/
def Job.hoistPlan (j : Job) (rec_ : List Byte) : Except EngStop CopyPlan :=
  let row := fieldAt rec_ 0x18 8
  let src : Int := fieldAt rec_ 8 8
  let dst : Int := fieldAt rec_ 0x10 8
  let sp := signedAt rec_ 0x28
  let dp := signedAt rec_ 0x30
  if fieldAt rec_ 0 1 != 3 || !zeroAt rec_ 1 7 || row % 16 != 0 || 2 ^ 40 < row || !zeroAt rec_ 0x24 4 || !zeroAt rec_ 0x38 8 then
    .error (j.bad statusRecord)
  else if src % 16 != 0 || dst % 16 != 0 || sp % 16 != 0 || dp % 16 != 0 then .error (j.bad statusAlign)
  else
    .ok { src := 0, dst := 0, esize := 16, fill := none, check := false,
          elems := (dimElems src dst [{ extent := row / 16, src := 16, dst := 16 }, { extent := fieldAt rec_ 0x20 4, src := sp, dst := dp }]).map
            fun e => (some e.1, e.2) }

/-- R315: HOIST_EXECUTE. -/
def execHoistExecute (c : Nat) (s : State) : Host.Outcome State Fault Refusal :=
  .next (s.runCmd c fun s j =>
    match s.readRecord j 0 64 with
    | .error e => s.engStop j e []
    | .ok rec_ =>
      match j.hoistPlan rec_ with
      | .error e => s.engStop j e []
      | .ok p => s.runCopy j p)

/-! ### Compression -/

/-- R320: the record of CMPR and DCMP. -/
structure CmprRecord where
  level : Nat
  src : Nat
  len : Nat
  dst : Nat
  cap : Nat
  result : Nat
deriving DecidableEq, Repr

/-- R320: RECORD, then ALIGN. -/
def Job.checkCmpr (j : Job) (rec_ : List Byte) (levels : Nat → Bool) : Except EngStop CmprRecord :=
  let r : CmprRecord := { level := fieldAt rec_ 1 1, src := fieldAt rec_ 8 8, len := fieldAt rec_ 0x10 8, dst := fieldAt rec_ 0x18 8,
                          cap := fieldAt rec_ 0x20 8, result := fieldAt rec_ 0x28 8 }
  if fieldAt rec_ 0 1 != 5 || !levels r.level || !zeroAt rec_ 2 6 || 2 ^ 40 < r.len || !zeroAt rec_ 0x30 16 then
    .error (j.bad statusRecord)
  else if r.result % 8 != 0 then .error (j.bad statusAlign)
  else .ok r

/-- R320: the output and its length reach memory, or the command ends with DATA. -/
def State.putOutput (s : State) (j : Job) (r : CmprRecord) (xs : List Piece) (out : Option (List Byte)) : State :=
  match out with
  | none => s.engStop j (.fail statusData (BitVec.ofNat 64 r.src)) []
  | some bytes =>
    if r.cap < bytes.length then s.engStop j (.fail statusData (BitVec.ofNat 64 r.src)) []
    else
      match s.engPut j [] 0 r.dst bytes with
      | .error e => s.engStop j e []
      | .ok ws =>
        match s.engPut j ws 0 r.result (natLe 8 bytes.length) with
        | .error e => s.engStop j e (settled 0 r.result 8 ws)
        | .ok ws2 => (s.touchEng j xs).engWrite j ws2

/-- R320: a compression command, by what it makes of its source. -/
def State.runCmpr (s : State) (j : Job) (levels : Nat → Bool) (f : CmprRecord → List Byte → Option (List Byte)) : State :=
  match s.readRecord j 0 64 with
  | .error e => s.engStop j e []
  | .ok rec_ =>
    match j.checkCmpr rec_ levels with
    | .error e => s.engStop j e []
    | .ok r =>
      match s.engRead j r.src r.len with
      | .error e => s.engStop j e []
      | .ok (bytes, xs) => s.putOutput j r xs (f r bytes)

/-- R320: CMPR_EXECUTE. -/
def execCmprExecute (c : Nat) (s : State) : Host.Outcome State Fault Refusal :=
  .next (s.runCmd c fun s j =>
    s.runCmpr j (fun l => 1 ≤ l && l ≤ 19) fun r bytes => some (zstdFrame r.level bytes))

/-- R320: DCMP_EXECUTE. -/
def execDcmpExecute (c : Nat) (s : State) : Host.Outcome State Fault Refusal :=
  .next (s.runCmd c fun s j => s.runCmpr j (fun l => l == 0) fun _ bytes => zstdDecode bytes)

end Sys2Proof.Machine
end

