-- ==== Sys2Proof/Machine/Braid.lean ====
section
/-! DEFINITION. The braid engines (R316 to R319): matching, the exchange of the ranks' sources, timeouts and aborts. Ranks
in other packages act through the outside's message (log 7). -/

namespace Sys2Proof.Machine

/-- R84, R317: bytes of an element of a type code. -/
def typeBytes (t : Nat) : Nat :=
  match t with
  | 0 => 4 | 1 => 4 | 2 => 4 | 3 => 2 | 4 => 2 | 5 => 1 | 6 => 1 | 8 => 1 | 9 => 1 | 10 => 2 | 11 => 2 | 12 => 8 | _ => 0

/-- R317: the operation reduces. -/
def braidReduces (op : Nat) : Bool := op < 2

/-- R317: types that an operation takes. -/
def braidType (op t : Nat) : Bool :=
  if braidReduces op then t ≤ 4 || t == 12 else t ≤ 6 || (8 ≤ t && t ≤ 12)

/-- R317: elements of a rank's source. -/
def BraidInfo.srcCount (b : BraidInfo) : Nat := if b.op == 1 || b.op == 4 then b.ranks * b.count else b.count

/-- R317: elements of a rank's destination. -/
def BraidInfo.dstCount (b : BraidInfo) : Nat := if b.op == 2 || b.op == 4 then b.ranks * b.count else b.count

/-- R316, R453: a rank is permitted: it lies in the partition, or a valid entry of the peer window table names it. -/
def State.rankPermitted (s : State) (p : Part) (package part : Nat) : Bool :=
  (package == Config.packageNumber && part == p.id) ||
    (List.range p.ropeCount.toNat).any fun n =>
      (peerWindow s.mem p n).any fun w => w.braid && w.package == package && w.part == part

/-- R316: the entry of rank `k` in a descriptor: package, partition, engine, and whether the other bits are zero. -/
def rankEntry (d : List Byte) (k : Nat) : Nat × Nat × Nat × Bool :=
  let e := fieldAt d (0x20 + 8 * k) 8
  (e % 2 ^ 18, e / 2 ^ 18 % 2 ^ 7, e / 2 ^ 32 % 32, e / 2 ^ 25 % 2 ^ 7 == 0 && e / 2 ^ 37 == 0)

/-- R308, R316, R317: the checks of a BRAID's record, then of its descriptor. -/
def State.checkBraid (s : State) (j : Job) (rec_ d : List Byte) : Except EngStop BraidInfo :=
  let op := fieldAt rec_ 1 1
  let typ := fieldAt rec_ 2 1
  let n := fieldAt d 8 4
  let me := fieldAt d 12 4
  let b : BraidInfo :=
    { tag := fieldAt d 0 8, ranks := n, rank := me, op := op, typ := typ, red := fieldAt rec_ 3 1, count := fieldAt rec_ 0x20 8,
      root := fieldAt rec_ 0x2C 4, source := fieldAt rec_ 0x10 8, dest := fieldAt rec_ 0x18 8, desc := fieldAt rec_ 8 8,
      timeout := fieldAt rec_ 0x28 4, ordinal := 0,
      here := ((List.range n).filter fun k => (rankEntry d k).1 == Config.packageNumber).map fun k =>
        (k, (rankEntry d k).2.1, (rankEntry d k).2.2.1) }
  let mine := rankEntry d me
  if n < 2 || 4096 < n || n ≤ me || !zeroAt d 0x10 16 ||
      ((List.range n).any fun k => !(rankEntry d k).2.2.2 || 95 < (rankEntry d k).2.1) ||
      !(mine.1 == Config.packageNumber && mine.2.1 == j.p.id && mine.2.2.1 == engineIndex j.c.instr) then
    .error (j.bad statusRecord)
  else if (List.range n).any fun k => !s.rankPermitted j.p (rankEntry d k).1 (rankEntry d k).2.1 then
    .error (.fail statusPeer (BitVec.ofNat 64 b.desc))
  else .ok b

/-- R317: the RECORD checks of the record that need no descriptor. -/
def Job.checkBraidRecord (j : Job) (rec_ : List Byte) : Except EngStop Unit :=
  let op := fieldAt rec_ 1 1
  let typ := fieldAt rec_ 2 1
  let c := fieldAt rec_ 0x20 8
  if fieldAt rec_ 0 1 != 4 || 4 < op || !braidType op typ || 2 < fieldAt rec_ 3 1 || (!braidReduces op && fieldAt rec_ 3 1 != 0) ||
      !zeroAt rec_ 4 4 || c == 0 || 2 ^ 36 < c || !zeroAt rec_ 0x30 16 then
    .error (j.bad statusRecord)
  else .ok ()

/-- R317: the source and the destination are multiples of the element size. -/
def braidAligned (rec_ : List Byte) : Bool :=
  fieldAt rec_ 0x10 8 % typeBytes (fieldAt rec_ 2 1) == 0 && fieldAt rec_ 0x18 8 % typeBytes (fieldAt rec_ 2 1) == 0

/-- R308, R317: the root of a BROADCAST is a RECORD check of the record, which comes before its ALIGN checks. -/
def Job.checkBraidAlign (j : Job) (rec_ : List Byte) (ranks : Nat) : Except EngStop Unit :=
  if fieldAt rec_ 1 1 == 3 && ranks ≤ fieldAt rec_ 0x2C 4 then .error (j.bad statusRecord)
  else if !braidAligned rec_ then .error (j.bad statusAlign)
  else .ok ()

/-- R316: the descriptor's bytes. -/
def State.readDescriptor (s : State) (j : Job) (a : Nat) : Except EngStop (List Byte) :=
  match s.engRead j a 32 with
  | .error e => .error e
  | .ok (h, _) =>
    let n := fieldAt h 8 4
    if n < 2 || 4096 < n then .error (j.bad statusRecord)
    else (s.engRead j (a + 32) (8 * n)).map fun r => h ++ r.1

/-- R307, R308: what a BRAID's record and descriptor say. A BROADCAST's root needs the descriptor, so its descriptor is read first; any
other misaligned record ends without it (log 39). -/
def State.readBraid (s : State) (j : Job) : Except EngStop BraidInfo :=
  match s.readRecord j 0 64 with
  | .error e => .error e
  | .ok rec_ =>
    match j.checkBraidRecord rec_ with
    | .error e => .error e
    | .ok _ =>
      if fieldAt rec_ 8 8 % 64 != 0 || (fieldAt rec_ 1 1 != 3 && !braidAligned rec_) then .error (j.bad statusAlign)
      else
        match s.readDescriptor j (fieldAt rec_ 8 8) with
        | .error e => .error e
        | .ok d =>
          match j.checkBraidAlign rec_ (fieldAt d 8 4) with
          | .error e => .error e
          | .ok _ => s.checkBraid j rec_ d

/-! ### Matching -/

/-- R316: a command's entry in a descriptor that names it: its rank, its partition and its engine of the partition. -/
def Cmd.entry (c : Cmd) (m : BraidInfo) : Nat × Nat × Nat := (m.rank, c.part, engineIndex c.instr)

/-- R319: the commands of a tag and place that a command's descriptor names, of those that satisfy a test. -/
def State.braidsOf (s : State) (b : BraidInfo) (p : Cmd → Bool) : List (Nat × BraidInfo) :=
  s.cmds.zipIdx.filterMap fun x => match x.1.braid with
    | some m => if m.tag == b.tag && m.ordinal == b.ordinal && b.here.contains (x.1.entry m) && p x.1 then some (x.2, m) else none
    | none => none

/-- R319: the commands that may match a command's tag and place. -/
def State.braidMates (s : State) (b : BraidInfo) : List (Nat × BraidInfo) :=
  s.braidsOf b fun c => c.phase == .running && !c.matched

/-- R319: the commands that have matched. -/
def State.braidPeers (s : State) (b : BraidInfo) : List (Nat × BraidInfo) := s.braidsOf b Cmd.matched

/-- R319: the place of a rank's next command with a tag, of those of its partition. -/
def State.braidOrdinal (s : State) (pid : Nat) (b : BraidInfo) : Nat :=
  (s.cmds.filter fun c => c.part == pid && c.braid.any fun m => m.tag == b.tag && m.rank == b.rank).length

/-- R319: matched commands agree. -/
def BraidInfo.agrees (a b : BraidInfo) : Bool :=
  a.op == b.op && a.typ == b.typ && a.red == b.red && a.count == b.count && a.root == b.root && a.ranks == b.ranks

/-- R319: end some commands with a status at their descriptors. -/
def State.endBraids (s : State) (st : Nat) (ms : List (Nat × BraidInfo)) : State :=
  ms.foldl (fun s m => match s.job? m.1 with
    | some j => s.engFail j st (BitVec.ofNat 64 m.2.desc) []
    | none => s) s

/-- R319: every rank has matched: the ranks here, and, as the outside says, those of other packages, whose source elements
it gives in ascending rank. Its kind 1 says that one of them disagrees. -/
def State.tryMatch (s : State) (b : BraidInfo) : State :=
  let ms := s.braidMates b
  let allHere := b.here.all fun k => ms.any fun m => m.2.rank == k.1
  let away := b.here.length < b.ranks
  if !allHere || (away && !s.inbox.flag) then s
  else if (ms.any fun m => !m.2.agrees b) || (away && s.inbox.kind == 1) then s.endBraids statusMismatch ms
  else
    ms.foldl (fun s m =>
      (s.updCmd m.1 fun c => { c with matched := true, remote := if away then s.inbox.bytes else [] }).due (.braidExecute m.1)) s

/-- R307, R319: BRAID_MATCH: a command starts, or its ranks match. -/
def execBraidMatch (c : Nat) (s : State) : Host.Outcome State Fault Refusal :=
  .next (match (s.cmds[c]?).bind Cmd.braid with
    | some b => if (s.cmds[c]?).any fun d => d.phase == .running && !d.matched then s.tryMatch b else s
    | none => s.runCmd c fun s j =>
        match s.readBraid j with
        | .error e => s.engStop j e []
        | .ok b0 =>
          let b := { b0 with ordinal := s.braidOrdinal j.p.id b0 }
          let s1 := s.spend.setCmd j fun c => { c with braid := some b }
          (if b.timeout == 0 then s1 else s1.due (.braidTimeout c)).tryMatch b)

/-! ### The exchange -/

/-- The format of a float type code. -/
def typeFmt (t : Nat) : Option Fmt :=
  match t with
  | 2 => some .fp32 | 3 => some .fp16 | 4 => some .bf16 | 12 => some .fp64 | _ => none

/-- R318: one fold of a reduction. -/
def reduceTwo (typ red a x : Nat) : Nat :=
  match typeFmt typ with
  | some f =>
    match red with
    | 0 => (f.round .rne 0 (Ext.add false (f.decode a) (f.decode x)).1).code
    | 1 => f.pick false a x
    | _ => f.pick true a x
  | none =>
    let key := fun v : Nat => if typ == 0 then signedOf 32 v else (v : Int)
    match red with
    | 0 => (a + x) % 2 ^ 32
    | 1 => if key x < key a then x else a
    | _ => if key a < key x then x else a

/-- R318: the contributions folded in ascending rank. -/
def reduceAll (typ red : Nat) : List Nat → Nat
  | [] => 0
  | x :: xs => xs.foldl (reduceTwo typ red) x

/-- R317: element `i` of the destination of rank `r`, of the sources of all ranks. -/
def braidElem (b : BraidInfo) (r : Nat) (src : Nat → Nat → Nat) (i : Nat) : Nat :=
  match b.op with
  | 0 => reduceAll b.typ b.red ((List.range b.ranks).map fun k => src k i)
  | 1 => reduceAll b.typ b.red ((List.range b.ranks).map fun k => src k (r * b.count + i))
  | 2 => src (i / b.count) (i % b.count)
  | 3 => src b.root i
  | _ => src (i / b.count) (r * b.count + i % b.count)

/-- R317: the sources by rank: a command here, or the outside's bytes. -/
def braidSource (b : BraidInfo) (ms : List (BraidInfo × List Byte)) (remote : List Byte) (k i : Nat) : Nat :=
  let w := typeBytes b.typ
  match ms.find? fun m => m.1.rank == k with
  | some m => fieldAt m.2 (w * i) w
  | none =>
    let before := ((List.range k).filter fun q => !b.here.any fun x => x.1 == q).length
    fieldAt remote (w * (before * b.srcCount + i)) w

/-- R317: the destination bytes of a rank. -/
def braidOutput (b : BraidInfo) (ms : List (BraidInfo × List Byte)) (remote : List Byte) : List Byte :=
  (List.range b.dstCount).flatMap fun i => natLe (typeBytes b.typ) (braidElem b b.rank (braidSource b ms remote) i)

/-- R319: the mates of a command are told to give up. -/
def State.abortMates (s : State) (c : Nat) (b : BraidInfo) : State :=
  (s.braidPeers b).foldl (fun s m => if m.1 == c then s else s.due (.braidAbort m.1)) s

/-- A braid command stops at an access; one that fails aborts its mates. -/
def State.braidStop (s : State) (j : Job) (b : BraidInfo) (e : EngStop) (ws : List SectorWrite) : State :=
  match e with
  | .wait pages => (s.askWalks j.p.id (s.engSites j) pages).due (.braidExecute j.ci)
  | .page f => s.engPage j f ws
  | e => (s.engStop j e ws).abortMates j.ci b

/-- R317, R319: the second part: every rank's source is read, and the destination is written. -/
def State.braidWrite (s : State) (j : Job) (b : BraidInfo) : State :=
  let ms := (s.braidPeers b).filterMap fun m => ((s.cmds[m.1]?).bind Cmd.data).map fun d => (m.2, d)
  if ms.length < b.here.length then s
  else
    match s.engPut j [] 0 b.dest (braidOutput b ms j.c.remote) with
    | .error e => s.braidStop j b e []
    | .ok ws => s.engWrite j ws

/-- R317, R319: one execution of a matched command: its own source first. -/
def State.braidRun (s : State) (j : Job) (b : BraidInfo) : State :=
  match j.c.data with
  | none =>
    (match s.engRead j b.source (typeBytes b.typ * b.srcCount) with
     | .error e => s.braidStop j b e []
     | .ok (bytes, xs) =>
       let s1 := (s.touchEng j xs).spend.setCmd j fun c => { c with data := some bytes }
       (s1.braidPeers b).foldl (fun s m => s.due (.braidExecute m.1)) s1)
  | some _ => s.braidWrite j b

/-- R317: BRAID_EXECUTE. -/
def execBraidExecute (c : Nat) (s : State) : Host.Outcome State Fault Refusal :=
  .next (match s.job? c with
    | none => s
    | some j =>
      match j.c.braid, j.c.phase with
      | some b, .running => if j.c.matched then s.braidRun j b else s
      | some b, .waitFault _ _ (some true) => (s.engFail j statusPage j.c.addr j.c.pending).abortMates c b
      | some b, .waitFault _ _ (some false) => (s.begins j).braidRun j b
      | _, _ => s)

/-- R319: the commands that a command's match has reached are told to give up. -/
def State.abortReached (s : State) (c : Nat) (b : BraidInfo) : State :=
  (s.braidMates b).foldl (fun s m => if m.1 == c then s else s.due (.braidAbort m.1)) s

/-- R319: BRAID_TIMEOUT: the ranks have not all matched in time; those that were reached are told. -/
def execBraidTimeout (c : Nat) (s : State) : Host.Outcome State Fault Refusal :=
  .next (match s.job? c with
    | none => s
    | some j =>
      match j.c.braid with
      | some b =>
        if !j.c.matched && j.c.phase == .running then (s.engFail j statusPeer (BitVec.ofNat 64 b.desc) []).abortReached c b else s
      | none => s)

/-- R319: a command of a braid still runs: it has neither come to its writes nor ended. -/
def Cmd.exchanges (c : Cmd) : Bool :=
  match c.phase with
  | .running => true
  | .waitFault _ _ _ => true
  | _ => false

/-- R319: BRAID_ABORT: a command that an abort reaches, whether or not all its ranks have matched. -/
def execBraidAbort (c : Nat) (s : State) : Host.Outcome State Fault Refusal :=
  .next (match s.job? c with
    | none => s
    | some j =>
      match j.c.braid with
      | some b =>
        if j.c.exchanges then s.engFail j statusPeer (BitVec.ofNat 64 b.desc) [] else s
      | none => s)

end Sys2Proof.Machine
end

