-- ==== Sys2Proof/Machine/Admit.lean ====
section
/-! DEFINITION. Admission (R375 to R377), the first state of a team (R110, R144, R373), its restore (R322, R383), and the
start of a foyer (R367). -/

namespace Sys2Proof.Machine

/-! ### Resources -/

/-- What teams hold on a hall: for each, its header and the ids of its groups that have not exited. -/
structure Held where
  hdr : Header
  ids : List Nat
  foyer : Bool
deriving DecidableEq, Repr

/-- R375: ids of a team's groups that have not exited. -/
def State.liveIds (s : State) (t : Team) : List Nat :=
  t.groups.filterMap fun gi => match s.groups[gi]? with
    | some g => if g.gone then none else some g.id
    | none => none

/-- A team as it is held, or would be. -/
def State.heldOf (s : State) (t : Team) : Held := { hdr := t.hdr, ids := s.liveIds t, foyer := t.foyer }

/-- R375: what the resident teams hold on a hall, but those that a test leaves out. -/
def State.heldOn (s : State) (hall : Nat) (leave : Nat → Bool) : List Held :=
  s.teams.zipIdx.filterMap fun x =>
    if x.1.phase == .resident && x.1.hall == hall && !leave x.2 then some (s.heldOf x.1) else none

/-- The sum of a measure. -/
def sumOf {α : Type} (l : List α) (f : α → Nat) : Nat := (l.map f).foldl (· + ·) 0

/-- R16, R19, R31: slots and registers of one bay. Slot 15 of bay 0 of a partition's hall 0 is the foyer's alone, whether or not a foyer is
there; its registers count among the bay's. -/
def bayFits (held : List Held) (new : Held) (first : Bool) (bay : Nat) : Bool :=
  let on := fun x : Held => x.ids.filter fun i => i % 4 == bay
  let slots := fun x : Held => if x.foyer then 0 else (on x).length
  let regs := fun x : Held => sumOf (on x) x.hdr.vregsOf
  let cap := if first && bay == 0 then 15 else 16
  sumOf held slots + slots new ≤ cap && sumOf held regs + regs new ≤ 1024

/-- R375: the hall's resources hold one more team. -/
def fitsWith (held : List Held) (new : Held) (first : Bool) : Bool :=
  let all := new :: held
  ([0, 1, 2, 3].all fun b => bayFits held new first b) &&
    roundUp 32768 (sumOf all fun x => x.hdr.scratch) ≤ 458752 && sumOf all (fun x => x.hdr.tiles) ≤ 256 &&
    sumOf all (fun x => x.hdr.slots) ≤ 4 && 1024 * sumOf all (fun x => x.hdr.reserve) ≤ 2048 &&
    sumOf all (fun x => x.hdr.quota * x.ids.length) ≤ 131072 && sumOf all (fun x => x.hdr.knots) ≤ 256 &&
    sumOf all (fun x => x.hdr.barriers) ≤ 64

/-- A team of a header, as it would be held. -/
def Header.held (h : Header) (foyer : Bool) : Held := { hdr := h, ids := List.range h.groupCount, foyer := foyer }

/-- R31, R375: a header fits a hall of a partition, beside what a test leaves. -/
def State.fits (s : State) (p : Part) (new : Held) (hall : Nat) (leave : Nat → Bool) : Bool :=
  fitsWith (s.heldOn hall leave) new (p.halls.head? == some hall)

/-- R371: some hall of the partition, empty but for the foyer, fits a team. -/
def State.everFits (s : State) (p : Part) (h : Header) : Bool :=
  p.halls.any fun hall => s.fits p (h.held false) hall fun n => !(s.teams[n]?).any fun t => t.foyer

/-! ### Energy -/

/-- R376: the estimate of a kernel object for a header. -/
def Part.estimate (p : Part) (obj : Word) (h : Header) : Nat :=
  match p.object? obj with
  | some o =>
    if 16 ≤ o.energies.length then (sumOf (o.energies.take 16) (fun n => n) + 15) / 16 else h.energy
  | none => h.energy

/-- R376: what is left of the allowance. -/
def PartEnergy.left (e : PartEnergy) : Nat := e.allow.toNat - e.spent - e.reserved

/-- R376, R382: an estimate fits the allowance, beside what a test leaves. -/
def State.energyFits (s : State) (p : Part) (est : Nat) (leave : Nat → Bool) : Bool :=
  let here := s.teams.zipIdx.filter fun x => x.1.part == p.id && x.1.phase == .resident
  let freed := sumOf (here.filter fun x => leave x.2) fun x => x.1.reserved
  let e := { p.energy with reserved := p.energy.reserved - freed }
  est == 0 || est ≤ e.left ||
    (e.allow.toNat < est && e.reserved == 0 && e.spent == 0 && !here.any fun x => !x.1.foyer && !leave x.2)

/-- R376: reserve an estimate; the excess over the whole allowance is owed. -/
def PartEnergy.reserve (e : PartEnergy) (est : Nat) : PartEnergy :=
  { e with reserved := e.reserved + est, owed := e.owed + (est - e.allow.toNat) }

/-! ### Which team is next -/

/-- R377: a queue's head grid. -/
def State.headGrid (s : State) (pid q : Nat) : Option (Nat × Grid) :=
  (s.grids.zipIdx.find? fun x => x.1.part == pid && x.1.queue == q && x.1.queued).map fun x => (x.2, x.1)

/-- R370: a grid is eligible. -/
def Grid.eligible (g : Grid) : Bool := g.deps.all Dep.met

/-- R377: saved teams of a priority, earliest saved first. -/
def State.savedOf (s : State) (pid q : Nat) : List (Nat × Nat) :=
  let ts := s.teams.zipIdx.filterMap fun x =>
    if x.1.part == pid && x.1.phase == .saved && !x.1.foyer && x.1.prio == q then some (x.1.savedAt, x.2) else none
  (ascending (ts.map fun x => x.1)).flatMap fun a => ts.filter fun x => x.1 == a

/-- R377: what the queues offer, in order. -/
def State.offers (s : State) (pid : Nat) : List Offer :=
  [7, 6, 5, 4, 3, 2, 1, 0].flatMap fun q =>
    (s.savedOf pid q).map (fun x => Offer.saved x.2) ++
      (match s.headGrid pid q with
       | some (n, g) => if g.eligible then [Offer.fresh n] else []
       | none => [])

/-- R375, R377: what an offer needs: its header, object and priority, and the ids of its groups. -/
def State.offerNeeds (s : State) (o : Offer) : Option (Held × Word × Nat) :=
  match o with
  | .fresh n => (s.grids[n]?).map fun g => (g.hdr.held false, g.ref.obj, g.queue)
  | .saved n => (s.teams[n]?).map fun t => (s.heldOf t, t.ref.obj, t.prio)

/-- R375: the private and save frames of an offer are free. -/
def State.framesFree (s : State) (o : Offer) : Bool :=
  match o with
  | .fresh n => (s.grids[n]?).any fun g => g.nextTeam < g.frames || g.released.contains (g.nextTeam - g.frames)
  | .saved _ => true

/-- R386, R446: a hall is open. -/
def Hall.open_ (h : Hall) : Bool := !h.closed && !h.failed && !h.retiring

/-- R375: the open halls of a partition, ascending. -/
def State.openHalls (s : State) (p : Part) : List Nat := p.halls.filter fun h => (s.halls[h]?).any Hall.open_

/-- R386, R397, R429, R436: a partition admits teams. -/
def State.admits (s : State) (p : Part) : Bool :=
  p.ctxState == 1 && p.cc.holdState == 0 && (!p.cfg.protect || (s.memoryKey p.id).isSome)

/-- R367, R401: a foyer waits for room on the partition's hall 0, which no team takes before it (log 52): one that a write has asked for, or
a saved one. -/
def State.foyerWaits (s : State) (p : Part) : Bool :=
  p.sched.foyerState == 4 || s.events.any fun e => match e with
    | .schedFoyerrec n _ => n == p.id
    | _ => false

/-- R375: a hall holds an offer, beside what a test leaves, and takes it. -/
def State.holds (s : State) (p : Part) (new : Held) (hall : Nat) (leave : Nat → Bool) : Bool :=
  s.fits p new hall leave && !(s.foyerWaits p && p.halls.head? == some hall)

/-- R375: the halls that pass for an offer. -/
def State.passing (s : State) (p : Part) (o : Offer) : List Nat :=
  match s.offerNeeds o with
  | none => []
  | some (new, obj, _) =>
    if s.admits p && s.framesFree o && s.energyFits p (p.estimate obj new.hdr) fun _ => false then
      (s.openHalls p).filter fun h => s.holds p new h fun _ => false
    else []

/-- R442, R443: a team of the partition waits for energy. -/
def State.energyWaits (s : State) (p : Part) : Bool :=
  (s.offers p.id).any fun o => match s.offerNeeds o with
    | some (new, obj, _) =>
      s.admits p && s.framesFree o && !(s.energyFits p (p.estimate obj new.hdr) fun _ => false) &&
        (s.openHalls p).any fun h => s.holds p new h fun _ => false
    | none => false

/-- R443: a team of the partition has waited for energy in this millisecond. -/
def State.noteWait (s : State) (pid : Nat) : State :=
  match s.part? pid with
  | some p => if s.energyWaits p then s.updPart pid fun q => { q with energy := { q.energy with waited := true } } else s
  | none => s

/-- R377: resident teams of a hall. -/
def State.teamCount (s : State) (hall : Nat) : Nat := (s.teams.filter fun t => t.phase == .resident && t.hall == hall).length

/-- R377: of the passing halls, the one with the fewest teams, the lowest among equals. -/
def State.pickHall (s : State) (halls : List Nat) : Option Nat :=
  match halls with
  | [] => none
  | h :: rest => some (rest.foldl (fun b x => if s.teamCount x < s.teamCount b then x else b) h)

/-- R383, R401: a saved foyer returns first, to the partition's hall 0, once it has room there (log 52). -/
def State.foyerBack (s : State) (p : Part) : Option (Nat × Nat) :=
  match p.sched.foyerTeam, s.openHalls p with
  | some ti, h :: _ =>
    if p.sched.foyerState == 4 && s.admits p && p.halls.head? == some h &&
        (s.teams[ti]?).any (fun t => t.phase == .saved && s.fits p (s.heldOf t) h fun _ => false) then some (ti, h)
    else none
  | _, _ => none

/-- R382, R389: an offer waits for saves that were requested for it. -/
def PartSched.waitsFor (x : PartSched) (o : Offer) : Bool := x.autoWait.any fun w => w.offer == o

/-- R377, R382, R389: the offers in the order of admission: those that saves were requested for go first. -/
def State.inOrder (s : State) (p : Part) : List Offer :=
  let os := s.offers p.id
  if p.sched.autoWait.isEmpty then os else os.filter p.sched.waitsFor ++ os.filter fun o => !p.sched.waitsFor o

/-- R377: the offer that is admitted next, with its hall. -/
def State.nextAdmit (s : State) (p : Part) : Option (Offer × Nat) :=
  match s.foyerBack p with
  | some (ti, h) => some (.saved ti, h)
  | none =>
    ((s.inOrder p).filterMap fun o => (s.pickHall (s.passing p o)).map fun h => (o, h)).head?

/-! ### A team's first state -/

/-- R144: the registers of a group at its first instruction. -/
def firstRegs (h : Header) (args : DWord) (teams : Word) : Regs :=
  { v := Vector.replicate 128 (Vector.replicate 32 0)
    s := (((Vector.replicate 48 0).set 0 (loWord args)).set 1 (hiWord args)).set 2 teams
    g := Vector.replicate 8 0
    xp := h.xp
    b := Vector.replicate 4 (Vector.replicate 32 0)
    bOk := Vector.replicate 4 false
    tb := Vector.replicate 8 TbReg.none }

/-- R141: the control registers at the first instruction. -/
def firstCtrl (h : Header) (frame : Nat) (deadline : Word) : Ctrl :=
  { cause := 0, frame := BitVec.ofNat 64 frame, landBase := { obj := 0, off := 0 }, trapBase := { obj := 0, off := 0 }, preq := false,
    deadline := deadline, phaseCnt := 0, seed := 0, rptIdx := 0, round := 1, fpFlags := 0, trapEn := h.traps }

/-- R140, R141, R144: a group at its first instruction. -/
def Group.first (t : Team) (ti id : Nat) (deadline : Word) (entry : CodeRef) (age : Nat) : Group :=
  { team := ti, id := id, regs := firstRegs t.hdr t.args t.teamsLow, ctrl := firstCtrl t.hdr (t.slotAddr id) deadline,
    ctl := Control.single entry allLanes, ctxs := [], land := [], callRec := [], log := [], retire := 0, stores := [], priv := [],
    beginH := 0, beginP := 0, beginY := 0, region := none, watch := [],
    arrivals := Vector.replicate 16 { gen := none, abandoned := false, place := 0 }, left := [], know := [], fence := 0,
    chain := none, phase := .running, saved := none, age := age, late := false, kept := 0 }

/-- R27, R307: a knot at a team's first instruction. -/
def Knot.first : Knot := { count := 0, underflow := false, scope := .h, status := 0, addr := 0, tie := none, failed := false, know := [] }

/-- R161: a barrier at a team's first instruction. -/
def Barrier.first (h : Header) : Barrier := { expected := h.groupCount, arrived := 0, gen := 0, released := [] }

/-- R376: the next place in the order of admissions. -/
def State.nextOrder (s : State) : Nat := s.teams.foldl (fun n t => max n (t.order + 1)) 0

/-- What a new team is made from. -/
structure Plan where
  part : Nat
  hdr : Header
  ref : CodeRef
  grid : Option Nat
  teamId : Nat
  prio : Nat
  foyer : Bool
  privArea : Nat
  saveArea : Nat
  frame : Nat
  args : DWord
  teams : Word
deriving DecidableEq, Repr

/-- R248, R330, R373, R384: a team at its first instruction. -/
def Plan.team (x : Plan) (hall order base est : Nat) : Team :=
  { part := x.part, hdr := x.hdr, ref := x.ref, grid := x.grid, teamId := x.teamId, prio := x.prio, hall := hall, foyer := x.foyer,
    groups := (List.range x.hdr.groupCount).map fun i => base + i, privArea := x.privArea,
    saveFrame := x.saveArea + x.frame * x.hdr.frameLen, args := x.args, teamsLow := x.teams, frameIdx := x.frame, spad := [],
    spadHist := [], tiles := [], slots := Vector.replicate 4 Slot.empty, knots := List.replicate x.hdr.knots Knot.first,
    barriers := List.replicate x.hdr.barriers (Barrier.first x.hdr), phase := .resident, order := order, killed := false,
    requested := false, byPreempt := false, byAuto := false, held := [], savedAt := 0, reserved := est, kept := 0, energy := 0 }

/-- R42, R184: the first instruction of a group is preceded by BEGIN.y; with the header's flag a region opens at it. -/
def State.startGroup (s : State) (h : Header) (gi : Nat) : State :=
  (s.beginGroup gi .y).updGroup gi fun g => g.autoRegion h ((g.ctl.get g.ctl.cur).map Entry.pc |>.getD { obj := 0, off := 0 }) g.retire

/-- R245, R340, R375: a team starts on a hall, whose SRAM is split anew before its first words. -/
def State.startTeam (s : State) (x : Plan) (hall est : Nat) (deadline : Word) : State :=
  let ti := s.teams.length
  let base := s.groups.length
  let t := x.team hall s.nextOrder base est
  let entry : CodeRef := { x.ref with off := x.ref.off + 0x40 }
  let age := s.youngest
  let gs := (List.range x.hdr.groupCount).map fun id => Group.first t ti id deadline entry (age + id)
  let s1 := ({ s with teams := s.teams ++ [t], groups := s.groups ++ gs }).resplit hall
  (t.groups.foldl (fun s gi => s.startGroup x.hdr gi) s1).fitPool hall

/-! ### Restore -/

/-- R383: the reader of a save frame. -/
def State.frameReader (s : State) (t : Team) : Reader :=
  { party := { part := some t.part, hall := some t.hall, group := none }, beginH := s.seq, beginP := s.seq, beginY := 0, sysHome := false }

/-- R383, R384: a vector register from a group record; as it was where the frame does not translate (log 10). -/
def State.readVreg (s : State) (p : Part) (t : Team) (g : Group) (n : Nat) : Lanes Word :=
  match s.readVa p (s.frameReader t) [] s.free (t.slotAddr g.id + 8192 + 128 * n) 128 with
  | some bs => Lanes.tabulate fun l => BitVec.ofNat 32 (fieldAt bs (4 * l) 4)
  | none => g.regs.vreg n

/-- R185, R383: the vector registers that a save wrote, from the frame. -/
def State.restoreRegs (s : State) (p : Part) (t : Team) (g : Group) (live : Option (BitVec 16)) : Regs :=
  ((List.range (t.hdr.vregsOf g.id)).filter (liveReg live)).foldl (fun r n => r.setV n (s.readVreg p t g n)) g.regs

/-- What the non-architectural bytes of a group record encode, when they are not those that the save wrote (log 34): a free value. -/
opaque restGroup (bytes : List Byte) : Option Group

/-- What the bytes of a team block encode, when they are not those that the save wrote (log 34): knots, barriers and slot states, a free
value. -/
opaque restTeam (bytes : List Byte) : Option (List Knot × List Barrier × List (Option (Nat × SlotKind)))

/-- R261, R384: registers whose translation base registers have no hidden frames, with other vector registers. -/
def Regs.noFrames (r : Regs) : Regs := { r with tb := r.tb.map TbReg.noFrame }

/-- R384: the group that altered bytes of its record encode, within its own context: its team, its place there, what it has stored and how
it was saved stand. -/
def Group.altered (g x : Group) : Group :=
  { g with
    regs := { x.regs.noFrames with v := g.regs.v }, ctrl := x.ctrl, ctl := x.ctl, ctxs := x.ctxs, land := x.land, callRec := x.callRec,
    log := x.log.map fun l => { l with ops := { (l.ops.mapTb TbReg.noFrame) with chain := none }, before := none },
    retire := x.retire, watch := x.watch, arrivals := x.arrivals }

/-- R384: a group's state but its vector registers, from its record. -/
def State.restoreRest (s : State) (p : Part) (t : Team) (g : Group) : Group :=
  match s.readVa p (s.frameReader t) [] s.free (t.slotAddr g.id + saveSlotBytes) (8192 - saveSlotBytes) with
  | some bs => if bs == keptBytes g.kept (8192 - saveSlotBytes) then g else ((restGroup bs).map g.altered).getD g
  | none => g

/-- R384: the team that an altered team block encodes, within its own context. -/
def Team.altered (t : Team) (x : List Knot × List Barrier × List (Option (Nat × SlotKind))) : Team :=
  { t with
    knots := t.knots.zipIdx.map fun k => ((x.1[k.2]?).map fun y => { y with tie := k.1.tie }).getD k.1
    barriers := t.barriers.zipIdx.map fun b => (x.2.1[b.2]?).getD b.1
    slots := Vector.ofFn fun z => { t.slots[z] with bound := ((x.2.2[z.val]?).join).filter fun y => y.1 < t.hdr.tiles } }

/-- R384: a team's knots, barriers and slot states, from its block. -/
def State.restoreBlock (s : State) (p : Part) (t : Team) : Team :=
  match s.readVa p (s.frameReader t) [] s.free (t.saveFrame + t.hdr.recordAt t.hdr.groupCount) 8192 with
  | some bs => if bs == keptBytes t.kept 8192 then t else ((restTeam bs).map t.altered).getD t
  | none => t

/-- R42, R184, R291, R383: a group goes on where its save left it. -/
def State.resumeGroup (s : State) (p : Part) (t : Team) (gi age : Nat) : State :=
  match s.groups[gi]? with
  | none => s
  | some g0 =>
    match g0.saved with
    | none => s
    | some k =>
      let g := s.restoreRest p t g0
      let live := match k with
        | .cooperative m => m
        | _ => none
      let s1 := s.updGroup gi fun _ =>
        { g with saved := none, age := age, regs := s.restoreRegs p t g live, watch := g.watch.map fun w => { w with fired := true },
                 ctrl := { g.ctrl with preq := false } }
      let s2 := match k with
        | .quiescent => s1
        | _ => s1.beginGroup gi .p
      let s3 := s2.updGroup gi fun g =>
        match g.region with
        | some _ => g
        | none => g.autoRegion t.hdr (((g.ctl.get g.ctl.cur).map Entry.first).getD { obj := 0, off := 0 }) g.retire
            (((g.ctl.get g.ctl.cur).map Entry.rpt).getD 0)
      let s4 := if g.phase == .running && g.ctl.live == 0 then s3.due (.groupExitComplete gi) else s3
      if !g.activeLog.isEmpty then s4.due (.faultReplay gi) else s4

/-- R346, R384: the cells of a slot as bytes of its region, 8 bytes each for FP64 and 4 otherwise. -/
def cellBytes (x : Slot) : List Byte :=
  let fp64 := x.bound.any fun b => b.2 == .fp64
  x.cells.toList.flatMap fun v => natLe (if fp64 then 8 else 4) v.toNat

/-- R346, R384: the cells of a slot from the bytes of its region. -/
def cellsOf (x : Slot) (bs : List Byte) : Vector (BitVec 64) 1024 :=
  let n := if x.bound.any fun b => b.2 == .fp64 then 8 else 4
  let int := x.bound.any fun b => b.2 == .integer
  Vector.ofFn fun i =>
    let v := fieldAt bs (n * i.val) n
    BitVec.ofNat 64 (if int then v % 2 ^ 22 else v)

/-- R346, R384: a slot from a save frame. -/
def State.restoreSlot (s : State) (p : Part) (t : Team) (z : Nat) : Slot :=
  let x := t.slot z
  let read := fun (a n : Nat) => s.readVa p (s.frameReader t) [] s.free (t.saveFrame + a) n
  let x1 := if x.bound.isSome && z < t.hdr.slots then
      match read (t.hdr.cellsAt + 8192 * z) (if x.bound.any fun b => b.2 == .fp64 then 8192 else 4096) with
      | some bs => { x with cells := cellsOf x bs }
      | none => x
    else x
  if (x.bound.any fun b => b.2 == .integer) && z < t.hdr.reserve then
    match read (t.hdr.galleryAt + 1024 * z) 1024 with
    | some bs => { x1 with counts := Vector.ofFn fun i => signedOf 8 (fieldAt bs i.val 1) }
    | none => x1
  else x1

/-- R383, R384: the team's block, scratchpad, tiles and slots from the save frame. -/
def State.restoreStores (s : State) (p : Part) (t0 : Team) : Team :=
  let t := s.restoreBlock p t0
  let read := fun (a n : Nat) => s.readVa p (s.frameReader t) [] s.free (t.saveFrame + a) n
  { t with
    spad := (match read t.hdr.spadAt t.hdr.scratch with
      | some bs => Mem.writeN [] 0 bs
      | none => t.spad)
    spadHist := []
    tiles := (match read t.hdr.tilesAt (4096 * t.hdr.tiles) with
      | some bs => Mem.writeN [] 0 bs
      | none => t.tiles)
    slots := Vector.ofFn fun z => s.restoreSlot p t z.val }

/-- R322: a kept stair command enters the queue of the team's new hall. -/
def State.requeue (s : State) (ti hall : Nat) : State :=
  (s.cmds.zipIdx.filter fun x => x.1.team == ti && x.1.phase == .kept).foldl (fun s x =>
    (s.updCmd x.2 fun c => { c with phase := .queued, engine := .stair hall, order := s.cmds.foldl (fun n d => max n (d.order + 1)) 0 }).due
      (runEvent x.1.instr x.2)) s

/-- R322: the decrements held for a team are applied, in their order. -/
def State.applyHeld (s : State) (ti : Nat) : State :=
  match s.teams[ti]? with
  | none => s
  | some t =>
    t.held.foldl (fun s d => s.decrement ti d.knot d.scope d.status d.addr) (s.updTeam ti fun t => { t with held := [] })

/-- R245, R383, R390, R434: a saved team is restored onto a hall, whose SRAM is split anew. A sector of its save frame whose tag does not match
holds the partition. -/
def State.restoreTeam (s : State) (p : Part) (ti hall est : Nat) : State :=
  match s.teams[ti]? with
  | none => s
  | some t0 =>
    let t := { t0 with hall := hall, phase := .resident, requested := false, byPreempt := false, byAuto := false, order := s.nextOrder, reserved := est }
    let age := s.youngest
    let s0 := if s.tornVa p t.saveFrame t.hdr.frameLen then s.beginHold p.id 2 else s
    let s1 := (s0.updTeam ti fun _ => s.restoreStores p t).resplit hall
    let s2 := (t.groups.foldl (fun s gi => match s.groups[gi]? with
      | some g => s.resumeGroup p t gi (age + g.id)
      | none => s) s1).spend
    let s3 := ((s2.requeue ti hall).applyHeld ti).fitPool hall
    if t.foyer then
      let parked := t.groups.any fun gi => (s.groups[gi]?).any fun g => match g.phase with
        | .parked _ _ => true
        | _ => false
      s3.updPart p.id fun q => { q with sched := { q.sched with foyerState := if parked then 2 else 1 } }
    else s3

/-! ### Admission -/

/-- R375, R382: admission and automatic pre-emption of a partition look at its queues. -/
def State.schedule (s : State) (pid : Nat) : State :=
  if (s.grids.any fun g => g.part == pid && g.queued) || s.teams.any (fun t => t.part == pid && t.phase == .saved) then
    (s.due (.teamAdmit pid)).due (.autoPreempt pid)
  else s

/-- R373: the plan of a grid's next team. -/
def Grid.plan (g : Grid) (n : Nat) : Plan :=
  { part := g.part, hdr := g.hdr, ref := g.ref, grid := some n, teamId := g.nextTeam, prio := g.queue, foyer := false,
    privArea := g.privArea, saveArea := g.saveArea, frame := g.nextTeam % g.frames, args := g.args, teams := BitVec.ofNat 32 g.teams }

/-- R376, R403: one team of a partition is admitted with an estimate. -/
def State.countAdmit (s : State) (pid est : Nat) : State :=
  s.updPart pid fun p =>
    { p with energy := p.energy.reserve est, counters := { p.counters with admitted := p.counters.admitted + 1 } }

/-- R375: seat an offer on a hall. -/
def State.seat (s : State) (p : Part) (o : Offer) (hall : Nat) : State :=
  match o with
  | .fresh n =>
    match s.grids[n]? with
    | none => s
    | some g =>
      let est := p.estimate g.ref.obj g.hdr
      ((s.startTeam (g.plan n) hall est p.sched.deadline).countAdmit p.id est).updGrid n fun g =>
        { g with nextTeam := g.nextTeam + 1, queued := decide (g.nextTeam + 1 < g.teams) }
  | .saved ti =>
    match s.teams[ti]? with
    | none => s
    | some t =>
      let est := if t.foyer then 0 else p.estimate t.ref.obj t.hdr
      (s.restoreTeam p ti hall est).updPart p.id fun p => { p with energy := p.energy.reserve est }

/-! ### The foyer -/

/-- R369: the constraints of a launch record, but its dependences, code reference and flags. -/
def recordOk (h : Header) (rec_ : List Byte) : Bool :=
  let f := fun o n => fieldAt rec_ o n
  let priv := f 0x18 8
  let frames := f 0x20 4
  let save := f 0x28 8
  f 0x0C 1 ≤ 7 && priv % 4096 == 0 && (h.privWords == 0 || priv != 0) && 1 ≤ frames && frames ≤ 65536 && f 0x24 4 == 0 &&
    save % 4096 == 0 && save != 0 && (List.range 16).all fun i => rec_.getD (0x30 + i) 0 == 0

/-- R371: the header that a launch record names. -/
def Part.launchHeader (p : Part) (r : CodeRef) : Option Header :=
  match p.object? r.obj with
  | some o => if p.refOk r && o.headers.contains r.off.toNat then some (readHeader o.code r.off.toNat) else none
  | none => none

/-- R367: the plan of a foyer that a launch record gives. -/
def Part.foyerPlan (p : Part) (rec_ : List Byte) : Option Plan :=
  let ref := CodeRef.ofBits (BitVec.ofNat 64 (fieldAt rec_ 0 8))
  match p.launchHeader ref with
  | none => none
  | some h =>
    if h.pgroups == 0 && h.cgroups == 1 && recordOk h rec_ && fieldAt rec_ 8 8 == 0 then
      some { part := p.id, hdr := h, ref := ref, grid := none, teamId := 0, prio := 7, foyer := true, privArea := fieldAt rec_ 0x18 8,
             saveArea := fieldAt rec_ 0x28 8, frame := 0, args := BitVec.ofNat 64 (fieldAt rec_ 0x10 8), teams := 1 }
    else none

/-- R367, R397, R429: a write to SCHED_FOYERREC may start a foyer. -/
def State.mayStartFoyer (s : State) (p : Part) : Bool :=
  (p.sched.foyerState == 0 || p.sched.foyerState == 3) && (p.ctxState == 0 || p.ctxState == 1) && p.cc.holdState == 0 &&
    (!p.cfg.protect || (s.memoryKey p.id).isSome)

/-- R367, R369: the plan of the foyer that the launch record at a virtual address gives, and the partition's hall 0. -/
def State.foyerAt (s : State) (p : Part) (va : Nat) : Option (Plan × Nat) :=
  let host : Reader := { party := .outside, beginH := s.seq, beginP := s.seq, beginY := s.seq, sysHome := false }
  match s.readVa p host [] s.free va 64, p.halls.head? with
  | some rec_, some hall => if va % 64 == 0 then (p.foyerPlan rec_).map fun x => (x, hall) else none
  | _, _ => none

/-- R16, R31, R367: hall 0 has room for the foyer that a write asks for, or none starts; the start waits for room that teams hold (log 52). -/
def State.foyerRoom (s : State) (p : Part) (va : Nat) : Bool :=
  if s.mayStartFoyer p then (s.foyerAt p va).all fun x => s.fits p (x.1.hdr.held true) x.2 fun _ => false else true

/-- R367, R460: start a foyer from the launch record at a virtual address. -/
def State.startFoyer (s : State) (p : Part) (va : Nat) : State :=
  match s.foyerAt p va with
  | none => s
  | some (x, hall) =>
    let ti := s.teams.length
    (s.startTeam x hall 0 p.sched.deadline).updPart p.id fun q =>
      { q with ctxState := 1, sched := { q.sched with foyerState := 1, foyerTeam := some ti } }

end Sys2Proof.Machine
end

