-- ==== Sys2Proof/Machine/Save.lean ====
section
/-! DEFINITION. Pre-emption (R185, R381 to R388, R395): requests, the saves of teams, PREEMPT and PCANCEL, automatic
pre-emption; the ends of groups and teams (R30, R177, R372). -/

namespace Sys2Proof.Machine

/-! ### Requests -/

/-- R381: a request reaches a group; a strand that sleeps in WAITW completes it. -/
def Group.request (deadline : Word) (g : Group) : Group :=
  if g.gone || g.saved.isSome then g
  else
    { g.mapEntries Entry.rouse with
      ctrl := { g.ctrl with preq := true, deadline := deadline } }

/-- R381: a group that a request waits for. -/
def Group.unsaved (g : Group) : Bool := !g.gone && g.saved.isNone

/-- R381, R388: request the save of a team; groups that only wait are saved at once. -/
def State.requestTeam (s : State) (ti : Nat) (deadline : Word) (preempt auto : Bool) : State :=
  match s.teams[ti]? with
  | none => s
  | some t =>
    let s1 := s.updTeam ti fun t => { t with requested := true, byPreempt := t.byPreempt || preempt, byAuto := t.byAuto || auto }
    t.groups.foldl (fun s gi =>
      if (s.groups[gi]?).any Group.unsaved then ((s.updGroup gi (Group.request deadline)).due (.deadlineExpiry gi)).quiesce gi else s) s1

/-- R382: a group of the team has begun a save. -/
def State.saveBegun (s : State) (t : Team) : Bool := t.groups.any fun gi => (s.groups[gi]?).any fun g => g.saved.isSome

/-- R382, R387: withdraw a request from a team none of whose groups has begun a save. -/
def State.withdraw (s : State) (ti : Nat) : State :=
  match s.teams[ti]? with
  | none => s
  | some t =>
    if t.phase == .resident && !s.saveBegun t then
      let s1 := s.updTeam ti fun t => { t with requested := false, byPreempt := false, byAuto := false }
      t.groups.foldl (fun s gi => (s.updGroup gi fun g => { g with ctrl := { g.ctrl with preq := false }, late := false }).undue (.deadlineExpiry gi)) s1
    else s

/-- R185: PYIELD. -/
def execPyield (s : State) : Host.Outcome State Fault Refusal :=
  issue .pyield s fun c =>
    if c.g.ctrl.preq then ((s.retire c).undue (.deadlineExpiry c.gi)).saveGroup c.gi (.cooperative c.hs.live) c.hs.live
    else (s.setRegs c Regs.loseLatches).retire c

/-! ### The end of a save -/

/-- R386, R388, R395: a team needs no more for a PREEMPT: it counts as saved, or has been released; a parked group that its request has
not saved counts as saved. -/
def State.preempted (s : State) (ti : Nat) : Bool :=
  match s.teams[ti]? with
  | none => true
  | some t =>
    let gs := t.groups.filterMap fun gi => s.groups[gi]?
    t.phase != .resident ||
      ((gs.all fun g => g.gone || g.saved.isSome || g.phase != .running) && gs.any fun g => g.saved.isNone && !g.gone && g.phase != .running)

/-- R386, R388, R460: the PREEMPT of a partition completes once its teams are saved. -/
def State.checkPreempt (s : State) (pid : Nat) : State :=
  match (s.part? pid).bind fun p => p.sched.preempt with
  | none => s
  | some x =>
    if !x.completed && x.teams.all s.preempted then
      let s1 := s.updPart pid fun p =>
        { p with ctxState := if x.kind == 1 && p.ctxState == 1 then 2 else p.ctxState,
                 sched := { p.sched with preempt := some { x with completed := true, decremented := true } } }
      if x.decremented then s1 else s1.decrement x.knotTeam x.knot .y 0 0
    else s

/-- R321: a stair command of a team. -/
def Cmd.isStairOf (ti : Nat) (c : Cmd) : Bool :=
  c.team == ti && (match c.engine with
    | .stair _ => true
    | _ => false)

/-- R321, R322: a stair command of the team runs. -/
def State.stairRuns (s : State) (ti : Nat) : Bool := s.cmds.any fun c => c.isStairOf ti && c.runs

/-- R322: an unstarted stair command of a saved team leaves the hall's queue. -/
def Cmd.keep (ti : Nat) (c : Cmd) : Cmd := if c.isStairOf ti && c.phase == .queued then { c with phase := .kept } else c

/-- R346, R384: write a team's block, scratchpad, tiles, cells and gallery counts into its save frame. -/
def State.writeFrame (s : State) (p : Part) (ti : Nat) (t : Team) (gi : Nat) : State :=
  let put := fun (s : State) (a : Nat) (bs : List Byte) => if bs.isEmpty then s else s.frameWrite gi p (t.saveFrame + a) bs
  let s0 := put (s.updTeam ti fun t => { t with kept := s.dice }) (t.hdr.recordAt t.hdr.groupCount) (keptBytes s.dice 8192)
  let s1 := put s0 t.hdr.spadAt (t.spad.readN 0 t.hdr.scratch)
  let s2 := put s1 t.hdr.tilesAt (t.tiles.readN 0 (4096 * t.hdr.tiles))
  let s3 := (List.range t.hdr.slots).foldl (fun s z =>
    if (t.slot z).bound.isSome then put s (t.hdr.cellsAt + 8192 * z) (cellBytes (t.slot z)) else s) s2
  (List.range t.hdr.reserve).foldl (fun s z =>
    put s (t.hdr.galleryAt + 1024 * z) ((t.slot z).counts.toList.map fun n => BitVec.ofInt 8 n)) s3

/-- R346: fold the pool entries of a team's slots; slots with a reserve keep their counts. -/
def State.foldTeam (s : State) (ti : Nat) : State :=
  match s.teams[ti]? with
  | none => s
  | some t => ((List.range t.hdr.slots).filter fun z => !t.reserved_ z).foldl (fun s z => s.foldSlot ti z) s

/-- R381, R383, R386: a team counts as saved: its resources are free. -/
def State.teamSaved (s : State) (p : Part) (ti : Nat) : State :=
  let order := s.teams.foldl (fun n t => max n (t.savedAt + 1)) 0
  let foyer := (s.teams[ti]?).any fun t => t.foyer
  let res := ((s.teams[ti]?).map Team.reserved).getD 0
  let s1 := s.updTeam ti fun t =>
    { t with phase := .saved, savedAt := order, spadHist := [], reserved := 0, requested := false, byPreempt := false, byAuto := false }
  let s2 : State := { s1 with cmds := s1.cmds.map (Cmd.keep ti) }
  let note := fun x : Preempt => if x.teams.contains ti && !foyer then { x with saved := x.saved ++ [ti] } else x
  let s3 := s2.updPart p.id fun p =>
    { p with
      sched := { p.sched with saves := p.sched.saves + 1, foyerState := (if foyer then 4 else p.sched.foyerState),
                              preempt := p.sched.preempt.map note }
      counters := { p.counters with saves := p.counters.saves + 1 }
      energy := { p.energy with reserved := p.energy.reserved - res } }
  ((s3.freeQueue.checkPreempt p.id).schedule p.id).startNext

/-- R381: TEAM_SAVE_COMPLETE. -/
def execTeamSaveComplete (ti : Nat) (s : State) : Host.Outcome State Fault Refusal :=
  .next (match s.teams[ti]? with
    | none => s
    | some t =>
      match s.part? t.part with
      | none => s
      | some p =>
        if t.phase == .resident && s.allSaved t && !s.stairRuns ti then
          let s1 := s.foldTeam ti
          match s1.teams[ti]?, t.groups.find? fun gi => (s.groups[gi]?).any fun g => !g.gone with
          | some t1, some gi => (s1.writeFrame p ti t1 gi).teamSaved p ti
          | _, _ => s1
        else s)

/-- R381: DEADLINE_EXPIRY: a discard inside an open region, else a forced save. Data that have not arrived may hold the
save up (R395). -/
def State.deadline (s : State) (gi : Nat) (g : Group) (pid : Nat) : State :=
  if g.quiet then s.saveGroup gi .quiescent none
  else if g.outstanding && Config.freePick s.free gi % 2 == 1 then
    (((s.updGroup gi fun g => { g with late := true }).due (.deadlineExpiry gi)).due (.wedgeTimeout g.team)).spend
  else if g.region.isSome && g.ctxs.isEmpty then s.spend.saveGroup gi .discard none
  else
    (s.spend.updPart pid fun p =>
      { p with sched := { p.sched with forced := p.sched.forced + 1 },
               counters := { p.counters with forcedSaves := p.counters.forcedSaves + 1 } }).saveGroup gi .forced none

/-- R242, R381: a group that no word in flight keeps from a save: no APPEND between its tiles, no chain whose strand has gone on. -/
def Group.whole (g : Group) : Bool := !g.midWord && !g.freeChain

/-- R381: DEADLINE_EXPIRY. -/
def execDeadlineExpiry (gi : Nat) (s : State) : Host.Outcome State Fault Refusal :=
  .next (match s.groups[gi]? with
    | some g =>
      match s.teamOf g with
      | some t => if g.ctrl.preq && g.unsaved && g.whole && t.phase == .resident then s.deadline gi g t.part else s
      | none => s
    | none => s)

/-- R395: WEDGE_TIMEOUT: the unsaved groups of a team whose save has not been satisfied park with class 2. -/
def execWedgeTimeout (ti : Nat) (s : State) : Host.Outcome State Fault Refusal :=
  .next (match s.teams[ti]? with
    | some t =>
      if t.phase == .resident && t.groups.any fun gi => (s.groups[gi]?).any fun g => g.late && g.unsaved then
        (t.groups.foldl (fun s gi =>
          if (s.groups[gi]?).any fun g => g.unsaved && g.phase == .running then s.park gi 2 else s) s).checkPreempt t.part
      else s
    | none => s)

/-! ### PREEMPT and PCANCEL -/

/-- R366: a deadline in range. -/
def deadlineOk (v : Word) : Bool := 1000 ≤ v.toNat && v.toNat ≤ 2 ^ 24

/-- R386: the fields of PREEMPT's operand. -/
structure PreemptArgs where
  part : Nat
  hall : Nat
  kind : Nat
  prio : Nat
  knot : Nat
deriving DecidableEq, Repr

/-- R386: the operand of PREEMPT; none for a field out of range or a nonzero zero bit (log 16). -/
def preemptArgs (v override : Word) (knots : Nat) : Option PreemptArgs :=
  let x := v.toNat
  let a : PreemptArgs := { part := x % 128, hall := x / 256 % 512, kind := x / 2 ^ 17 % 4, prio := x / 2 ^ 20 % 8, knot := x / 2 ^ 24 }
  if v.getLsbD 7 || v.getLsbD 19 || v.getLsbD 23 || 1 < a.kind || (a.kind == 1 && a.hall != 0x1FF) || 95 < a.part ||
      (303 < a.hall && a.hall != 0x1FF) || knots ≤ a.knot || (override != 0 && !deadlineOk override) then none else some a

/-- R386: the teams that a PREEMPT names: those of a kind and priority on some halls, and the foyer for kind 1. -/
def State.preemptTeams (s : State) (a : PreemptArgs) (halls : List Nat) : List Nat :=
  (s.teams.zipIdx.filter fun x =>
    x.1.part == a.part && x.1.phase == .resident && halls.contains x.1.hall &&
      (a.kind == 1 || (!x.1.foyer && x.1.prio ≤ a.prio))).map fun x => x.2

/-- R386, R387: close or open halls. -/
def State.setClosed (s : State) (halls : List Nat) (b : Bool) : State :=
  halls.foldl (fun s h => s.updHall h fun x => { x with closed := b }) s

/-- R403: count an operator's step on a partition. -/
def State.countStep (s : State) (pid n : Nat) : State :=
  s.updPart pid fun p => { p with counters := { p.counters with steps := p.counters.steps.setIfInBounds n (p.counters.steps.toList.getD n 0 + 1) } }

/-- R386: PREEMPT on a partition that exists: the status, and the state after it. On a held partition the knot is
decremented at once (R436). -/
def State.preemptPart (s : State) (c : Cx) (a : PreemptArgs) (p : Part) (override : Word) : State × Word :=
  if a.hall != 0x1FF && p.halls.length ≤ a.hall then (s, 3)
  else if p.sched.preempt.any fun x => !x.completed then (s, 4)
  else
    let halls := if a.hall == 0x1FF then p.halls else [p.halls.getD a.hall 0]
    let teams := s.preemptTeams a halls
    let old := (p.sched.preempt.map Preempt.halls).getD []
    let x : Preempt := { kind := a.kind, halls := ascending (halls ++ old), teams := teams, knotTeam := c.g.team, knot := a.knot,
                         decremented := p.ctxState == 3, completed := false, saved := [] }
    let s1 := ((s.setClosed halls true).countStep p.id 0).updPart p.id fun q => { q with sched := { q.sched with preempt := some x } }
    let s2 := if p.ctxState == 3 then s1.decrement c.g.team a.knot .y 0 0 else s1
    let d := if override == 0 then p.sched.deadline else override
    let s3 := teams.foldl (fun s ti => s.requestTeam ti d true false) s2
    (s3.checkPreempt p.id, 0)

/-- R386: PREEMPT. -/
def execPreempt (d a b : SReg) (s : State) : Host.Outcome State Fault Refusal :=
  issue (.preempt d a b) s fun c =>
    let r := match preemptArgs (c.g.regs.sreg a.val) (c.g.regs.sreg b.val) c.t.hdr.knots with
      | none => (s, 1)
      | some x =>
        match s.part? x.part with
        | none => (s, 2)
        | some p => s.preemptPart c x p (c.g.regs.sreg b.val)
    (r.1.setRegs c fun y => y.setS d.val r.2).retire c

/-- R387: teams that a PREEMPT saved, with those whose save has begun. -/
def State.savedBy (s : State) (x : Preempt) : Nat :=
  (x.teams.filter fun ti => x.saved.contains ti || (s.teams[ti]?).any fun t => !t.foyer && t.phase == .resident && s.saveBegun t).length

/-- R387: withdraw a partition's PREEMPT. -/
def State.cancelPreempt (s : State) (p : Part) (x : Preempt) : State :=
  let s1 := (x.teams.foldl (fun s ti => s.withdraw ti) s).setClosed (x.halls.filter fun h => p.halls.contains h) false
  let s2 := s1.updPart p.id fun q =>
    { q with sched := { q.sched with preempt := none }, ctxState := if x.kind == 1 && x.completed && q.ctxState == 2 then 1 else q.ctxState }
  let s3 := if x.decremented then s2 else s2.decrement x.knotTeam x.knot .y 0 0
  (s3.countStep p.id 1).schedule p.id

/-- R387: PCANCEL. -/
def execPcancel (d a : SReg) (s : State) : Host.Outcome State Fault Refusal :=
  issue (.pcancel d a) s fun c =>
    let r : State × Word := match s.part? ((c.g.regs.sreg a.val).toNat % 128) with
      | none => (s, 0xFFFFFFFF)
      | some p =>
        match p.sched.preempt with
        | none => (s, 0xFFFFFFFF)
        | some x => (s.cancelPreempt p x, BitVec.ofNat 32 (s.savedBy x))
    (r.1.setRegs c fun y => y.setS d.val r.2).retire c

/-! ### Admission and automatic pre-emption -/

/-- R382, R388: a request for a team no longer stands for a waiting team: it is withdrawn unless another one needs it or a PREEMPT made it. -/
def State.release (s : State) (others : List AutoWait) (ti : Nat) : State :=
  if (s.teams[ti]?).any (fun t => t.byAuto && !t.byPreempt) && !(others.any fun w => w.teams.contains ti) then s.withdraw ti else s

/-- R382: a waiting team has been admitted on a hall: admitted elsewhere than on the hall that saves would open, what was requested for it
is withdrawn. -/
def State.admitted (s : State) (p : Part) (o : Offer) (hall : Nat) : State :=
  let others := p.sched.autoWait.filter fun w => w.offer != o
  match p.sched.autoWait.find? fun w => w.offer == o with
  | none => s
  | some w =>
    (if w.hall == hall then s else w.teams.foldl (fun s ti => s.release others ti) s).updPart p.id fun q =>
      { q with sched := { q.sched with autoWait := others } }

/-- R375: TEAM_ADMIT. -/
def execTeamAdmit (pid : Nat) (s : State) : Host.Outcome State Fault Refusal :=
  .next (match s.part? pid with
    | none => s
    | some p =>
      match s.nextAdmit p with
      | none => s.schedule pid
      | some (o, hall) => ((s.seat p o hall).admitted p o hall).schedule pid)

/-- R382: the teams of a hall that may be asked to save for a priority: lowest priority first, youngest first. -/
def State.victims (s : State) (p : Part) (hall limit : Nat) : List Nat :=
  (List.range (limit + 1)).flatMap fun q =>
    let ts := s.teams.zipIdx.filter fun x =>
      x.1.part == p.id && x.1.phase == .resident && x.1.hall == hall && !x.1.foyer && x.1.prio == q
    (ascending (ts.map fun x => x.1.order)).reverse.flatMap fun o => (ts.filter fun x => x.1.order == o).map fun x => x.2

/-- R375, R376, R382: a hall would pass for an offer with some teams saved: their resources and reservations are free then. -/
def State.wouldPass (s : State) (p : Part) (new : Held) (est hall : Nat) (taken : List Nat) : Bool :=
  s.holds p new hall (fun n => taken.contains n) && s.energyFits p est fun n => taken.contains n

/-- R382: the victims up to the first with which the team would fit. -/
def State.enough (s : State) (p : Part) (new : Held) (est hall : Nat) : List Nat → List Nat → List Nat
  | taken, [] => taken
  | taken, v :: rest =>
    if s.wouldPass p new est hall taken then taken else s.enough p new est hall (taken ++ [v]) rest

/-- R382: the requests for a waiting team still stand: some team that was asked has not been saved. -/
def State.pending (s : State) (w : AutoWait) : Bool :=
  w.teams.any fun ti => (s.teams[ti]?).any fun t => t.phase == .resident && t.byAuto && t.requested

/-- R382: an offer that waits, the lowest hall that saves would open for it, and the teams to ask. -/
def State.autoTarget (s : State) (p : Part) : Option AutoWait :=
  let gap := p.sched.prioGap.toNat
  if gap == 0 || !s.admits p then none
  else
    ((s.offers p.id).filterMap fun o =>
      match s.offerNeeds o with
      | none => none
      | some (new, obj, prio) =>
        let est := p.estimate obj new.hdr
        if prio < gap || (p.sched.autoWait.any fun w => w.offer == o && s.pending w) || !(s.passing p o).isEmpty || !s.framesFree o then none
        else
          (((s.openHalls p).filter fun h => s.wouldPass p new est h (s.victims p h (prio - gap))).head?).map fun h =>
            { offer := o, hall := h, teams := s.enough p new est h [] (s.victims p h (prio - gap)) }).head?

/-- R382: AUTO_PREEMPT. -/
def execAutoPreempt (pid : Nat) (s : State) : Host.Outcome State Fault Refusal :=
  .next (match s.part? pid with
    | none => s
    | some p =>
      match s.autoTarget p with
      | none => s
      | some w =>
        let s1 := s.updPart pid fun q =>
          { q with sched := { q.sched with autoWait := (q.sched.autoWait.filter fun x => x.offer != w.offer) ++ [w] } }
        w.teams.foldl (fun s ti => s.requestTeam ti p.sched.deadline false true) s1)

/-! ### The ends of groups and teams -/

/-- R161: a group that ends arrives at every barrier. -/
def State.arriveAll (s : State) (gi : Nat) (g : Group) : State :=
  (List.range 16).foldl (fun s n => s.arrive g.team gi n) s

/-- R131, R161, R375: what follows the end of a group. -/
def State.groupGone (s : State) (gi : Nat) (g : Group) : State :=
  let s1 := s.excuse gi
  let s2 := s1.updGroup gi fun g =>
    { g with phase := .exited, stores := [], watch := [], region := none, chain := none, log := [], land := [], ctxs := [] }
  let s3 := ((s2.arriveAll gi g).checkBarriers g.team).checkTeam g.team
  match s3.teamOf g with
  | some t => ((((s3.unpinLines t.hall gi).noteSaved g.team).checkPreempt t.part).unpin t.part).schedule t.part
  | none => s3

/-- R177: GROUP_EXIT_COMPLETE. -/
def execGroupExitComplete (gi : Nat) (s : State) : Host.Outcome State Fault Refusal :=
  .next (match s.groups[gi]? with
    | none => s
    | some g =>
      if g.phase == .running && g.saved.isNone && g.ctl.live == 0 && g.activeLog.isEmpty && g.chain.isNone then
        ((((s.updGroup gi Group.endRegion).commitGroup gi .y).drainGroup gi .y).dropPriv gi false).groupGone gi g
      else s)

/-- R308, R321: a kept command of a team that ends is cancelled. -/
def State.cancelKept (s : State) (ti : Nat) : State :=
  s.cmds.zipIdx.foldl (fun s x =>
    if x.1.team == ti && x.1.phase == .kept then
      (s.updCmd x.2 fun c => { c with phase := .decrement, status := statusCancelled, addr := c.record }).due (.knotDecrement x.2)
    else s) s

/-- R396, R397: every group of a team ends without a save. -/
def State.killTeam (s : State) (ti : Nat) : State :=
  match s.teams[ti]? with
  | none => s
  | some t =>
    let s1 := s.updTeam ti fun t => { t with killed := true, phase := if t.phase == .saved then .resident else t.phase, held := [] }
    (t.groups.foldl (fun s gi => match s.groups[gi]? with
      | some g => if g.gone then s else ((s.dropPriv gi false).updGroup gi fun g => { g with saved := none }).groupGone gi g
      | none => s) s1).cancelKept ti

/-- R460: the partition holds a context. -/
def State.holdsContext (s : State) (p : Part) : Bool :=
  p.sched.foyerState == 1 || p.sched.foyerState == 2 || p.sched.foyerState == 4 ||
    (s.grids.any fun g => g.part == p.id && g.queued) || s.teams.any fun t => t.part == p.id && t.phase != .released

/-- R460: a partition that holds no context any more returns to state 0, a switched-out one too: it is in state 0 exactly then. -/
def State.settleCtx (s : State) (pid : Nat) : State :=
  match s.part? pid with
  | some p => if (p.ctxState == 1 || p.ctxState == 2) && !s.holdsContext p then s.updPart pid fun q => { q with ctxState := 0 } else s
  | none => s

/-- R372: the last team of a grid has been released: its knot is decremented at y, and its pin dropped. -/
def State.gridReleased (s : State) (n teamId : Nat) : State :=
  match s.grids[n]? with
  | none => s
  | some g =>
    let released := g.released ++ [teamId]
    let all := g.teams ≤ released.length
    let s1 := s.updGrid n fun g => { g with released := released, done := all }
    if all then s1.decrement g.foyerTeam g.knot .y 0 0 else s1

/-- R376, R441: a team's measured energy in whole microjoules: what has been attributed to it, and what its hall's estimator attributes since
the last reading, a free value. -/
def State.measured (s : State) (ti : Nat) (t : Team) : Nat := (t.energy + Config.freePick s.free ti) / 1000000

/-- R376, R442: a team's measured energy replaces its reservation. -/
def Part.teamEnergy (p : Part) (t : Team) (measured : Nat) : Part :=
  { p with
    energy := { p.energy with reserved := p.energy.reserved - t.reserved, spent := p.energy.spent + measured }
    objects := p.objects.map fun o => if o.id == t.ref.obj then { o with energies := (measured :: o.energies).take 16 } else o }

/-- R30, R181, R245, R338: a team's resources are free, and its knots tied to no word. -/
def State.freeTeam (s : State) (ti : Nat) (t : Team) : State :=
  ((s.updTeam ti fun t =>
    { t with phase := .released, spad := [], spadHist := [], tiles := [], slots := Vector.replicate 4 Slot.empty, held := [],
             knots := t.knots.map fun k => { k with tie := none },
             requested := false, byPreempt := false, byAuto := false, reserved := 0 }).dropPool t.hall fun e => e.team == ti)

/-- R30: TEAM_RELEASE. -/
def State.releaseTeam (s : State) (ti : Nat) (t : Team) : State :=
  let s1 := (s.noteWait t.part).freeTeam ti t
  let s2 := s1.updPart t.part fun p =>
    { (p.teamEnergy t (s.measured ti t)) with
      counters := { p.counters with released := p.counters.released + 1 }
      sched := if t.foyer then { p.sched with foyerState := 3, foyerTeam := none } else p.sched }
  let s3 := match t.grid with
    | some n => s2.gridReleased n t.teamId
    | none => s2
  (((s3.settleCtx t.part).checkPreempt t.part).unpin t.part).schedule t.part |>.spend

/-- R30: TEAM_RELEASE. -/
def execTeamRelease (ti : Nat) (s : State) : Host.Outcome State Fault Refusal :=
  .next (match s.teams[ti]? with
    | some t => if s.teamFinished ti then s.releaseTeam ti t else s
    | none => s)

end Sys2Proof.Machine
end

