-- ==== Sys2Proof/Machine/Publish.lean ====
section
/-! DEFINITION. LAUNCH and LQUERY (R371, R374), PUBLISH (R122 to R129), BIND and UNBIND (R132 to R134). -/

namespace Sys2Proof.Machine

/-! ### Reads by system words -/

/-- The operands of an access that names no translation base register. -/
def noTb : Operands :=
  { act := 0, x := Lanes.all 0, data := [], off := 0, tb := TbReg.none, tbn := none, hints := [], chain := none }

/-- Bytes that a group-level word reads as a load of its group (R128, R371, R400, R401). -/
def State.loadBytes (s : State) (w : Who) (align va n : Nat) (k : State → List Byte → Acc) : Acc :=
  let spans := if n = 0 then [] else oneSpan va n
  (s.accessThen w .load noTb align spans (w.loadErrors spans) fun s1 xs =>
    k ((s1.touchPieces w xs).spend) (s1.readPieces w xs 0)).noLanes

/-- A status in a scalar register. -/
def State.putS (s : State) (gi : Nat) (d : SReg) (v : Word) : State := s.updGroup gi fun g => { g with regs := g.regs.setS d.val v }

/-- R42, R56, R128, R131: a word whose commit precedes it, as a fork, and its BEGIN, when it has one: the commit closes an open region when it
carries a store made inside. -/
def State.finishFork (s : State) (c : Cx) (i : Instr) (o : Operands) (sc : Scope) (begins : Bool) (acc : State → Acc) : State :=
  let s0 := s.commitGroup c.gi sc
  let inside := c.g.carriesRegion sc
  let s1 := if begins then (if inside then (s0.endRegion c).unpin c.p.id else s0).beginGroup c.gi sc else s0
  match acc s1 with
  | .wait pages => (s.askWalks c.p.id (s.sitesOf c.t.hall) pages).setWait c .walk
  | .trap cause a m => (if inside then s1.endRegion c else s1).trap c (wordOfInstr i) cause 0 a m
  | r => s1.finishAccess c i o inside r

/-- A group-level word's operands: an address, and further words. -/
def Cx.sysOps (c : Cx) (base : DWord) (data : List Word) : Operands :=
  { act := 0, x := Lanes.all 0, data := data.map Lanes.all, off := 0, tb := { TbReg.none with base := base }, tbn := none, hints := c.e.hints, chain := none }

/-- A further word of a group-level word's operands. -/
def Operands.word (o : Operands) (n : Nat) : Word := Lanes.at (o.data.getD n (Lanes.all 0)) 0

/-! ### LAUNCH -/

/-- R370: a dependence entry breaks no rule that needs no translation. -/
def depOk (h : Header) (d : List Byte) : Bool :=
  let kind := fieldAt d 0 1
  kind ≤ 2 && fieldAt d 2 2 == 0 && (kind != 0 || fieldAt d 1 1 < h.knots)

/-- R370: a kind 1 or 2 entry's address. -/
def depAddr (d : List Byte) : Nat := fieldAt d 8 8

/-- R370: translate the addresses of kind 1 and 2 entries as loads; the keys, none for a RECORD. -/
def State.depKeys (s : State) (w : Who) : List (List Byte) → (State → List (Option Nat) → Acc) → Acc
  | [], k => k s []
  | d :: rest, k =>
    if fieldAt d 0 1 == 1 || fieldAt d 0 1 == 2 then
      match s.reach w.p (s.sitesOf w.t.hall) .load false (oneSpan (depAddr d) 1) with
      | .wait pages => .wait pages
      | .trap cause a _ => .trap cause a 0
      | .page fs a _ => .page fs a 0
      | .ok xs =>
        let key := (xs.head?).bind fun x => if keyClass x.key == 0 && depAddr d % 4 == 0 then some x.key else none
        (s.usedWalks w.p.id (s.sitesOf w.t.hall) xs).depKeys w rest fun s1 ks => k s1 (key :: ks)
    else s.depKeys w rest fun s1 ks => k s1 (some 0 :: ks)

/-- R370: a dependence, with what is observed of it now. -/
def State.depOf (s : State) (w : Who) (d : List Byte) (key : Nat) : Dep :=
  let kind := fieldAt d 0 1
  let knot := fieldAt d 1 1
  let v := fieldAt d 4 4
  { kind := kind, knot := knot, value := BitVec.ofNat 32 v, key := key,
    met := if kind == 0 then ((s.teams[w.g.team]?).bind fun t => t.knots[knot]?).any fun kn => kn.count == 0
           else if kind == 1 then s.sysWord key == v else v ≤ s.sysWord key }

/-- R371: the status of a launch whose record's fields are sound. -/
def State.launchStatus (s : State) (w : Who) (h : Header) (rec_ : List Byte) : Word :=
  if fieldAt rec_ 0x0F 1 == 1 && !h.replay then 4
  else if w.p.cc.holdState != 0 || !s.everFits w.p h then 3
  else if 64 ≤ (s.grids.filter fun g => g.part == w.p.id && g.queue == fieldAt rec_ 0x0C 1 && g.queued).length then 2
  else 0

/-- R369, R371: the queued grid of a record. -/
def launchGrid (w : Who) (h : Header) (ref : CodeRef) (rec_ : List Byte) (deps : List Dep) : Grid :=
  let f := fun o n => fieldAt rec_ o n
  { part := w.p.id, ref := ref, hdr := h, teams := f 8 4 + 1, queue := f 0x0C 1, knot := f 0x0D 1, deps := deps,
    record := if f 0x0F 1 == 1 then w.p.replay.ctl else 0, args := BitVec.ofNat 64 (f 0x10 8), privArea := f 0x18 8, frames := f 0x20 4,
    saveArea := f 0x28 8, nextTeam := 0, released := [], foyerTeam := w.g.team, queued := true, done := false,
    recNo := w.p.replay.launched }

/-- R371: the end of LAUNCH: its status, and the queued grid. -/
def State.launchEnd (s : State) (w : Who) (d : SReg) (h : Header) (ref : CodeRef) (rec_ : List Byte) (ds : List (List Byte))
    (keys : List (Option Nat)) : Acc :=
  let ok := recordOk h rec_ && fieldAt rec_ 0x0D 1 < w.t.hdr.knots && fieldAt rec_ 0x0E 1 ≤ 16 && fieldAt rec_ 0x0F 1 ≤ 1 &&
    (ds.all (depOk w.t.hdr)) && keys.all Option.isSome
  let st := if ok then s.launchStatus w h rec_ else 1
  if st != 0 then .done (Done.plain (s.putS w.gi d st))
  else
    let deps := (ds.zip keys).map fun x => s.depOf w x.1 (x.2.getD 0)
    let s1 : State := { s with grids := s.grids ++ [launchGrid w h ref rec_ deps] }
    let s2 := s1.updPart w.p.id fun p => { p with sched := { p.sched with launches := p.sched.launches + 1 } }
    let s3 := s2.putS w.gi d 0
    let digest := ((w.p.object? ref.obj).map CodeObject.digest).getD 0
    .done (Done.plain ((if (launchGrid w h ref rec_ deps).record != 0 then s3.noteLaunch w.p.id (rec_.take 64) digest else s3).schedule w.p.id))

/-- R371: LAUNCH of the record at an address. -/
def State.launch (s : State) (w : Who) (d : SReg) (o : Operands) : Acc :=
  let va := o.tb.base.toNat
  if va % 64 != 0 then .trap .align o.tb.base 0
  else
    s.loadBytes w 1 va 64 fun s1 rec_ =>
      s1.loadBytes w 1 (va + 64) (16 * fieldAt rec_ 0x0E 1) fun s2 tail =>
        let ref := CodeRef.ofBits (BitVec.ofNat 64 (fieldAt rec_ 0 8))
        let ds := (List.range (fieldAt rec_ 0x0E 1)).map fun i => bytesAt tail (16 * i) 16
        match w.p.launchHeader ref with
        | none => .trap .access ref.bits 0
        | some h => s2.depKeys w ds fun s3 keys => s3.launchEnd w d h ref rec_ ds keys

/-- R371: LAUNCH. -/
def execLaunch (d a : SReg) (s : State) : Host.Outcome State Fault Refusal :=
  issue (.launch d a) s fun c =>
    let o := c.sysOps (c.g.regs.spair a.val) []
    s.finishFork c (.launch d a) o .y false fun s1 => s1.launch c.who d o

/-- R374, R448: LQUERY; a recording logs what it reads, and a rerun returns the logged value. -/
def execLquery (d a : SReg) (s : State) : Host.Outcome State Fault Refusal :=
  issue (.lquery d a) s fun c =>
    let q := (c.g.regs.sreg a.val).toNat
    let r : Word × Word :=
      if 7 < q then (0xFFFFFFFF, 0xFFFFFFFF)
      else
        (BitVec.ofNat 32 (s.grids.filter fun g => g.part == c.p.id && g.queue == q && g.queued).length,
         BitVec.ofNat 32 (s.savedOf c.p.id q).length)
    let v := s.valueRead c.p c.t c.g 2 (pairOf r.1 r.2)
    (v.1.setRegs c fun x => (x.setS d.val (loWord v.2)).setS (d.val + 1) (hiWord v.2)).retire c

/-! ### PUBLISH -/

/-- R122: where the code region of an image of `e` entries begins. -/
def codeStart (e : Nat) : Nat := (0x0C + 4 * e + 63) / 64 * 64

/-- R122: the header offsets of an image. -/
def imageHeaders (img : List Byte) : List Nat := (List.range (fieldAt img 4 2)).map fun i => fieldAt img (0x0C + 4 * i) 4

/-- Numbers rise strictly. -/
def rising : List Nat → Bool
  | a :: b :: rest => a < b && rising (b :: rest)
  | _ => true

/-- Bytes `a` up to `b` of a list are zero. -/
def zeroBytes (l : List Byte) (a b : Nat) : Bool := (List.range (b - a)).all fun i => l.getD (a + i) 0 == 0

/-- R122: STRUCTURE passes. -/
def imageOk (img : List Byte) : Bool :=
  let e := fieldAt img 4 2
  let c := fieldAt img 8 4
  fieldAt img 0 4 == 0x4F534D54 && 1 ≤ e && e ≤ 1024 && fieldAt img 6 2 == 0 && c % 64 == 0 && 64 ≤ c && c ≤ 2 ^ 26 &&
    img.length == codeStart e + c && ((imageHeaders img).all fun h => h % 64 == 0 && h + 128 ≤ c) && rising (imageHeaders img) &&
    zeroBytes img (0x0C + 4 * e) (codeStart e)

/-- R123, R124, R125: HEADER passes for a header. -/
def headerOk (code : List Byte) (h : Nat) : Bool :=
  let f := fun o n => fieldAt code (h + o) n
  f 0 4 == 0x4B534D54 && f 6 2 < 32 && f 0x20 4 == 0x40 && zeroBytes code (h + 0x30) (h + 0x3C) &&
    f 0x3C 4 == (((List.range 15).map fun i => f (4 * i) 4).foldl (· + ·) 0) % 2 ^ 32

/-- R126: VERSION passes for a header. -/
def versionOk (h : Header) : Bool :=
  if h.major == 3 then !h.compat && (h.minor ≤ 2 || h.landing) else h.major == 2 && h.minor ≤ 4 && h.compat

/-- R18: a role's register budget. -/
def regsOk (n : Nat) : Bool := 8 ≤ n && n ≤ 128

/-- R18, R43, R123: BUDGET passes for the header at an offset. -/
def budgetOk (code : List Byte) (off : Nat) : Bool :=
  let h := readHeader code off
  let f := fun o n => fieldAt code (off + o) n
  let role := fun (groups regs : Nat) => regsOk regs && (groups == 0 || regs % 8 == 0)
  role h.pgroups h.pregs && role h.cgroups h.cregs && 1 ≤ h.groupCount && h.groupCount ≤ 16 && 1 ≤ h.sregs && h.sregs ≤ 48 &&
    (if h.compat then f 0xD 1 == 16 else [2, 4, 8, 16, 32].contains (f 0xD 1)) && h.scratch ≤ 458752 && h.scratch % 16 == 0 &&
    h.tiles ≤ 256 && h.slots ≤ 4 && h.reserve ≤ h.slots && h.reserve ≤ 2 && (h.maxK ≤ 32768 || h.reserve == h.slots) &&
    (f 0x18 2 == 0 || (f 0x18 2 % 2048 == 0 && f 0x18 2 ≤ 32768)) && h.barriers ≤ 16 && f 0x1C 4 < 32 && h.emuBytes % 16 == 0

/-- R409: bytes of a partition's code area. -/
def Part.codeArea (p : Part) : Nat := 65536 * p.cfg.codeSize.toNat

/-- R131: bytes of the code area in use. -/
def Part.codeUsed (p : Part) : Nat := (p.objects.map fun o => o.code.length).foldl (· + ·) 0

/-- R129: the status of PUBLISH of an image: the first check that any header fails. -/
def Part.publishStatus (p : Part) (img : List Byte) : Nat :=
  let code := img.drop (codeStart (fieldAt img 4 2))
  let hs := imageHeaders img
  if !imageOk img then 1
  else if !hs.all (headerOk code) then 2
  else if !hs.all (fun h => versionOk (readHeader code h)) then 3
  else if !hs.all (budgetOk code) then 4
  else if p.codeArea < p.codeUsed + code.length then 5
  else if 0xFFFFFFFE < p.nextObj then 6
  else 0

/-- R128: the code object of an image. -/
def newObject (id : Nat) (tag : Authority) (img : List Byte) : CodeObject :=
  { id := BitVec.ofNat 32 id, code := img.drop (codeStart (fieldAt img 4 2)), headers := imageHeaders img, digest := sha512 img,
    auth := tag, hold := true, binds := 0, retiring := false, retired := false, grace := [], energies := [] }

/-- R128: PUBLISH of an image that has been read. -/
def State.publishImage (s : State) (w : Who) (d : SReg) (img : List Byte) : State :=
  match s.part? w.p.id with
  | none => s
  | some p =>
    let st := p.publishStatus img
    let put := fun (s : State) (id : Nat) => s.updGroup w.gi fun g =>
      { g with regs := (g.regs.setS d.val (BitVec.ofNat 32 st)).setS (d.val + 1) (BitVec.ofNat 32 id) }
    if st != 0 then put s 0
    else
      put (s.updPart p.id fun q => { q with objects := q.objects ++ [newObject q.nextObj q.cfg.tag img], nextObj := q.nextObj + 1 }) p.nextObj

/-- R128: PUBLISH of the image at an address, of a length. -/
def State.publish (s : State) (w : Who) (d : SReg) (o : Operands) : Acc :=
  let va := o.tb.base.toNat
  if va % 64 != 0 then .trap .align o.tb.base 0
  else s.loadBytes w 1 va (o.word 0).toNat fun s1 img => .done (Done.plain (s1.publishImage w d img))

/-- R128: PUBLISH: COMMIT.p and BEGIN.p, as a fork. -/
def execPublish (d a b : SReg) (s : State) : Host.Outcome State Fault Refusal :=
  issue (.publish d a b) s fun c =>
    let o := c.sysOps (c.g.regs.spair a.val) [c.g.regs.sreg b.val]
    s.finishFork c (.publish d a b) o .p true fun s1 =>
      match s1.who? c.gi with
      | some w => s1.publish w d o
      | none => .done (Done.plain s1)

/-! ### BIND and UNBIND -/

/-- R129, R131: the object of an id, unless it is retiring or retired. -/
def Part.live? (p : Part) (id : Word) : Option CodeObject := (p.object? id).bind fun o => if o.retiring || o.retired then none else some o

/-- R129, R134: NO_OBJECT and AUTHORITY for an object of an id. -/
def Part.objectStatus (p : Part) (id : Word) : Nat :=
  match p.live? id with
  | none => 8
  | some o => if o.auth != p.cfg.tag then 10 else 0

/-- R129, R133: the checks of BIND. -/
def Part.bindStatus (p : Part) (r : CodeRef) : Nat :=
  match p.live? r.obj with
  | none => 8
  | some o => if o.auth != p.cfg.tag then 10 else if o.headers.any fun h => entryOf h == r.off.toNat then 0 else 9

/-- R133: change an object's bind count. -/
def State.addBinds (s : State) (pid : Nat) (id : Word) (f : Nat → Nat) : State :=
  s.updPart pid fun p => { p with objects := p.objects.map fun o => if o.id == id then { o with binds := f o.binds } else o }

/-- R133: decrement every knot tied to a word, at y; each tie is consumed. -/
def State.tiedKnots (s : State) (key : Nat) : State :=
  let ties := s.teams.zipIdx.flatMap fun x => (x.1.knots.zipIdx.filter fun k => k.1.tie == some key).map fun k => (x.2, k.2)
  ties.foldl (fun s x => (s.updTeam x.1 fun t => { t with knots := listModify t.knots x.2 fun k => { k with tie := none } }).decrement
    x.1 x.2 .y 0 0) s

/-- R133, R134: the atomic change of a slot at its home: the status; `ref` is BIND's reference, none for UNBIND. -/
def State.changeSlot (s : State) (w : Who) (x : Piece) (ref : Option CodeRef) : State × Nat :=
  let key := x.key
  let s1 := s.flushGran w.gi (granOf key) .y
  let field := fun o n => s1.atomOld w.p { x with va := x.va + (o : Int) } n
  let state := field 0 4
  let gen := field 4 4
  let target := CodeRef.ofBits (BitVec.ofNat 64 (field 8 8))
  if 2 < state then (s1, 7)
  else
    let s2 := if state == 2 then s1.addBinds w.p.id target.obj (fun n => n - 1) else s1
    let new := match ref with
      | some r => natLe 4 2 ++ natLe 4 (gen + 1) ++ natLe 8 r.bits.toNat
      | none => natLe 4 0 ++ natLe 4 (gen + 1) ++ natLe 8 (field 16 8)
    let s3 := s2.commit (s2.atomKind w.gi .y)
      ((writesAt x.va.toNat x.shr (spanWrites key new)).map fun g => { g with fences := List.replicate 16 (some (w.gi, w.g.fence)) })
    let s4 := match ref with
      | some r => s3.addBinds w.p.id r.obj (fun n => n + 1)
      | none => s3
    let s5 := s4.updGroup w.gi fun g =>
      { g with stores := g.stores.map fun o => if granOf o.key == granOf key then { o with atomicAfter := true } else o }
    (((s5.dropL1 w.t.hall (lineOf key)).tiedKnots key).unpin w.p.id, 0)

/-- R133, R134, R448: BIND or UNBIND of a slot that translates: an atomic at y of lane 0, which a recording logs when it is performed. -/
def State.slotAtom (s : State) (w : Who) (d : SReg) (x : Piece) (ref : Option CodeRef) : State :=
  let r := s.changeSlot w x ref
  let s1 := if r.2 == 0 then r.1.noteAtoms w.p w.t w.g [globalPlace true 0 x.va.toNat] else r.1
  s1.putS w.gi d (BitVec.ofNat 32 r.2)

/-- R133, R134, R449: BIND or UNBIND of the slot at an address; in a rerun it waits for its turn. -/
def State.slotWord (s : State) (w : Who) (d : SReg) (o : Operands) (ref : Option CodeRef) : Acc :=
  let va := o.tb.base.toNat
  if va % 32 != 0 then .trap .align o.tb.base 0
  else
    (s.accessThen w .atomic noTb 1 (oneSpan va 32) (w.atomErrors .y (oneSpan va 32)) fun s1 xs =>
      match xs with
      | x :: _ =>
        (match s1.turn w.p w.t w.g (globalPlace true 0 x.va.toNat) with
         | .go => .done (Done.plain (s1.slotAtom w d x ref))
         | .wait => .wait []
         | .diverge q => .done (Done.plain ((s1.diverge_ w.p.id q).slotAtom w d x ref)))
      | [] => .done (Done.plain s1)).noLanes

/-- R133: BIND: the object is checked first (log 17). -/
def State.bind_ (s : State) (w : Who) (d : SReg) (o : Operands) : Acc :=
  let ref := CodeRef.ofBits (pairOf (o.word 0) (o.word 1))
  let st := w.p.bindStatus ref
  if st != 0 then .done (Done.plain (s.putS w.gi d (BitVec.ofNat 32 st))) else s.slotWord w d o (some ref)

/-- R56, R133, R134: a word that closes an open region as an atomic does, after its commit at y. -/
def State.finishSlot (s : State) (c : Cx) (i : Instr) (o : Operands) (acc : State → Acc) : State :=
  let s1 := s.commitGroup c.gi .y
  match acc s1 with
  | .wait pages => (s.askWalks c.p.id (s.sitesOf c.t.hall) pages).setWait c .walk
  | r => s1.finishAccess c i o true r

/-- R133: BIND. -/
def execBindSlot (d a b : SReg) (s : State) : Host.Outcome State Fault Refusal :=
  issue (.bindSlot d a b) s fun c =>
    let o := c.sysOps (c.g.regs.spair a.val) [c.g.regs.sreg b.val, c.g.regs.sreg (b.val + 1)]
    s.finishSlot c (.bindSlot d a b) o fun s1 => s1.bind_ c.who d o

/-- R134: UNBIND of slot address zero: the object's hold is given up. -/
def State.releaseHold (s : State) (c : Cx) (d b : SReg) : State :=
  let id := c.g.regs.sreg (b.val + 1)
  let st := c.p.objectStatus id
  let s1 := if st == 0 then
      (s.updPart c.p.id fun p => { p with objects := p.objects.map fun o => if o.id == id then { o with hold := false } else o }).unpin c.p.id
    else s
  (s1.putS c.gi d (BitVec.ofNat 32 st)).retire c

/-- R134: the two forms of UNBIND, which the slot address selects. -/
def State.unbindForms (s : State) (c : Cx) (i : Instr) (d a b : SReg) : State :=
  if c.g.regs.spair a.val == 0 then s.releaseHold c d b
  else
    let o := c.sysOps (c.g.regs.spair a.val) []
    s.finishSlot c i o fun s1 => s1.slotWord c.who d o none

/-- R134: UNBIND. -/
def execUnbind (d a b : SReg) (s : State) : Host.Outcome State Fault Refusal :=
  issue (.unbind d a b) s fun c => s.unbindForms c (.unbind d a b) d a b

/-- R134: UNBIND of slot address zero, the same word. -/
def execUnbindReleaseHold (d a b : SReg) (s : State) : Host.Outcome State Fault Refusal :=
  issue (.unbindReleaseHold d a b) s fun c => s.unbindForms c (.unbindReleaseHold d a b) d a b

end Sys2Proof.Machine
end

