-- ==== Sys2Proof/Machine/Handoff.lean ====
section
/-! DEFINITION. PLACE (R401), the sealed hand-off: EXPORT, IMPORT and SEAL (R399, R400), and CNTRD (R402, R403). -/

namespace Sys2Proof.Machine

/-! ### PLACE -/

/-- R401: the halls of a mask, ascending. -/
def maskHalls (bs : List Byte) : List Nat := (List.range 304).filter fun n => (bs.getD (n / 8) 0).getLsbD (n % 8)

/-- The partition that holds a hall. -/
def State.hallOwner (s : State) (h : Nat) : Option Nat := (s.parts.find? fun p => p.halls.contains h).map Part.id

/-- R401: the running or parked foyer's hall. -/
def State.foyerHall (s : State) (p : Part) : Option Nat :=
  match p.sched.foyerTeam.bind fun n => s.teams[n]? with
  | some t => if t.phase == .resident then some t.hall else none
  | none => none

/-- R401: the status of PLACE, its checks in their order. -/
def State.placeStatus (s : State) (v : Word) (mask : List Byte) : Nat :=
  let new := maskHalls mask
  if 128 ≤ v.toNat || (mask.drop 38).any (· != 0) then 1
  else
    match s.part? v.toNat with
    | none => 2
    | some p =>
      let gone := p.halls.filter fun h => !new.contains h
      if 3 ≤ p.ctxState.toNat || p.cc.holdState != 0 then 7
      else if new.isEmpty && p.ctxState == 1 then 5
      else if new.any fun h => !p.halls.contains h && (s.halls[h]?).any Hall.failed then 8
      else if new.any fun h => (s.hallOwner h).any fun q => q != p.id then 3
      else if s.teams.any fun t => t.phase == .resident && gone.contains t.hall then 4
      else if (s.foyerHall p).any fun h => new.head? != some h then 6
      else 0

/-- R397, R401: a hall's own stores are scrubbed. -/
def Hall.scrub (h : Hall) : Hall :=
  { h with bays := Vector.replicate 4 none, l1 := [], victims := [], lost := 0, lostWas := 0, pins := [], pool := [], allowed := 64, limits := [], closed := false }

/-- Change some halls. -/
def State.mapHalls (s : State) (hs : List Nat) (f : Hall → Hall) : State := hs.foldl (fun s h => s.updHall h f) s

/-- R397, R401: halls are scrubbed, with what their phase stores hold beyond the home. -/
def State.scrubHalls (s : State) (hs : List Nat) : State :=
  { (s.mapHalls hs Hall.scrub) with hist := s.hist.filter fun c => c.atHome || !(c.party.hall.any hs.contains) }

/-- R321, R401: PLACE of a mask that passes its checks; queued commands that an import brought may start. -/
def State.placeHalls (s : State) (pid : Nat) (new : List Nat) : State :=
  match s.part? pid with
  | none => s
  | some p =>
    let gone := p.halls.filter fun h => !new.contains h
    let s1 := (s.scrubHalls gone).mapHalls new fun h => { h with closed := false }
    let s2 := s1.updPart pid fun q => { q with halls := new, ctxState := if q.ctxState == 2 && !new.isEmpty then 1 else q.ctxState }
    ((s2.countStep pid 2).schedule pid).startNext

/-- R401: PLACE of the mask at an address. -/
def State.place (s : State) (w : Who) (d : SReg) (o : Operands) : Acc :=
  s.loadBytes w 8 o.tb.base.toNat 40 fun s1 mask =>
    let st := s1.placeStatus (o.word 0) mask
    let s2 := if st == 0 then s1.placeHalls (o.word 0).toNat (maskHalls mask) else s1
    .done (Done.plain (s2.putS w.gi d (BitVec.ofNat 32 st)))

/-- R401: PLACE. -/
def execPlace (d a b : SReg) (s : State) : Host.Outcome State Fault Refusal :=
  issue (.place d a b) s fun c =>
    let o := c.sysOps (c.g.regs.spair b.val) [c.g.regs.sreg a.val]
    s.finishAccess c (.place d a b) o false (s.place c.who d o)

/-! ### Sealed objects -/

/-- R399: the header of a sealed object: magic, version, key id, serial, payload length and chunk count (log 18 gives the
places of the fields). -/
def sealHeader (keyId serial : DWord) (len : Nat) : List Byte :=
  natLe 4 0x4C455359 ++ natLe 4 1 ++ natLe 8 keyId.toNat ++ natLe 8 serial.toNat ++ natLe 8 len ++ natLe 4 ((len + 4095) / 4096) ++
    List.replicate 28 0

/-- R399: the key of a slot, and the nonce of a chunk: the object serial and the chunk's number, 96 bits (log 9). -/
def sealNonce (serial : DWord) (i : Nat) : List Byte := natLe 8 serial.toNat ++ natLe 4 i

/-- R399: the AES-256 key of a slot's material. -/
def KeySlot.key (k : KeySlot) : List Byte := bytesAt k.material 0 32

/-- R399: the sealed object of a payload. -/
def sealObject (k : KeySlot) (serial : DWord) (payload : List Byte) : List Byte :=
  let h := sealHeader k.keyId serial payload.length
  h ++ (List.range ((payload.length + 4095) / 4096)).flatMap fun i =>
    gcmSeal k.key (sealNonce serial i) h ((payload.drop (4096 * i)).take 4096)

/-- R399, R400: open a sealed object: its payload, or the status. -/
def openObject (k : KeySlot) (obj : List Byte) : Except Nat (List Byte) :=
  let h := obj.take 64
  let len := fieldAt h 24 8
  let chunks := (len + 4095) / 4096
  if fieldAt h 0 4 != 0x4C455359 then .error 6
  else if fieldAt h 4 4 != 1 then .error 7
  else if fieldAt h 32 4 != chunks || obj.length != 64 + len + 16 * chunks then .error 6
  else
    (List.range chunks).foldl (fun acc i =>
      match acc with
      | .error e => .error e
      | .ok bs =>
        let n := min 4096 (len - 4096 * i) + 16
        match gcmOpen k.key (sealNonce (BitVec.ofNat 64 (fieldAt h 16 8)) i) h ((obj.drop (64 + 4112 * i)).take n) with
        | some x => .ok (bs ++ x)
        | none => .error 6) (.ok [])

/-- R399: the fields of a descriptor. -/
structure Descriptor where
  part : Nat
  slot : Nat
  source : Nat
  srcLen : Nat
  dest : Nat
  cap : Nat
  ok : Bool
deriving DecidableEq, Repr

/-- R399: a descriptor's fields; `ok` says that its zero fields are zero and its key slot exists. -/
def descriptorOf (bs : List Byte) : Descriptor :=
  { part := fieldAt bs 0 1, slot := fieldAt bs 1 1, source := fieldAt bs 8 8, srcLen := fieldAt bs 0x10 8, dest := fieldAt bs 0x18 8,
    cap := fieldAt bs 0x20 8, ok := zeroBytes bs 2 8 && zeroBytes bs 0x28 0x40 && fieldAt bs 1 1 < 128 }

/-- R400: a slot of a kind and partition that is LIVE: the slot, or the status. -/
def State.keyFor (s : State) (n pid : Nat) (kind : BitVec 3) : Except Nat KeySlot :=
  match s.keys[n]? with
  | none => .error 4
  | some k =>
    if k.kind != kind then .error 4 else if k.part != some pid then .error 9 else if k.state != 1 then .error 4 else .ok k

/-- R400: bytes that a sealing word writes: committed at y as a write of its group. -/
def State.storeBytesAt (s : State) (w : Who) (va : Nat) (bytes : List Byte) (k : State → Acc) : Acc :=
  let spans := if bytes.isEmpty then [] else oneSpan va bytes.length
  (s.accessThen w .store noTb 1 spans (w.storeErrors spans fun _ => bytes) fun s1 xs =>
    let ws := (xs.foldl (fun r x => (r.1 ++ writesAt x.va.toNat x.shr (spanWrites x.key (r.2.take x.len)), r.2.drop x.len))
      (([] : List GranWrite), bytes)).1
    k (s1.commit (s1.atomKind w.gi .y) ws)).noLanes

/-- R400: a status that leaves all else as it was. -/
def State.refuse (s : State) (w : Who) (d : SReg) (st : Nat) : Acc := .done (Done.plain (s.putS w.gi d (BitVec.ofNat 32 st)))

/-! ### The state that travels -/

/-- R322, R400: the device-resident state of a partition; teams and groups carry the numbers they have on the package. -/
structure Snapshot where
  objects : List CodeObject
  nextObj : Nat
  grids : List (Nat × Grid)
  teams : List (Nat × Team)
  groups : List (Nat × Group)
  cmds : List Cmd
  foyerState : BitVec 3
  foyerTeam : Option Nat
  s1root : DWord
  invDone1 : Word
  fq1 : FaultQueue
  fq2 : FaultQueue
  keepBase : DWord
  keepCount : BitVec 13
  keeps : List Keep
  l2step : Word
  prioGap : BitVec 3
  lldThresh : BitVec 16
  launches : Word
  saves : Word
  forced : Word
deriving DecidableEq, Repr

/-- R400: the bytes of a partition's device-resident state; their layout is not architectural (log 18). -/
opaque Config.packContext (x : Snapshot) : List Byte

/-- R400: the device-resident state that bytes hold (log 18). -/
opaque Config.unpackContext (bytes : List Byte) : Option Snapshot

/-- R400: the device-resident state of a partition. -/
def State.snapshot (s : State) (p : Part) : Snapshot :=
  let teams := s.teams.zipIdx.filter fun x => x.1.part == p.id && x.1.phase != .released
  let held := fun n => teams.any fun x => x.2 == n
  { objects := p.objects, nextObj := p.nextObj,
    grids := (s.grids.zipIdx.filter fun x => x.1.part == p.id && !x.1.done).map fun x => (x.2, x.1),
    teams := teams.map fun x => (x.2, x.1),
    groups := (s.groups.zipIdx.filter fun x => held x.1.team).map fun x => (x.2, x.1),
    cmds := s.cmds.filter fun c => held c.team && (c.phase == .queued || c.phase == .kept),
    foyerState := p.sched.foyerState, foyerTeam := p.sched.foyerTeam, s1root := p.xlat.s1root, invDone1 := p.xlat.invDone1,
    fq1 := p.xlat.fq1, fq2 := p.xlat.fq2, keepBase := p.xlat.keepBase, keepCount := p.xlat.keepCount, keeps := p.xlat.keeps,
    l2step := p.xlat.l2step, prioGap := p.sched.prioGap, lldThresh := p.sched.lldThresh, launches := p.sched.launches,
    saves := p.sched.saves, forced := p.sched.forced }

/-- A number of a list as its place behind a base. -/
def renumber (ids : List Nat) (base n : Nat) : Nat := base + (ids.takeWhile (· != n)).length

/-- R390, R400: an imported group: its places in the source package's scope order mean nothing here, and its stores have left; what stands at
the homes when it is installed precedes its loads (log 18). -/
def Group.imported (teamOf : Nat → Nat) (here : Nat) (g : Group) : Group :=
  { g.mapTb TbReg.noFrame with
    team := teamOf g.team, stores := [], beginH := here, beginP := here, beginY := here, fence := 0, know := [], left := []
    saved := if g.gone then none else some (g.saved.getD .quiescent) }

/-- R131, R400: an imported object: the groups that it waits for have new numbers; none is left out but those that are gone. -/
def CodeObject.imported (ids : List Nat) (groupOf : Nat → Nat) (o : CodeObject) : CodeObject :=
  let rest := (o.grace.filter ids.contains).map groupOf
  if o.retiring && !o.retired && rest.isEmpty then { o with grace := [], retired := true, code := [] } else { o with grace := rest }

/-- R24, R321, R400: an imported command waits for the engine of its index among those of its new partition. -/
def Cmd.imported (p : Part) (teamOf groupOf : Nat → Nat) (order here : Nat) (c : Cmd) : Cmd :=
  { c with
    team := teamOf c.team, group := groupOf c.group, part := p.id, order := order + c.order, beginSeq := here, know := []
    engine := (match c.engine with
      | .stair h => .stair h
      | _ => p.engineFor c.instr 0) }

/-- R400: install a partition's device-resident state. -/
def State.install (s : State) (p : Part) (x : Snapshot) : State :=
  let ids := x.groups.map fun y => y.1
  let team := renumber (x.teams.map fun y => y.1) s.teams.length
  let group := renumber ids s.groups.length
  let grid := renumber (x.grids.map fun y => y.1) s.grids.length
  let order := s.cmds.foldl (fun n d => max n (d.order + 1)) 0
  let s1 : State :=
    { s with
      teams := s.teams ++ x.teams.map fun y =>
        { y.2 with part := p.id, groups := y.2.groups.map group, grid := y.2.grid.map grid, spadHist := [],
                   phase := if y.2.phase == .resident then .saved else y.2.phase }
      groups := s.groups ++ x.groups.map fun y => y.2.imported team s.seq
      grids := s.grids ++ x.grids.map fun y => { y.2 with part := p.id, foyerTeam := team y.2.foyerTeam }
      cmds := s.cmds ++ x.cmds.map (Cmd.imported p team group order s.seq) }
  let s2 := s1.updPart p.id fun p =>
    { p with
      ctxState := 2, objects := x.objects.map (CodeObject.imported ids group), nextObj := max p.nextObj x.nextObj
      xlat := { p.xlat with s1root := x.s1root, invDone1 := x.invDone1, fq1 := x.fq1,
                            fq2 := { p.xlat.fq2 with serial := x.fq2.serial, waiting := x.fq2.waiting, pending := x.fq2.pending },
                            keepBase := x.keepBase, keepCount := x.keepCount, keeps := x.keeps, l2step := x.l2step, tlb := [],
                            verdicts := [] }
      sched := { p.sched with foyerState := x.foyerState, foyerTeam := x.foyerTeam.map team, prioGap := x.prioGap,
                              lldThresh := x.lldThresh, launches := x.launches, saves := x.saves, forced := x.forced } }
  s2.startNext

/-! ### The words -/

/-- R400: a command of the partition runs. -/
def State.partRuns (s : State) (pid : Nat) : Bool := s.cmds.any fun c => c.part == pid && c.runs

/-- R399, R400: EXPORT of a descriptor. -/
def State.export_ (s : State) (w : Who) (d : SReg) (x : Descriptor) : Acc :=
  if !x.ok || x.source != 0 then s.refuse w d 1
  else
    match s.part? x.part with
    | none => s.refuse w d 2
    | some p =>
      match (if p.cc.holdState == 0 then s.keyFor x.slot p.id 3 else .error 3) with
      | .error e => s.refuse w d e
      | .ok k =>
        if p.ctxState != 2 || s.partRuns p.id then s.refuse w d 3
        else
          let obj := sealObject k s.objectSerial (Config.packContext (s.snapshot p))
          if x.cap < obj.length then s.refuse w d 8
          else
            s.storeBytesAt w (x.dest + 64) (obj.drop 64) fun s1 =>
              s1.storeBytesAt w x.dest (obj.take 64) fun s2 =>
                let s3 := (({ s2 with objectSerial := s2.objectSerial + 1 }).updPart p.id fun q => { q with ctxState := 4 }).countStep p.id 3
                s3.refuse w d 0

/-- R400: mark a migration slot as used. -/
def State.useSlot (s : State) (n : Nat) : State := { s with keys := listModify s.keys n fun k => { k with state := 2 } }

/-- R400: IMPORT of a sealed object that has been read. -/
def State.importObject (s : State) (w : Who) (d : SReg) (x : Descriptor) (p : Part) (obj : List Byte) : Acc :=
  if p.ctxState != 0 || s.holdsContext p then s.refuse w d 3
  else
    match s.keys[x.slot]? with
    | none => s.refuse w d 4
    | some k =>
      if k.kind != 3 || k.part != some p.id || (k.state != 1 && k.state != 2) || k.keyId.toNat != fieldAt obj 8 8 then s.refuse w d 4
      else if k.state == 2 then s.refuse w d 5
      else
        match openObject k obj with
        | .error e => s.refuse w d e
        | .ok payload =>
          match Config.unpackContext payload with
          | none => s.refuse w d 7
          | some snap => (((s.install p snap).useSlot x.slot).countStep p.id 4).refuse w d 0

/-- R399, R400: IMPORT of a descriptor. -/
def State.import_ (s : State) (w : Who) (d : SReg) (x : Descriptor) : Acc :=
  if !x.ok || x.dest != 0 then s.refuse w d 1
  else
    match s.part? x.part with
    | none => s.refuse w d 2
    | some p => s.loadBytes w 1 x.source x.srcLen fun s1 obj => s1.importObject w d x p obj

/-- R399, R400: SEAL of a descriptor. -/
def State.seal_ (s : State) (w : Who) (d : SReg) (x : Descriptor) : Acc :=
  if !x.ok || x.part != 0 || 65536 < x.srcLen then s.refuse w d 1
  else
    match s.keyFor x.slot w.p.id 4 with
    | .error e => s.refuse w d e
    | .ok k =>
      s.loadBytes w 1 x.source x.srcLen fun s1 bytes =>
        let obj := sealObject k s1.objectSerial bytes
        if x.cap < obj.length then s1.refuse w d 8
        else
          s1.storeBytesAt w (x.dest + 64) (obj.drop 64) fun s2 =>
            s2.storeBytesAt w x.dest (obj.take 64) fun s3 =>
              ({ s3 with objectSerial := s3.objectSerial + 1 }).refuse w d 0

/-- R399: the descriptor at an address. -/
def State.descriptor (s : State) (w : Who) (o : Operands) (k : State → Descriptor → Acc) : Acc :=
  s.loadBytes w 64 o.tb.base.toNat 64 fun s1 bs => k s1 (descriptorOf bs)

/-- R400: EXPORT of the descriptor at an address. -/
def State.exportCtx (s : State) (w : Who) (d : SReg) (o : Operands) : Acc := s.descriptor w o fun s1 x => s1.export_ w d x

/-- R400: IMPORT of the descriptor at an address. -/
def State.importCtx (s : State) (w : Who) (d : SReg) (o : Operands) : Acc := s.descriptor w o fun s1 x => s1.import_ w d x

/-- R400: SEAL of the descriptor at an address. -/
def State.seal (s : State) (w : Who) (d : SReg) (o : Operands) : Acc := s.descriptor w o fun s1 x => s1.seal_ w d x

/-- R400: EXPORT. -/
def execExportCtx (d a : SReg) (s : State) : Host.Outcome State Fault Refusal :=
  issue (.exportCtx d a) s fun c =>
    let o := c.sysOps (c.g.regs.spair a.val) []
    s.finishFork c (.exportCtx d a) o .y false fun s1 => s1.exportCtx c.who d o

/-- R400: IMPORT. -/
def execImportCtx (d a : SReg) (s : State) : Host.Outcome State Fault Refusal :=
  issue (.importCtx d a) s fun c =>
    let o := c.sysOps (c.g.regs.spair a.val) []
    s.finishFork c (.importCtx d a) o .y false fun s1 => s1.importCtx c.who d o

/-- R400: SEAL. -/
def execSeal (d a : SReg) (s : State) : Host.Outcome State Fault Refusal :=
  issue (.seal d a) s fun c =>
    let o := c.sysOps (c.g.regs.spair a.val) []
    s.finishFork c (.seal d a) o .y false fun s1 => s1.seal c.who d o

/-! ### CNTRD -/

/-- R403: a counter of a class and index; none where the table defines none. -/
def Counters.get (x : Counters) (cls idx : Nat) : Option DWord :=
  match cls with
  | 0 => [x.retired, x.issued, x.admitted, x.released][idx]?
  | 1 => [x.consumed, x.granted][idx]?
  | 2 => x.steps.toList[idx]?
  | 3 => [x.refusedReads, x.rightsTraps][idx]?
  | 4 => [x.saves, x.forcedSaves][idx]?
  | _ => none

/-- R402: what CNTRD reads; an owner context reads its own partition. -/
def State.counter (s : State) (p : Part) (v : Word) : DWord :=
  let x := v.toNat
  let id := if p.cfg.tag == .owner then p.id else x % 128
  if x / 128 % 2 != 0 || x / 2 ^ 12 % 16 != 0 || x / 2 ^ 24 != 0 || (p.cfg.tag == .owner && x % 128 != 0) then BitVec.allOnes 64
  else
    match s.part? id with
    | some q => (q.counters.get (x / 256 % 16) (x / 65536 % 256)).getD (BitVec.allOnes 64)
    | none => BitVec.allOnes 64

/-- R402, R403, R448: CNTRD; activity counters have no cell for the operator. -/
def execCntrd (d a : SReg) (s : State) : Host.Outcome State Fault Refusal :=
  issue (.cntrd d a) s fun c =>
    let v := c.g.regs.sreg a.val
    if c.p.cfg.tag == .operator && v.toNat / 256 % 16 == 0 then
      s.trap c (wordOfInstr (.cntrd d a)) .rights (BitVec.ofNat 32 c.p.cfg.tag.code) 0 0
    else
      let x := s.valueRead c.p c.t c.g 3 (s.counter c.p v)
      (x.1.setRegs c fun r => r.setPair d.val x.2).retire c

end Sys2Proof.Machine
end

