-- ==== Sys2Proof/Machine/Faults.lean ====
section
/-! DEFINITION. Deferred accesses (R148, R265, R266, R459): arriving data, fault entries, resolutions and replay; walkers
(R263), invalidation (R264) and leases (R270, R271). -/

namespace Sys2Proof.Machine

/-! ### Data of missing strands -/

/-- R148: a strand of the group, frozen or not, waits for its data. -/
def Group.awaitsData (g : Group) : Bool := !g.ctl.missing.isEmpty || g.ctxs.any fun x => !x.ctl.missing.isEmpty

/-- R148: the data of one waiting strand arrive. -/
def Group.arriveOne (g : Group) : Group :=
  match g.ctl.missing with
  | k :: _ => (g.arriveData k).settle
  | [] => g.arriveFrozen

/-- R148: MISS_DATA_ARRIVAL. -/
def execMissDataArrival (gi : Nat) (s : State) : Host.Outcome State Fault Refusal :=
  .next (
    let s1 := s.updGroup gi Group.arriveOne
    if (s1.groups[gi]?).any Group.awaitsData then s1.due (.missDataArrival gi) else s1)

/-! ### Fault entries -/

/-- R265: FAULT_ENTRY_WRITE. -/
def execFaultEntryWrite (p : Nat) (stage2 : Bool) (s : State) : Host.Outcome State Fault Refusal := .next (s.writeFault p stage2)

/-- R426: a request to a partition's register page is taken: a protected one takes those that come on its live stream only. An event that
is due for a register is a request that came on it, if it is live still (log 7). -/
def Part.vfOpen (p : Part) (onStream : Bool) : Bool := !p.cfg.protect || (p.cc.stream.isSome && onStream)

/-- R266: an entry is resolved; `raise` is action 1. -/
def FaultRef.resolve (stage2 : Bool) (serial : Nat) (raise : Bool) (f : FaultRef) : FaultRef :=
  if f.stage2 == stage2 && f.serial == serial && f.action.isNone then { f with action := some raise } else f

/-- R266: an entry of a group's log is resolved. -/
def Group.resolve (stage2 : Bool) (serial : Nat) (raise : Bool) (g : Group) : Group :=
  { g with log := g.log.map fun l => { l with faults := l.faults.map (FaultRef.resolve stage2 serial raise) } }

/-- R310: an engine command that waits for an entry. -/
def Cmd.waitsFor (pid : Nat) (stage2 : Bool) (serial : Nat) (c : Cmd) : Bool :=
  c.part == pid && (match c.phase with
    | .waitFault n st2 none => n == serial && st2 == stage2
    | _ => false)

/-- R317, R310: the event that carries on a command. -/
def Cmd.goOn (c : Cmd) (ci : Nat) : Instr := if c.braid.isSome && c.matched then .braidExecute ci else runEvent c.instr ci

/-- R266, R310: what waits on an entry of a partition's queue takes its resolution. -/
def State.resolveEntry (s : State) (pid : Nat) (stage2 : Bool) (serial : Nat) (raise : Bool) : State :=
  let s1 := s.updPart pid fun p =>
    let q := p.fq stage2
    p.setFq stage2 { q with pending := q.pending.filter (· != serial) }
  let mine := s1.contextGroups pid
  let s2 := mine.foldl (fun s gi =>
    if (s.groups[gi]?).any fun g => !g.log.isEmpty then (s.updGroup gi (Group.resolve stage2 serial raise)).due (.faultReplay gi) else s) s1
  s2.cmds.zipIdx.foldl (fun s x =>
    if x.1.waitsFor pid stage2 serial then
      (s.updCmd x.2 fun c => { c with phase := .waitFault serial stage2 (some raise) }).due (x.1.goOn x.2)
    else s) s2

/-- R266: a RESOLVE of a value: its serial, when it names a pending entry. -/
def State.resolveFault (s : State) (pid : Nat) (stage2 : Bool) (v : DWord) : State :=
  match s.part? pid with
  | none => s
  | some p =>
    let serial := v.toNat % 2 ^ 32
    match (p.fq stage2).pending.find? fun n => n % 2 ^ 32 == serial with
    | some n => s.resolveEntry pid stage2 n (v.getLsbD 32)
    | none => s

/-- R266: XLAT_FQ1RESOLVE, by the owner. -/
def execXlatFq1Resolve (p : Nat) (v : DWord) (s : State) : Host.Outcome State Fault Refusal :=
  .next (if (s.part? p).any fun q => q.vfOpen true then s.resolveFault p false v else s)

/-- R266: XLAT_FQ2RESOLVE, by the operator. -/
def execXlatFq2Resolve (p : Nat) (v : DWord) (s : State) : Host.Outcome State Fault Refusal := .next (s.resolveFault p true v)

/-! ### Replay -/

/-- R266: the access of a log entry, with its logged lanes and operands. -/
def State.replayAcc (s : State) (w : Who) (l : LogEntry) : Acc :=
  match l.instr with
  | .ld f => s.loadGlobal w f.size f.d l.ops
  | .sld d _ _ _ => s.loadScalar w d l.ops
  | .st f => s.storeGlobal w f.size l.ops fun g => { g with region := l.before }
  | .ldp f => s.loadPriv w f.size f.d l.ops
  | .stp f => s.storePriv w f.size l.ops
  | .tbset tb _ _ => s.tbset w tb l.ops
  | .discard _ _ _ => s.discard w l.ops
  | .watch _ _ => s.watch w l.ops
  | .ktie k _ => s.ktie w k.toNat l.ops
  | .launch d _ => s.launch w d l.ops
  | .publish d _ _ => s.publish w d l.ops
  | .bindSlot d _ _ => s.bind_ w d l.ops
  | .unbind d _ _ => s.slotWord w d l.ops none
  | .unbindReleaseHold d _ _ => s.slotWord w d l.ops none
  | .place d _ _ => s.place w d l.ops
  | .exportCtx d _ => s.exportCtx w d l.ops
  | .importCtx d _ => s.importCtx w d l.ops
  | .seal d _ => s.seal w d l.ops
  | i =>
    match atomOf i with
    | some (op, f) => s.atomic w op f l.ops id l.turned
    | none => .done (Done.plain s)

/-- R265, R266: a replay that faults again queues new entries and keeps its log entry. -/
def State.faultAgain (s : State) (w : Who) (l : LogEntry) (fs : List PageFault) (a : DWord) (m : LaneMask) : State :=
  let s1 := s.updPart w.p.id fun p => { p with xlat := p.xlat.forget (fs.map fun f => f.va / 4096) }
  let ref := l.ref.add (4 * (l.ops.hints.length : Int))
  let r := s1.queueFaults w.p.id (faultKind l.instr) (w.p.relHall w.t.hall) ref.bits fs
  r.1.updGroup w.gi fun g => { g with log := g.log.map fun x => if x.id == l.id then { x with faults := r.2, addr := a, lanes := m } else x }

/-- R266: the registers that a replay writes. -/
def Done.finish (d : Done) (gi : Nat) : State :=
  d.st.updGroup gi fun g =>
    let r := Regs.writeLanes d.mask g.regs d.writes
    { g with regs := match d.scalar with
        | some x => r.setS x.1 x.2
        | none => r }

/-- R184, R266: the destinations of an access as a replay has left them, in registers captured while it was deferred: what issued in between
waits for them, so that nothing else has changed them. -/
def Regs.follow (i : Instr) (r now : Regs) (dests : List Nat × List Nat) : Regs :=
  let r1 := dests.1.foldl (fun r n => r.setV n (now.vreg n)) r
  let r2 := dests.2.foldl (fun r n => r.setS n (now.sreg n)) r1
  match i with
  | .tbset tb _ _ => r2.setTb tb (now.tbReg tb)
  | _ => r2

/-- R184, R266: a region that opened after an access was deferred holds its results too, and so does one that a later store of the log may
open. -/
def Group.bring (l : LogEntry) (g : Group) : Group :=
  let f := fun x : Region => { x with regs := x.regs.follow l.instr g.regs (logWrites l) }
  { g with
    region := if g.log.any fun x => x.id == l.id && x.inRegion then g.region else g.region.map f
    log := g.log.map fun x => { x with before := x.before.map f } }

/-- R328, R344, R352: a deferred MMA goes on from its entry's step; what scratchpad gave, and its BEGIN.p, stand as at its issue, and TRAPEN as
it is. -/
def LogEntry.replayChain (l : LogEntry) (trapEn : BitVec 5) (ch : Chain) : Chain :=
  { ch with log := some l.id, strand := none, trapEn := trapEn, inRegion := l.inRegion, steps := ch.steps.filter fun k => l.rpt ≤ k, reads := ch.reads.filter fun r => r.runs.isEmpty }

/-- R266, R363: replay a deferred MMA: its checks, then its beats. -/
def State.replayMma (s : State) (w : Who) (l : LogEntry) (ch0 : Chain) : State :=
  let ch := l.replayChain w.g.ctrl.trapEn ch0
  if slotRefuses w.t ch.form then s.deferTrap w l .badHandle (BitVec.ofNat 32 ch.form.slot.toNat) 0 0
  else
    match s.startChain w ch with
    | .wait pages => (s.askWalks w.p.id (s.sitesOf w.t.hall) pages).due (.faultReplay w.gi)
    | .trap cause a => s.deferTrap w l cause 0 (BitVec.ofInt 64 a) 0
    | .page fs a => s.faultAgain w l fs a 0
    | .run ch1 => (s.usedChain w ch).runChain w ch1

/-- R266: replay an access. -/
def State.replay (s : State) (w : Who) (l : LogEntry) : State :=
  match l.ops.chain with
  | some ch => s.replayMma w l ch
  | none =>
    match s.replayAcc w l with
    | .wait pages => (s.askWalks w.p.id (s.sitesOf w.t.hall) pages).due (.faultReplay w.gi)
    | .trap cause a m => s.deferTrap w l cause 0 a m
    | .page fs a m => s.faultAgain w l fs a m
    | .done d =>
      match d.more with
      | some got =>
        (d.st.updGroup w.gi fun g => { g with log := g.log.map fun x => if x.id == l.id then { x with turned := got } else x }).due (.faultReplay w.gi)
      | none => ((d.finish w.gi).updGroup w.gi (Group.bring l)).endReplay w.gi l.id

/-- R266: the stage of the lowest-serial entry that raises PAGE. The serials of the two queues are compared as numbers, and the lower page goes
first where they are equal, DESIGN CHOICE (log 63). -/
def LogEntry.raised (l : LogEntry) : Option Nat :=
  let xs := l.faults.filter fun f => f.action == some true
  match xs with
  | [] => none
  | f :: rest => some (if (rest.foldl (fun b x => if x.serial < b.serial then x else b) f).stage2 then 2 else 1)

/-- R266: the first waiting access may go on: every queued entry of it is resolved, or one with action 1. -/
def Group.resolved (g : Group) : Option LogEntry :=
  match g.activeLog with
  | l :: _ => if (l.faults.all fun f => f.action.isSome) || l.faults.any fun f => f.action == some true then some l else none
  | [] => none

/-- R345: a deferred MMA that is to replay waits for a chain of another group on its slot. -/
def State.replayWaits (s : State) (w : Who) : Bool := w.g.resolved.any fun l => l.ops.chain.any fun ch => s.slotTaken w.t w.gi ch.form.slot

/-- R266: a replay may go on: the group runs, is resident and unsaved, runs no chain, stands between no tiles of an APPEND (R242), and has a
strand to trap at. -/
def Who.mayReplay (w : Who) : Bool :=
  w.g.phase == .running && w.g.saved.isNone && w.t.phase == .resident && w.g.chain.isNone && !w.g.midWord && w.g.resolved.isSome &&
    w.g.issueStrand.isSome

/-- R266: FAULT_REPLAY: the first waiting access replays, or the group raises PAGE. -/
def execFaultReplay (gi : Nat) (s : State) : Host.Outcome State Fault Refusal :=
  .next (match s.who? gi with
    | none => s
    | some w =>
      match w.g.resolved with
      | none => s
      | some l =>
        if !w.mayReplay || s.replayWaits w then s
        else
          match l.raised with
          | some stage => s.deferTrap w l .page (BitVec.ofNat 32 stage) l.addr l.lanes
          | none => s.replay w l)

/-! ### Walkers -/

/-- R263: walks that walkers of a partition run. -/
def PartXlat.walkers (x : PartXlat) : Nat := (x.walks.filter fun w => w.phase == .running).length

/-- R263: when the oldest queued walk of a partition was asked for. -/
def PartXlat.oldest (x : PartXlat) : Option Nat := x.queuedWalks.head?.map WalkReq.asked

/-- R263: walkers that run. -/
def State.walkersBusy (s : State) : Nat := sumOf s.parts fun p => p.xlat.walkers

/-- The partition of a list whose oldest queued walk was asked for first. -/
def longestWaiting : List Part → Option Part
  | [] => none
  | p :: rest => some (rest.foldl (fun b x => if x.xlat.oldest.getD 0 < b.xlat.oldest.getD 0 then x else b) p)

/-- R263: the partition that a free walker goes to. -/
def State.walkNext (s : State) : Option Part :=
  let waiting := s.parts.filter fun p => !p.xlat.queuedWalks.isEmpty
  let below := waiting.filter fun p => p.xlat.walkers < p.xlat.quota.toNat
  match longestWaiting below with
  | some p => some p
  | none =>
    match waiting with
    | [] => none
    | p :: rest => some ((p :: rest).getD (Config.freePick s.free 0 % (rest.length + 1)) p)

/-- R263: the first queued walk of a list starts. -/
def startFirst : List WalkReq → List WalkReq
  | [] => []
  | w :: rest => if w.phase == .queued then { w with phase := .running } :: rest else w :: startFirst rest

/-- R263: WALK_START. -/
def execWalkStart (s : State) : Host.Outcome State Fault Refusal :=
  .next (if 64 ≤ s.walkersBusy then s
    else
      match s.walkNext with
      | none => s
      | some p =>
        let s1 := (s.spend.updPart p.id fun q => { q with xlat := { q.xlat with walks := startFirst q.xlat.walks } }).due .walkComplete
        if s1.walkNext.isSome then s1.due .walkStart else s1)

/-- R270, R453: the leased region of a class 10 key: 2 MiB of a window of the target partition. -/
def leaseRegion (key : Nat) : Nat := (key - peerBase) / 2 ^ 21

/-- R270: the source holds a lease of a region that is not recalled. -/
def State.leased (s : State) (pid region : Nat) : Bool := s.leasesHeld.any fun l => l.part == pid && l.region == region && !l.recalled

/-- A running walk of a partition. -/
def State.runningWalks (s : State) : List (Part × Nat) :=
  s.parts.flatMap fun p => (p.xlat.walks.filter fun w => w.phase == .running).map fun w => (p, w.page)

/-- R258: a walk is done. -/
def PartXlat.endWalk (page : Nat) (x : PartXlat) : PartXlat := { x with walks := x.walks.filter fun w => w.page != page }

/-- R258: a walk that faulted leaves its result for the access that waits. -/
def PartXlat.verdict (page : Nat) (r : WalkFail) (x : PartXlat) : PartXlat :=
  { x.endWalk page with verdicts := x.verdicts.filter (fun v => v.1 != page) ++ [(page, r)] }

/-- R262: the TLBs that wait for the walk of a page. -/
def PartXlat.sitesFor (x : PartXlat) (page : Nat) : List TlbSite := ((x.walks.find? fun w => w.page == page).map WalkReq.sites).getD []

/-- R270: a translation of a peer's frames covers the leased region of the page that was walked, and no other. -/
def Xlate.leasePart (x : Xlate) (va : Nat) : Xlate :=
  if keyClass x.key == 2 && 2 ^ 21 < x.bytes then
    let off := (va - x.va) / 2 ^ 21 * 2 ^ 21
    { x with va := x.va + off, bytes := 2 ^ 21, key := x.key + off, guest := x.guest + off, more := x.bytes - off - 2 ^ 21 }
  else x

/-- R257, R262: a walk's translation is installed in the TLBs that wait for it, and for an older unlike one of its run. -/
def State.installWalk (s : State) (p : Part) (page : Nat) (t : Xlate) : State :=
  (p.xlat.sitesFor page).foldl (fun s site => s.installAt p.id (t.leasePart (4096 * page)) site)
    (s.updPart p.id fun q => { q with xlat := (q.xlat.endWalk page).supersede (t.leasePart (4096 * page)) })

/-- R258, R262, R270, R434: one walk ends. -/
def State.endWalk (s : State) (p : Part) (page : Nat) : State :=
  match s.translate (s.unreadable p) p (4096 * page) with
  | .ok t =>
    let key := t.at (4096 * page)
    if keyClass key == 2 && !s.leased p.id (leaseRegion key) then
      (s.updPart p.id fun q => { q with xlat := { q.xlat with walks := q.xlat.walks.map fun w =>
        if w.page == page then { w with phase := .lease } else w } }).due (.leaseReq p.id (leaseRegion key))
    else s.installWalk p page t
  | .error r =>
    let s1 := s.updPart p.id fun q => { q with xlat := q.xlat.verdict page r }
    (match s.translate s.poisonNow p (4096 * page) with
      | .error q => if q = r then s1 else s1.beginHold p.id 2
      | .ok _ => s1.beginHold p.id 2)

/-- R258: WALK_COMPLETE: a running walk finishes, whichever. -/
def execWalkComplete (s : State) : Host.Outcome State Fault Refusal :=
  .next (match s.runningWalks with
    | [] => s
    | x :: rest =>
      let y := (x :: rest).getD (Config.freePick s.free 1 % (rest.length + 1)) x
      let s1 := (s.spend.endWalk y.1 y.2).wakePart y.1.id fun w => w == .walk
      let s2 := if s1.walkNext.isSome then s1.due .walkStart else s1
      if rest.isEmpty then s2 else s2.due .walkComplete)

/-! ### Invalidation -/

/-- R264: the bytes of a size code; none for all. -/
def invalBytes (v : DWord) : Option Nat :=
  match v.toNat % 16 with
  | 0 => some 4096 | 1 => some 65536 | 2 => some (2 ^ 21) | 3 => some (2 ^ 30) | _ => none

/-- R264: a translation that an invalidation drops: by virtual page for stage 1, by guest-physical page for stage 2. -/
def invalDrops (stage2 : Bool) (v : DWord) (x : Xlate) : Bool :=
  match invalBytes v with
  | none => true
  | some n =>
    let base := v.toNat % 2 ^ 57 / 4096 * 4096 / n * n
    let at_ := if stage2 then x.guest else x.va
    at_ < base + n && base < at_ + x.bytes

/-- R264: release the hidden frame of a register whose translation is dropped. -/
def TbReg.release (drop : Xlate → Bool) (b : TbReg) : TbReg := if b.frame.any drop then b.noFrame else b

/-- R264: release the hidden frames of a group, those of its region, its chain and its log too. -/
def Group.release (drop : Xlate → Bool) (g : Group) : Group := g.mapTb (TbReg.release drop)

/-- R264: the translation that a store was given, of its byte. -/
def OwnStore.xlate (o : OwnStore) : Xlate :=
  { va := o.va, bytes := 1, key := o.key, guest := o.guest, w1 := true, w2 := true, dsc := false, shr := o.shr, cnt := false }

/-- R264: the group's stores that have not reached their homes and were given a translation that is dropped. -/
def Group.markStale (drop : Xlate → Bool) (g : Group) : Group :=
  { g with stores := g.stores.map fun o => if drop o.xlate && (OwnStore.carried .p o || o.unperformed) then { o with stale := true } else o }

/-- R264: a command that waits at a fault goes on from the start, or ends: it keeps no sector with a translation that is dropped (log 58). -/
def Cmd.release (pid : Nat) (c : Cmd) : Cmd :=
  match c.phase with
  | .waitFault _ _ _ => if c.part == pid then { c with pending := [] } else c
  | _ => c

/-- R264, R270: drop translations of a partition from every TLB and hidden frame. -/
def State.dropXlates (s : State) (pid : Nat) (drop : Xlate → Bool) : State :=
  let s1 := (s.contextGroups pid).foldl (fun s gi => s.updGroup gi fun g => (g.release drop).markStale drop)
    (s.updPart pid fun p => { p with xlat := { p.xlat with tlb := p.xlat.tlb.filter fun e => !drop e.x, verdicts := [] } })
  { s1 with cmds := s1.cmds.map (Cmd.release pid) }

/-- R270, R271: an invalidation of stage 2 covers a region of the partition's window: 2 MiB of its guest-physical pages (log 33). -/
def invalMeets (v : DWord) (region : Nat) : Bool :=
  invalDrops true v { va := 0, bytes := 2 ^ 21, key := 0, guest := region % 2 ^ 36 * 2 ^ 21, w1 := false, w2 := false, dsc := false, shr := false, cnt := false }

/-- R271: leases of a partition's pages that an invalidation moves or unmaps are recalled. -/
def State.recallFor (s : State) (pid : Nat) (v : DWord) : State :=
  { s with leasesGranted := s.leasesGranted.map fun l => if l.part == pid && invalMeets v l.region then { l with recalled := true } else l }

/-- R271: leases of a partition's pages have been recalled and not acknowledged. -/
def State.recalling (s : State) (pid : Nat) : Bool := s.leasesGranted.any fun l => l.part == pid && l.recalled

/-- R264, R271: an invalidation begins; its completion is an event. -/
def State.invalidate (s : State) (pid : Nat) (stage2 : Bool) (v : DWord) : State :=
  ((((if stage2 then s.recallFor pid v else s).dropXlates pid (invalDrops stage2 v))).updPart pid fun p =>
    { p with xlat := if stage2 then { p.xlat with inval2Due := p.xlat.inval2Due + 1 } else { p.xlat with inval1Due := p.xlat.inval1Due + 1 } }).due
    (.invalidationComplete pid stage2)

/-- R264: XLAT_INVAL1. -/
def execXlatInval1 (p : Nat) (v : DWord) (s : State) : Host.Outcome State Fault Refusal :=
  .next (if (s.part? p).any fun q => q.vfOpen true then s.invalidate p false v else s)

/-- R264: XLAT_INVAL2. -/
def execXlatInval2 (p : Nat) (v : DWord) (s : State) : Host.Outcome State Fault Refusal :=
  .next (if (s.part? p).isSome then s.invalidate p true v else s)

/-- R264: XLAT_S1ROOT implies an invalidation of everything. -/
def execXlatS1root (p : Nat) (v : DWord) (s : State) : Host.Outcome State Fault Refusal :=
  .next (if (s.part? p).any fun q => q.vfOpen true then
      (s.updPart p fun q => { q with xlat := { q.xlat with s1root := v } }).invalidate p false 15
    else s)

/-- R264: XLAT_S2ROOT implies an invalidation of everything. -/
def execXlatS2root (p : Nat) (v : DWord) (s : State) : Host.Outcome State Fault Refusal :=
  .next (if (s.part? p).isSome then (s.updPart p fun q => { q with xlat := { q.xlat with s2root := v } }).invalidate p true 15 else s)

/-- R264, R270: a group's stores that wait to reach their homes by a translation that has been dropped. -/
def Group.staleStores (g : Group) : Bool := g.stores.any fun o => o.stale && (OwnStore.carried .p o || o.unperformed)

/-- R264, R270: accesses of a partition that still use the translations they were given: chains, engine writes, and stores that are buffered or
not performed and were given one that has been dropped. -/
def State.accessesRun (s : State) (pid : Nat) : Bool :=
  ((s.contextGroups pid).any fun gi => (s.groups[gi]?).any fun g => g.chain.isSome || g.staleStores) ||
    s.cmds.any fun c => c.part == pid && c.phase == .writing

/-- R264, R271: INVALIDATION_COMPLETE: the DONE count rises, at stage 2 once every lease of the pages has been acknowledged. -/
def execInvalidationComplete (p : Nat) (stage2 : Bool) (s : State) : Host.Outcome State Fault Refusal :=
  .next (match s.part? p with
    | none => s
    | some q =>
      let n := if stage2 then q.xlat.inval2Due else q.xlat.inval1Due
      if n == 0 || s.accessesRun p || (stage2 && s.recalling p) then s
      else
        let s1 := s.updPart p fun q =>
          { q with xlat := if stage2 then { q.xlat with inval2Due := n - 1, invDone2 := q.xlat.invDone2 + 1 }
                           else { q.xlat with inval1Due := n - 1, invDone1 := q.xlat.invDone1 + 1 } }
        if n == 1 then s1 else s1.due (.invalidationComplete p stage2))

/-! ### Leases -/

/-- A lease of a partition and region. -/
def Lease.is (pid region : Nat) (l : Lease) : Bool := l.part == pid && l.region == region

/-- R270: a lease that is granted to a source package. -/
def Lease.to (pid region package : Nat) (l : Lease) : Bool := l.is pid region && l.package == package

/-- R271: a target answers a request for a region: it moves no page of it now. -/
def State.mayGrant (s : State) (pid region : Nat) : Bool :=
  !(s.leasesGranted.any fun l => l.is pid region && l.recalled) && !(s.part? pid).any fun p => p.xlat.inval2Due != 0

/-- R270: walks of a partition that wait for the lease of a region. -/
def State.leaseWalks (s : State) (pid region : Nat) : List Nat :=
  match s.part? pid with
  | none => []
  | some p => (p.xlat.walks.filter fun w => w.phase == .lease && (match s.translate s.poison p (4096 * w.page) with
      | .ok t => leaseRegion (t.at (4096 * w.page)) == region
      | .error _ => false)).map WalkReq.page

/-- R270: the regions, each with its partition, whose leases walks wait for. -/
def State.leasesAsked (s : State) : List (Nat × Nat) :=
  (s.parts.flatMap fun p => (p.xlat.walks.filter fun w => w.phase == .lease).filterMap fun w =>
    match s.translate s.poison p (4096 * w.page) with
    | .ok t => some (p.id, leaseRegion (t.at (4096 * w.page)))
    | .error _ => none).eraseDups

/-- R270: the leases that a package may hold as source. -/
def leaseCap : Nat := 4096

/-- R270: leases of other regions that the source holds. -/
def State.otherLeases (s : State) (pid region : Nat) : List Lease := s.leasesHeld.filter fun l => !l.is pid region

/-- R270: the source has no room for one more lease beside those that it holds and those that other walks wait for. -/
def State.leasesFull (s : State) (pid region : Nat) : Bool :=
  leaseCap ≤ (s.otherLeases pid region).length + (s.leasesAsked.filter fun x => x != (pid, region)).length

/-- R270: a translation under the lease of a region. -/
def underLease (region : Nat) (x : Xlate) : Bool :=
  keyClass x.key == 2 && leaseRegion x.key ≤ region && region ≤ leaseRegion (x.key + x.bytes - 1)

/-- R270, R271: LEASE_REQ: as source, room is made for one more lease; as target, the region is granted to the package that the outside names,
until it is recalled. -/
def execLeaseReq (p region : Nat) (s : State) : Host.Outcome State Fault Refusal :=
  .next (if (s.leaseWalks p region).isEmpty then
      (if s.leasesGranted.any (Lease.to p region s.inbox.index) || !s.mayGrant p region then s
       else { s with leasesGranted := s.leasesGranted ++ [{ part := p, region := region, package := s.inbox.index, recalled := false }] })
    else
      match s.leasesHeld with
      | l :: rest =>
        if s.leasesFull p region then
          let x := (l :: rest).getD (Config.freePick s.free 2 % (rest.length + 1)) l
          (s.spend.due (.leaseRelease x.part x.region)).due (.leaseReq p region)
        else s
      | [] => s)

/-- R270: the translation of a page that a LEASE_GRANT carries. -/
def State.carried (pid : Nat) (s : State) (page : Nat) : State :=
  match s.part? pid with
  | some p => s.endWalk p page
  | none => s

/-- R262, R270: LEASE_GRANT: the source holds the lease, and installs the translations that the message carries; one for which the source has no
room, and so has not asked, is not taken. -/
def execLeaseGrant (p region : Nat) (s : State) : Host.Outcome State Fault Refusal :=
  .next (
    let pages := s.leaseWalks p region
    if pages.isEmpty || leaseCap ≤ (s.otherLeases p region).length then s
    else
      let s1 : State := { s with leasesHeld := s.otherLeases p region ++ [{ part := p, region := region, package := 0, recalled := false }] }
      (pages.foldl (State.carried p) s1).wakePart p fun w => w == .walk)

/-- R270: LEASE_DENY: the accesses that wait fault at stage 2 with reason 3. -/
def execLeaseDeny (p region : Nat) (s : State) : Host.Outcome State Fault Refusal :=
  .next (((s.leaseWalks p region).foldl (fun s page =>
    match s.part? p with
    | none => s
    | some q =>
      match s.translate s.poison q (4096 * page) with
      | .ok t =>
        let f : WalkFail := { result := .page true 3 (t.guest + (4096 * page - t.va)) false, readOnly := !t.w1 }
        s.updPart p fun q => { q with xlat := q.xlat.verdict page f }
      | .error _ => s) s).wakePart p fun w => w == .walk)

/-- R270: LEASE_RECALL: the source drops the translations and acknowledges; the target waits for the acknowledgement. -/
def execLeaseRecall (p region : Nat) (s : State) : Host.Outcome State Fault Refusal :=
  .next (
    let mark := fun l : Lease => if l.is p region then { l with recalled := true } else l
    let s1 := { s with leasesGranted := s.leasesGranted.map mark }
    let s2 := { s1 with leasesHeld := s1.leasesHeld.map mark }
    if s.leased p region then (s2.dropXlates p (underLease region)).due (.leaseAck p region) else s1)

/-- R270: LEASE_ACK: the lease is gone, at the source once its accesses are complete, and at the target that of the package which the outside
names. -/
def execLeaseAck (p region : Nat) (s : State) : Host.Outcome State Fault Refusal :=
  .next (
    let s1 := { s with leasesGranted := s.leasesGranted.filter fun l => !(l.to p region s.inbox.index && l.recalled) }
    if s.accessesRun p then s1 else { s1 with leasesHeld := s1.leasesHeld.filter fun l => !(l.is p region && l.recalled) })

/-- R270: an access under the lease of a region is outstanding at the source. -/
def State.leaseBusy (s : State) (pid region : Nat) : Bool :=
  s.accessesRun pid || (s.contextGroups pid).any fun gi => (s.groups[gi]?).any fun g =>
    g.stores.any fun o => underLease region o.xlate && (OwnStore.carried .p o || o.unperformed)

/-- R270: LEASE_RELEASE: a lease is given up, at the source when no access under it is outstanding, and at the target. -/
def execLeaseRelease (p region : Nat) (s : State) : Host.Outcome State Fault Refusal :=
  .next (
    let s1 := { s with leasesGranted := s.leasesGranted.filter fun l => !l.to p region s.inbox.index }
    let s2 := { s1 with leasesHeld := s1.leasesHeld.filter fun l => !l.is p region }
    if s.leaseBusy p region then s1 else s2.dropXlates p (underLease region))

/-- R271: LEASE_TIMEOUT: the operator of the target learns which package has not acknowledged; the outside names it. -/
def execLeaseTimeout (p region : Nat) (s : State) : Host.Outcome State Fault Refusal :=
  .next (if s.leasesGranted.any fun l => l.is p region && l.recalled then
      { s with mgmt := { s.mgmt with notices := s.mgmt.notices ++ [s.inbox.index] } }
    else s)

end Sys2Proof.Machine
end

