-- ==== Sys2Proof/Machine/Hints.lean ====
section
/-! DEFINITION. The hint words (R73 to R79): each waits for the word after it. -/

namespace Sys2Proof.Machine

/-- R75: IMM. -/
def execImm (i : BitVec 22) (s : State) : Host.Outcome State Fault Refusal := issueHint (.imm i) s

/-- R76: GRD. -/
def execGrd (neg : Bool) (g : BitVec 3) (s : State) : Host.Outcome State Fault Refusal := issueHint (.grd neg g) s

/-- R76: SRC3. -/
def execSrc3 (neg abs : Bool) (x : Src) (s : State) : Host.Outcome State Fault Refusal := issueHint (.src3 neg abs x) s

/-- R77: MOD. -/
def execModh (f : ModForm) (s : State) : Host.Outcome State Fault Refusal := issueHint (.modh f) s

/-- R78: REP. -/
def execRep (n : BitVec 6) (d a b : BitVec 2) (s : State) : Host.Outcome State Fault Refusal := issueHint (.rep n d a b) s

/-- R79: SCHED; its stall, yield and reuse fields change no result. -/
def execSched (stall : BitVec 6) (yld : Bool) (reuse : BitVec 3) (s : State) : Host.Outcome State Fault Refusal :=
  issueHint (.sched stall yld reuse) s

/-- R79: the live form, read by PYIELD. -/
def execLive (l : BitVec 16) (s : State) : Host.Outcome State Fault Refusal := issueHint (.live l) s

end Sys2Proof.Machine
end

