-- ==== Sys2Proof/Machine/Sched.lean ====
section
/-! DEFINITION. Scheduling and memory events: the foyer's start (R367), overdue strands (R378), the lost-locality detector
(R379), .nt stores (R54), writes of the host and peers (R291, R433), the eviction schedule (R253) and bandwidth epochs (R415). -/

namespace Sys2Proof.Machine

/-- R367: SCHED_FOYERREC. -/
def execSchedFoyerrec (p : Nat) (v : DWord) (s : State) : Host.Outcome State Fault Refusal :=
  .next (match s.part? p with
    | some q => if q.vfOpen true && s.mayStartFoyer q then (s.startFoyer q v.toNat).spend else s
    | none => s)

/-! ### Issue -/

/-- R378: the next place among the overdue strands. -/
def State.nextOverdue (s : State) : Nat :=
  s.groups.foldl (fun n g => g.ctl.entries.toList.foldl (fun n x => match x.bind Entry.overdue with
    | some k => max n (k + 1)
    | none => n) n) 0

/-- R378: a ready strand of a group becomes overdue. -/
def Entry.late (g : Group) (n : Nat) (e : Entry) : Entry := if e.overdue.isNone && e.isReady g then { e with overdue := some n } else e

/-- R378: STRAND_OVERDUE: the strand has been ready for 1,024 cycles. -/
def execStrandOverdue (g k : Nat) (s : State) : Host.Outcome State Fault Refusal :=
  .next (if (s.groups[g]?).any s.canRun then s.updGroup g (fun x => Group.setEntry (Fin.ofNat 8 k) (Entry.late x s.nextOverdue) x) else s)

/-- R366, R379: the threshold of a hall's partition. -/
def State.lldThresh (s : State) (h : Nat) : Nat :=
  match s.parts.find? fun p => p.halls.contains h with
  | some p => p.sched.lldThresh.toNat
  | none => 128

/-- R379: the allowed count after a window. -/
def lldNext (allowed hits thresh : Nat) : Nat := if thresh < hits then max 4 (allowed - 1) else min 64 (allowed + 1)

/-- R379: the matching misses of a window that ends: all those before the latest word's, and as many of the latest word's as came before
the end. A word's misses lie in one step here, and a window may end among them (log 8). -/
def Hall.windowHits (x : Hall) (hits : Nat) : Nat := max (min x.lostWas x.lost) (min hits x.lost)

/-- R379: LLD_WINDOW_END: a window ends, and the misses in it that matched a victim tag set the allowed count. -/
def execLldWindowEnd (h hits : Nat) (s : State) : Host.Outcome State Fault Refusal :=
  .next (s.updHall h fun x =>
    { x with allowed := lldNext x.allowed (x.windowHits hits) (s.lldThresh h), lost := x.lost - x.windowHits hits, lostWas := 0 })

/-! ### Memory -/

/-- R54: NT_STORE_PERFORMED: the group's .nt stores to granule `n` become visible at their home, whatever scope the device
performs them at. -/
def execNtStorePerformed (g n : Nat) (_ : Scope) (s : State) : Host.Outcome State Fault Refusal := .next (s.performNt g n)

/-- R55: zeros that the outside writes scrub what stands in memory behind a memory-side cache (log 56). -/
def Homes.scrub (h : Homes) (key : Nat) (bytes : List Byte) : Homes :=
  if bytes.all (· == 0) then { h with backing := h.backing.writeN key bytes } else h

/-- R433: what the outside puts into a sector of HBM itself, with its side band: a tag that seals it, or not. A value that an earlier seal of
the sector made opens; an ECC word that does not match is an uncorrectable error (log 30). -/
def State.hbmSector (s : State) (sec : Nat) (bytes side : List Byte) : State :=
  let tag := fieldAt side 0 8
  let pair := [2 * sec, 2 * sec + 1]
  let held := s.homes.l2.any fun l => l.line == sec / 4 && l.valid.getLsbD (sec % 4)
  let h : Homes :=
    { s.homes with
      sysMem := s.homes.sysMem.writeN (32 * sec) bytes, backing := s.homes.backing.writeN (32 * sec) bytes
      seals := s.homes.seals.map fun y => if y.sec == sec then { y with tag := some (BitVec.ofNat 64 tag) } else y }
  let whole := s.broken.filter fun g => !pair.contains g
  let bad := fieldAt side 8 8 != Config.sectorEcc (bytes ++ natLe 8 tag)
  { s with
    homes := h
    mem := if held then s.mem else s.mem.writeN (32 * sec) (h.plainSector sec)
    hist := if held then s.hist else s.hist.filter fun c => !pair.contains c.gran
    broken := if (h.seal? sec).isSome then whole else if tag != 0 then whole ++ pair else s.broken
    poison := (s.poison.filter fun g => !pair.contains g) ++ if bad then pair else [] }

/-- R433: sectors of HBM that the outside writes, each with 16 bytes of side band. -/
def State.hbmWrite (s : State) (sec : Nat) (bytes side : List Byte) : State :=
  (List.range (bytes.length / 32)).foldl (fun s i => s.hbmSector (sec + i) (bytesAt bytes (32 * i) 32) (bytesAt side (16 * i) 16)) s

/-- R55, R291, R433: HOST_WRITE of the outside's bytes at a class and address; on a sealed sector they replace ciphertext. With the flag, they
are put into HBM, with their side band in the nonce. -/
def execHostWrite (s : State) : Host.Outcome State Fault Refusal :=
  let key := outsideKey (s.inbox.kind.toNat % 4) s.inbox.addr
  if s.inbox.flag && keyClass key == 0 then .next (s.hbmWrite (key / 32) s.inbox.bytes s.inbox.nonce)
  else
    let s1 := s.outsideWrite key s.inbox.bytes
    .next { s1 with homes := s1.homes.scrub key s.inbox.bytes }

/-! ### The eviction schedule -/

/-- R253: an entry of a schedule; none when it breaks its constraint. -/
def keepOf (bs : List Byte) : Option Keep :=
  let start := fieldAt bs 0 8
  let n := fieldAt bs 8 4
  if start % 128 == 0 && start < 2 ^ 57 && 1 ≤ n then some { start := start, lines := n, step := BitVec.ofNat 32 (fieldAt bs 12 4) } else none

/-- R253: the ranges of a table. -/
def keepsOf (bs : List Byte) (n : Nat) : List Keep := (List.range n).filterMap fun i => keepOf (bytesAt bs (16 * i) 16)

/-- R253: L2SCHED_LOAD: the table is read as a party at y would read it. A table of which a byte does not translate leaves the old schedule,
and reports nothing, DESIGN CHOICE (log 10). -/
def execL2schedLoad (p : Nat) (s : State) : Host.Outcome State Fault Refusal :=
  .next (match s.part? p with
    | none => s
    | some q =>
      if !q.vfOpen true then s
      else
        let n := min q.xlat.keepCount.toNat 4096
        match s.readVa q s.ownerReader [] s.free q.xlat.keepBase.toNat (16 * n) with
        | some bs => (s.updPart p fun q => { q with xlat := { q.xlat with keeps := keepsOf bs n } }).spend
        | none => s)

/-! ### Bandwidth -/

/-- R415: a limit as a fraction in lowest terms, kept from 1/64 to 1 line per cycle. -/
def Limit.clamp (x : Limit) : Limit :=
  if x.den ≤ x.num then { x with num := 1, den := 1 }
  else if 64 * x.num < x.den then { x with num := 1, den := 64 }
  else { x with num := x.num / Nat.gcd x.num x.den, den := x.den / Nat.gcd x.num x.den }

/-- R415: a limit after an epoch: it halves when a channel of its stack reported over, and else rises by 1/64. -/
def Limit.next (over_ : Bool) (x : Limit) : Limit :=
  if over_ then { x with den := 2 * x.den }.clamp else { x with num := 64 * x.num + x.den, den := 64 * x.den }.clamp

/-- R415: the limit of a partition and stack at a hall; 1 line per cycle at the start. -/
def Hall.limit (h : Hall) (pid stack : Nat) : Limit :=
  (h.limits.find? fun x => x.part == pid && x.stack == stack).getD { part := pid, stack := stack, num := 1, den := 1 }

/-- R415: the limits of a hall after an epoch, from the over bits by partition and stack. -/
def Hall.epoch (over_ : Nat → Nat → Bool) (pids : List Nat) (h : Hall) : Hall :=
  { h with limits := (pids.flatMap fun p => (List.range 12).map fun k => (h.limit p k).next (over_ p k)).filter fun x => x.num != x.den }

/-- R415: BW_EPOCH: bit k of two bytes for each partition, in the order of their numbers, says that a channel of stack k
reported over. -/
def execBwEpoch (s : State) : Host.Outcome State Fault Refusal :=
  .next (
    let over_ := fun p k : Nat => (fieldAt s.inbox.bytes (2 * p) 2).testBit k
    { s with halls := s.halls.zipIdx.map fun x =>
        let pids := nub ((s.teams.filter fun t => t.phase == .resident && t.hall == x.2).map Team.part)
        if pids.isEmpty then { x.1 with limits := [] } else x.1.epoch over_ pids })

end Sys2Proof.Machine
end

