-- ==== Sys2Proof/Machine/Mgmt.lean ====
section
/-! DEFINITION. The operator's events and the owner's answers to parks (R393 to R398): park notices, inspections, resets. -/

namespace Sys2Proof.Machine

/-! ### Park notices -/

/-- R395: the park-notice queue has room. -/
def Mgmt.parkRoom (m : Mgmt) : Bool := m.parkQHead - m.parkQTail != BitVec.ofNat 32 m.parkQSize.toNat

/-- R395: PARK_NOTICE: the oldest waiting notice is written once the queue has room. -/
def execParkNotice (s : State) : Host.Outcome State Fault Refusal :=
  .next (match s.mgmt.parkWaiting with
    | [] => s
    | n :: rest =>
      if s.mgmt.parkRoom then
        let at_ := s.mgmt.parkQBase.toNat + 16 * (s.mgmt.parkQHead.toNat % s.mgmt.parkQSize.toNat)
        let s1 := s.outsideWrite at_ n
        let s2 := { s1 with mgmt := { s1.mgmt with parkQHead := s1.mgmt.parkQHead + 1, parkWaiting := rest } }
        if rest.isEmpty then s2 else s2.due .parkNotice
      else s)

/-! ### Inspection -/

/-- R377: queued grids of a partition. -/
def State.gridCount (s : State) (pid : Nat) : Nat := (s.grids.filter fun g => g.part == pid && g.queued).length

/-- R384: teams of a partition's grids that stand somewhere. -/
def State.teamsIn (s : State) (pid : Nat) (ph : TeamPhase) : Nat := (s.teams.filter fun t => t.part == pid && !t.foyer && t.phase == ph).length

/-- R394: a class 0 item of a partition. -/
def State.metadata (s : State) (p : Part) (item : Nat) : Option DWord :=
  let idle := p.ctxState == 0 || p.ctxState == 4
  let num := fun n : Nat => some (BitVec.ofNat 64 n)
  match item with
  | 0 => num p.ctxState.toNat
  | 1 => num p.halls.length
  | 2 => num (if idle then 0 else s.gridCount p.id)
  | 3 => num (if idle then 0 else s.teamsIn p.id .resident)
  | 4 => num (if idle then 0 else s.teamsIn p.id .saved)
  | _ => none

/-- R394: the status and value of an inspection of the selected partition. -/
def State.inspect (s : State) (v : Word) : BitVec 2 × DWord :=
  if v.toNat % 256 != 0 then (1, 0)
  else
    match (s.part? s.mgmt.ctxSel.toNat).bind fun p => s.metadata p (v.toNat / 256) with
    | some x => (0, x)
    | none => (2, 0)

/-- R394, R403: a refused operator read of owner state is counted. -/
def State.countRefused (s : State) (pid : Nat) : State :=
  s.updPart pid fun p => { p with counters := { p.counters with refusedReads := p.counters.refusedReads + 1 } }

/-- R394: MGMT_INSPID, by the operator. -/
def execMgmtInspid (s : State) : Host.Outcome State Fault Refusal :=
  .next (
    let v := loWord s.inbox.value
    if s.inbox.auth != .operator || s.mgmt.inspStatus == 3 then s
    else
      let r := s.inspect v
      let pid := s.mgmt.ctxSel.toNat
      let s1 := s.countStep pid 6
      let s2 := if r.1 == 1 then s1.countRefused pid else s1
      { s2 with mgmt := { s2.mgmt with inspId := v, inspData := 0, inspStatus := 3, inspResult := some r } }.due .inspectionComplete)

/-- R394: INSPECTION_COMPLETE. -/
def execInspectionComplete (s : State) : Host.Outcome State Fault Refusal :=
  .next (match s.mgmt.inspResult with
    | some r => { s with mgmt := { s.mgmt with inspStatus := r.1, inspData := r.2, inspResult := none } }
    | none => s)

/-! ### Parked groups -/

/-- R396: the group of a partition that is parked with a serial. -/
def State.parkedGroup (s : State) (pid serial : Nat) : Option (Nat × Nat) :=
  (s.groups.zipIdx.find? fun x => ((s.teamOf x.1).any fun t => t.part == pid && t.phase != .released) && (match x.1.phase with
    | .parked n _ => n == serial
    | _ => false)).map fun x => (x.2, match x.1.phase with
    | .parked _ c => c
    | _ => 0)

/-- R396: OWN_PARKACT action 0: the parked group's team is killed. -/
def execOwnParkactKill (p serial : Nat) (s : State) : Host.Outcome State Fault Refusal :=
  .next (match s.parkedGroup p serial with
    | some (gi, _) =>
      if (s.part? p).any fun q => q.vfOpen true then
        (match s.groups[gi]? with
         | some g => s.killTeam g.team
         | none => s)
      else s
    | none => s)

/-- R396: a group that was parked runs again. -/
def State.unpark (s : State) (w : Who) : State :=
  let s1 := s.updGroup w.gi fun g => { g with phase := .running }
  if w.t.foyer && w.t.phase == .resident then s1.updPart w.p.id fun q => { q with sched := { q.sched with foyerState := 1 } } else s1

/-- R154: what a group's frame returns to: how many landings were being handled within the trap that wrote it, that trap, and what was
being handled around it. -/
def Group.framed (g : Group) : Option (Nat × Ctx × List Ctx) :=
  match g.ctxs.dropWhile Ctx.landing with
  | x :: rest => some ((g.ctxs.takeWhile Ctx.landing).length, x, rest)
  | [] => none

/-- R154, R396, R459: a parked group resumes as TRET would, from its frame, which leaves any landing within its trap handler too. A wedged
group that handles no trap has no frame, and goes on where it stood (log 35). The group parks again when TRET would fault. -/
def State.resumeParked (s : State) (w : Who) : State :=
  match w.g.framed with
  | none => s.unpark w
  | some (n, x, rest) =>
    match s.returnSlot w with
    | .ok slot => (((s.unpark w).updGroup w.gi fun g => { g with land := g.land.drop n }).endTrap w slot x rest).unpin w.p.id
    | .error cause => if cause == .integrity then (s.park w.gi 3).beginHold w.p.id 2 else s.park w.gi 1

/-- R396: OWN_PARKACT action 1. -/
def execOwnParkactResume (p serial : Nat) (s : State) : Host.Outcome State Fault Refusal :=
  .next (match s.parkedGroup p serial with
    | some (gi, _) =>
      (match s.who? gi with
       | some w => if w.p.vfOpen true then s.resumeParked w else s
       | none => s)
    | none => s)

/-! ### Reset -/

/-- R438: a reset or a destruction of a held partition is refused until its hold time has expired. -/
def Part.holdBusy (p : Part) : Bool := p.cc.holdState == 1 || p.cc.holdState == 2

/-- R397: the teams of a partition. -/
def State.teamsOf (s : State) (pid : Nat) : List Nat :=
  (s.teams.zipIdx.filter fun x => x.1.part == pid && x.1.phase != .released).map fun x => x.2

/-- R308, R397: step 2: unstarted commands end CANCELLED. -/
def State.cancelQueued (s : State) (pid : Nat) : State :=
  s.cmds.zipIdx.foldl (fun s x =>
    if x.1.part == pid && x.1.phase == .queued then
      (s.updCmd x.2 fun c => { c with phase := .decrement, status := statusCancelled, addr := c.record }).due (.knotDecrement x.2)
    else s) s

/-- R397: steps 1 and 2 of a reset: nothing starts, and every group is killed without a save. -/
def State.beginReset (s : State) (p : Part) (reason : BitVec 16) : State :=
  let s1 := (s.countStep p.id 5).updPart p.id fun q =>
    { q with ctxState := 5, cc := { q.cc with holdState := 0, holdCause := 0, resumeDue := false },
             sched := { q.sched with autoWait := [] } }
  let end_ := fun g : Grid => if g.part == p.id then { g with queued := false, done := true } else g
  let s2 := { s1 with grids := s1.grids.map end_ }
  let s3 := ((s2.teamsOf p.id).foldl State.killTeam s2).cancelQueued p.id
  ({ s3 with mgmt := { s3.mgmt with resetDue := s3.mgmt.resetDue ++ [(p.id, reason)] } }.startNext).due (.resetComplete p.id)

/-- R397, R438: MGMT_RESET, by the operator. -/
def execMgmtReset (s : State) : Host.Outcome State Fault Refusal :=
  .next (
    let v := s.inbox.value.toNat
    if s.inbox.auth != .operator then s
    else
      match s.part? (v % 128) with
      | none => s
      | some p =>
        if p.ctxState == 5 then s
        else if p.holdBusy then { s with mgmt := { s.mgmt with partStatus := 2 } }
        else s.beginReset p (BitVec.ofNat 16 (v / 65536)))

/-- R397: a reset's scrub may complete: no team, command or fault of the partition is left. -/
def State.resetReady (s : State) (pid : Nat) : Bool :=
  (s.teamsOf pid).isEmpty && !(s.cmds.any fun c => c.part == pid && c.phase != .done) &&
    s.mgmt.resetDue.any fun x => x.1 == pid

/-- R432: the lines of a partition in its protectable ways. -/
def protectedLine (p : Part) (l : L2Line) : Bool := p.cfg.protect && l.part == p.id && l.way < 12

/-- R397: a key slot scrubbed; it stays with its partition. -/
def KeySlot.erase (k : KeySlot) : KeySlot := { KeySlot.reset with part := k.part }

/-- R397, R430: what a partition's memory slots sealed is lost with them. -/
def State.loseKeys (s : State) (pid : Nat) : State :=
  (s.keys.filter fun k => k.part == some pid && k.kind == 2).foldl (fun s k => s.loseKey k.material) s

/-- R397, R436: lines of L2 are scrubbed: what they alone held is lost, and their granules are what the system homes hold. -/
def State.scrubL2 (s : State) (here : L2Line → Bool) : State :=
  let gone := (s.homes.l2.filter here).flatMap L2Line.dirtyGrans
  { s with
    mem := gone.foldl (fun m g => m.writeN (16 * g) ((List.range 16).map fun i => s.homes.plainAt (16 * g + i))) s.mem
    hist := s.hist.filter fun c => !gone.contains c.gran
    homes := { s.homes with l2 := s.homes.l2.filter fun l => !here l } }

/-- R397: registers and latches scrubbed to zero. -/
def Regs.scrub (r : Regs) : Regs :=
  { r with v := Vector.replicate 128 (Vector.replicate 32 0), s := Vector.replicate 48 0, g := Vector.replicate 8 0,
           b := Vector.replicate 4 (Vector.replicate 32 0), bOk := Vector.replicate 4 false }

/-- R397: the register files, knots and barriers of some teams scrubbed to zero. -/
def State.scrubTeams (s : State) (pid : Nat) : State :=
  { s with
    groups := s.groups.map fun g => if (s.teamOf g).any fun t => t.part == pid then { g with regs := g.regs.scrub } else g
    teams := s.teams.map fun t =>
      if t.part == pid then
        { t with knots := t.knots.map fun _ => Knot.first,
                 barriers := t.barriers.map fun _ => { expected := 0, arrived := 0, gen := 0, released := [] } }
      else t }

/-- R397: step 3: the stores of a partition that hold owner plaintext. -/
def State.scrub (s : State) (p : Part) : State :=
  let keep := s.halls.map Hall.closed
  let s1 := (((s.loseKeys p.id).scrubL2 (protectedLine p)).scrubTeams p.id).scrubHalls p.halls
  { s1 with
    halls := s1.halls.zipIdx.map fun h => { h.1 with closed := keep.getD h.2 false }
    keys := s1.keys.map fun k => if k.part == some p.id then k.erase else k }

/-- A fault queue without pending entries. -/
def FaultQueue.drop (q : FaultQueue) : FaultQueue := { q with waiting := [], pending := [] }

/-- R397: what a reset discards of a partition, and what it keeps. -/
def Part.discard (p : Part) : Part :=
  { p with
    ctxState := 0, objects := []
    xlat := { p.xlat with keeps := [], l2step := 0, walks := [], verdicts := [], fq1 := p.xlat.fq1.drop, fq2 := p.xlat.fq2.drop }
    sched := { p.sched with foyerState := 0, foyerTeam := none, autoWait := [] }
    cc := { p.cc with stream := none }
    energy := { p.energy with reserved := 0 } }

/-- R398: the body of a reset record (log 20 gives the places of its fields). -/
def resetBody (pid : Nat) (serial : DWord) (reason : BitVec 16) (cycle : DWord) (nonce : List Byte) : List Byte :=
  natLe 4 0x54535259 ++ natLe 1 pid ++ natLe 1 0xFF ++ natLe 2 reason.toNat ++ natLe 8 serial.toNat ++ natLe 8 cycle.toNat ++
    natLe 8 0 ++ (nonce ++ List.replicate 32 0).take 32

/-- R398: a reset record: its body and the signature under the device identity key. -/
def resetRecord (body : List Byte) : List Byte := body ++ (Config.deviceSign body ++ List.replicate 512 0).take 512

/-- R398: cycles have passed, however many. -/
def State.tick (s : State) : State := State.spend { s with cycle := s.cycle + BitVec.ofNat 64 (Config.freePick s.free 6) }

/-- R398: a record is kept, and copied for the operator. -/
def State.putRecord (s0 : State) (p : Part) (reason : BitVec 16) : State :=
  let s := s0.tick
  let serial := p.own.resetSerial
  let rec_ := resetRecord (resetBody p.id serial reason s.cycle p.own.nonce)
  let s1 := s.updPart p.id fun q =>
    { q with own := { q.own with resetSerial := serial + 1, resetRecords := (rec_ :: q.own.resetRecords).take 16 } }
  let base := s.mgmt.resetRecBase.toNat
  if base == 0 then s1 else s1.outsideWrite (base + 2304 * p.id + 576 * (serial.toNat % 4)) rec_

/-- R397: RESET_COMPLETE. -/
def execResetComplete (pid : Nat) (s : State) : Host.Outcome State Fault Refusal :=
  .next (match s.part? pid, s.mgmt.resetDue.find? fun x => x.1 == pid with
    | some p, some x =>
      if s.resetReady pid then
        let s1 := ((s.scrub p).updPart pid Part.discard).putRecord p x.2
        { s1 with mgmt := { s1.mgmt with resetDone := s1.mgmt.resetDone + 1, resetDue := s1.mgmt.resetDue.erase x } }
      else s
    | _, _ => s)

end Sys2Proof.Machine
end

