-- ==== Sys2Proof/Machine/Parts.lean ====
section
/-! DEFINITION. Partitions (R407 to R410), key-slot assignment (R428), flushes and dirty tracking (R416 to R421). -/

namespace Sys2Proof.Machine

/-! ### Creation and destruction -/

/-- R265: a fault queue at its reset values. -/
def FaultQueue.fresh : FaultQueue := { base := 0, size := 16, head := 0, tail := 0, serial := 0, waiting := [], pending := [] }

/-- R264: translation state at creation. -/
def PartXlat.fresh : PartXlat :=
  { s1root := 0, s2root := 0, invDone1 := 0, invDone2 := 0, inval1Due := 0, inval2Due := 0, quota := 1, fq1 := FaultQueue.fresh,
    fq2 := FaultQueue.fresh, tlb := [], walks := [], verdicts := [], keepBase := 0, keepCount := 0, keeps := [], l2step := 0 }

/-- R366: scheduler state at creation. -/
def PartSched.fresh : PartSched :=
  { foyerState := 0, foyerTeam := none, deadline := 20000, prioGap := 0, lldThresh := 128, launches := 0, saves := 0, forced := 0,
    preempt := none, autoWait := [] }

/-- R396: parks and records at creation. -/
def PartOwn.fresh : PartOwn := { parkCount := 0, parkFrame := 0, parkSerial := 0, resetSerial := 0, resetRecords := [], nonce := [] }

/-- R407: configuration at creation. -/
def PartCfg.fresh (tag : Authority) (protect : Bool) : PartCfg :=
  { tag := tag, protect := protect, codeBase := 0, codeSize := 0, wayMask := 0, slice0 := 0, slice1 := 0, slice2 := 0, bwFloor := 0,
    bwWeight := 1, hoistMask := 0, braidMask := 0, cmprMask := 0 }

/-- R416: migration state at creation. -/
def PartMig.fresh : PartMig :=
  { cntBase := 0, cntFirst := 0, cntPages := 0, thresh := 0xFFFF, nqBase := 0, nqSize := 16, nqHead := 0, nqTail := 0, nqLost := 0,
    trkFirst := 0, trkPages := 0, bmBase := 0, track := false, flushFirst := 0, flushPages := 0, flushDone := 0, flushing := 0 }

/-- R428: confidential-computing state at creation. -/
def PartCc.fresh : PartCc :=
  { hbPeriod := 10, holdTime := 60000, holdState := 0, holdCause := 0, holdCount := 0, keySel := 0, identity := none, session := none,
    resumeDue := false, stream := none, before := 0 }

/-- R444: energy state at creation. -/
def PartEnergy.fresh : PartEnergy :=
  { floor := 0, weight := 1, vfMin := 0, vfPoint := 7, allow := 0, spent := 0, reserved := 0, owed := 0, last := 0, waited := false }

/-- R450: replay state at creation. -/
def PartReplay.fresh : PartReplay :=
  { ctl := 0, logBase := 0, logSize := 0, logHead := 0, logTail := 0, rangeBase := 0, rangeCount := 0, status := 0, divSeq := 0, seq := 0,
    orders := [], launched := 0 }

/-- R403: counters at creation. -/
def Counters.fresh : Counters :=
  { retired := 0, issued := 0, admitted := 0, released := 0, consumed := 0, granted := 0, steps := Vector.replicate 7 0, refusedReads := 0,
    rightsTraps := 0, saves := 0, forcedSaves := 0 }

/-- R408: a partition at creation: no halls, context state 0, registers at their reset values; object ids count from 1 (R127). -/
def Part.fresh (id : Nat) (tag : Authority) (protect : Bool) : Part :=
  { id := id, ctxState := 0, halls := [], xlat := PartXlat.fresh, sched := PartSched.fresh, own := PartOwn.fresh,
    cfg := PartCfg.fresh tag protect, mig := PartMig.fresh, cc := PartCc.fresh, energy := PartEnergy.fresh, replay := PartReplay.fresh,
    ropeBase := 0, ropeCount := 0, objects := [], nextObj := 1, counters := Counters.fresh }

/-- R407: the tag of a code; 3 is invalid. -/
def tagOf (n : Nat) : Option Authority :=
  match n with
  | 0 => some .owner
  | 1 => some .operator
  | 2 => some .auditor
  | _ => none

/-- R407, R409: the result of a write, in PART_STATUS. -/
def State.partStatus (s : State) (st : BitVec 3) : State := { s with mgmt := { s.mgmt with partStatus := st } }

/-- R407: reserved bits of PART_CREATE are zero. -/
def createBits (v : Nat) : Bool := v / 4 % 64 == 0 && v / 512 % 2 ^ 22 == 0

/-- R391, R408: a partition of a tag may be created. -/
def State.mayCreate (s : State) (id : Nat) (tag : Authority) (protect : Bool) : Bool :=
  id < 96 && (s.part? id).isNone && (tag == .owner || !(s.parts.any fun p => p.cfg.tag == tag)) && (!protect || tag == .owner)

/-- R408, R409: PART_CREATE of the selected partition. -/
def execPartCreate (s : State) : Host.Outcome State Fault Refusal :=
  .next (
    let v := s.inbox.value.toNat
    let id := s.mgmt.ctxSel.toNat
    if s.inbox.auth != .operator then s
    else if !createBits v then s.partStatus 1
    else
      match tagOf (v % 4) with
      | none => s.partStatus 3
      | some tag =>
        if s.mayCreate id tag (v.testBit 8) then { s with parts := s.parts ++ [Part.fresh id tag (v.testBit 8)] }.partStatus 0
        else s.partStatus 3)

/-- R308, R321: a command ends with its context: CANCELLED when it has not started. -/
def Cmd.end_ (c : Cmd) : Cmd :=
  if c.phase == .queued || c.phase == .kept then { c with phase := .done, status := statusCancelled, addr := c.record } else { c with phase := .done }

/-- R408: what is left of a partition's teams, grids and commands goes with it. -/
def State.forget (s : State) (p : Part) : State :=
  let mine := s.teamsOf p.id
  let groups := s.groups.map fun g => if mine.contains g.team then { g with phase := .exited, log := [], watch := [], stores := [], priv := [] } else g
  let teams := s.teams.map fun t => if t.part == p.id then { t with phase := .released, spad := [], tiles := [] } else t
  let grids := s.grids.map fun g => if g.part == p.id then { g with queued := false, done := true } else g
  let cmds := s.cmds.map fun c => if c.part == p.id then c.end_ else c
  { s with teams := teams, groups := groups, grids := grids, cmds := cmds }

/-- R419, R421: lines are written back from L2, with their tracking bits, and dropped there. -/
def State.dropL2 (s : State) (here : Nat → Bool) : State :=
  let grans := (s.homes.l2.filter fun l => here l.line).flatMap L2Line.dirtyGrans
  { s with homes := s.homes.flushL2 s.mem s.dice here }.trackAll grans

/-- R408: a partition is destroyed: its stores are scrubbed, what else it left in L2 is written back, and its resources are free. -/
def State.destroy (s : State) (p : Part) : State :=
  let s1 := ((s.scrub p).forget p).mapHalls p.halls fun h => { h with closed := false }
  let s2 := s1.dropL2 fun n => s1.homes.l2.any fun l => l.line == n && l.part == p.id
  { s2 with
    parts := s2.parts.filter fun q => q.id != p.id
    keys := s2.keys.map fun k => if k.part == some p.id then KeySlot.reset else k
    leasesHeld := s2.leasesHeld.filter fun l => l.part != p.id
    leasesGranted := s2.leasesGranted.filter fun l => l.part != p.id }

/-- R408, R409, R438: PART_CREATE with bit 31 clear: the selected partition is destroyed. -/
def execPartDestroy (s : State) : Host.Outcome State Fault Refusal :=
  .next (
    let v := s.inbox.value.toNat
    if s.inbox.auth != .operator then s
    else if !createBits v then s.partStatus 1
    else
      match s.part? s.mgmt.ctxSel.toNat with
      | none => s.partStatus 3
      | some p =>
        if p.holdBusy then s.partStatus 2
        else if (p.ctxState == 0 || p.ctxState == 4) && !s.partRuns p.id then (s.destroy p).partStatus 0
        else s.partStatus 3)

/-! ### Key slots -/

/-- R428: the slot and partition of a CC_SLOTASSIGN write. -/
def slotFields (v : Nat) : Nat × Nat := (v % 128, v / 256 % 128)

/-- R428: CC_SLOTASSIGN with bit 15 set. -/
def execCcSlotassign (s : State) : Host.Outcome State Fault Refusal :=
  .next (
    let x := slotFields s.inbox.value.toNat
    if s.inbox.auth != .operator then s
    else
      match s.keys[x.1]? with
      | none => s
      | some k =>
        if (s.part? x.2).isNone || (k.part.any fun q => q != x.2) then s.partStatus 3
        else { s with keys := listModify s.keys x.1 fun k => { k with part := some x.2 } }.partStatus 0)

/-- R397: the partition is being reset: nothing of it goes to another one yet. -/
def State.resetting (s : State) (pid : Nat) : Bool := (s.part? pid).any fun p => p.ctxState == 5

/-- R397, R428: CC_SLOTASSIGN with bit 15 clear. -/
def execCcSlotfree (s : State) : Host.Outcome State Fault Refusal :=
  .next (
    let x := slotFields s.inbox.value.toNat
    if s.inbox.auth != .operator then s
    else
      match s.keys[x.1]? with
      | none => s
      | some k =>
        if (k.part.any fun q => q != x.2 || s.resetting q) || k.state != 0 then s.partStatus 3
        else { s with keys := listModify s.keys x.1 fun _ => KeySlot.reset }.partStatus 0)

/-! ### Flush and tracking -/

/-- R416: some of `n` bytes from a key lie in a partition's flush range; a range of no pages is every page that its stage-2 tables map, of
any class. -/
def State.flushes (s : State) (p : Part) (key n : Nat) : Bool :=
  if p.mig.flushPages == 0 then p.maps s.mem key n
  else keyClass key ≤ 1 && meets (keyAddr key) n p.mig.flushFirst.toNat (4096 * p.mig.flushPages.toNat)

/-- R419: MIG_FLUSHGO of the selected partition, by the operator. -/
def execMigFlushgo (s : State) : Host.Outcome State Fault Refusal :=
  .next (
    let id := s.mgmt.ctxSel.toNat
    if s.inbox.auth != .operator then s
    else if (s.part? id).isNone then s.partStatus 3
    else ((s.updPart id fun p => { p with mig := { p.mig with flushing := p.mig.flushing + 1 } }).due (.migFlushComplete id)).partStatus 0)

/-- R419, R424: a command that may still write: one whose writes are under way, and, of a context that has been switched out, any that has
started. -/
def Cmd.writes (switchedOut : Bool) (c : Cmd) : Bool :=
  match c.phase with
  | .writing => true
  | .running => switchedOut
  | .waitFault _ _ _ => switchedOut
  | _ => false

/-- R419: step 1: the partition's writes to the range are performed. -/
def State.flushReady (s : State) (p : Part) : Bool :=
  p.mig.flushing != 0 && !(s.cmds.any fun c => c.part == p.id && c.writes (p.ctxState == 2)) &&
    !((s.contextGroups p.id).any fun gi => (s.groups[gi]?).any fun g => g.stores.any fun o => o.unperformed && s.flushes p o.key 1)

/-- R419: steps 2 to 4; another flush that has been started follows. -/
def State.flush (s : State) (p : Part) : State :=
  let here := fun n => s.flushes p (128 * n) 128
  let s1 := s.dropL2 here
  let s2 := { s1 with homes := s1.homes.flushMsc here }.updPart p.id fun q =>
    { q with mig := { q.mig with flushing := q.mig.flushing - 1, flushDone := q.mig.flushDone + 1 } }
  if 1 < p.mig.flushing then s2.due (.migFlushComplete p.id) else s2

/-- R419: MIG_FLUSH_COMPLETE. -/
def execMigFlushComplete (pid : Nat) (s : State) : Host.Outcome State Fault Refusal :=
  .next (match s.part? pid with
    | some p => if s.flushReady p then s.flush p else s
    | none => s)

/-- R421: MIG_TRACK of the selected partition, by the operator. -/
def State.setTrack (s : State) (on : Bool) : State :=
  let id := s.mgmt.ctxSel.toNat
  if s.inbox.auth != .operator then s
  else if (s.part? id).isNone then s.partStatus 3
  else (s.updPart id fun p => { p with mig := { p.mig with track := on } }).partStatus 0

/-- R421: MIG_TRACK_ON. -/
def execMigTrackOn (s : State) : Host.Outcome State Fault Refusal := .next (s.setTrack true)

/-- R421: MIG_TRACK_OFF. -/
def execMigTrackOff (s : State) : Host.Outcome State Fault Refusal := .next (s.setTrack false)

end Sys2Proof.Machine
end

