-- ==== Sys2Proof/Machine/Regs.lean ====
section
/-! DEFINITION. The register windows (R9, R10): rights (R264, R366, R393, R394, R396, R407, R416, R428, R444, R447, R450,
R453), reads, plain writes, and the checked writes of R409 and R416. -/

namespace Sys2Proof.Machine

/-! ### Rights -/

/-- R9: the codes of a register's cell: refused, read, write, read and write, count. -/
inductive Cell
  | no | rd | wr | rw | ct
deriving DecidableEq, Repr

/-- R9: a read is allowed. -/
def Cell.reads (c : Cell) : Bool := c == .rd || c == .rw || c == .ct

/-- R9: a write is allowed. -/
def Cell.writes (c : Cell) : Bool := c == .wr || c == .rw

/-- R9: the three cells of a register: OPERATOR, OWNER, AUDITOR. -/
structure Rights where
  operator : Cell
  owner : Cell
  auditor : Cell
deriving DecidableEq, Repr

/-- R264, R366, R393, R396, R398, R407, R416, R428, R444, R447, R450, R453: the rights of each register. -/
def WinReg.rights : WinReg → Rights
  | .mgmtCtxsel => ⟨.rw, .no, .rd⟩ | .mgmtCtxstate => ⟨.rd, .no, .rd⟩ | .mgmtInspid => ⟨.wr, .no, .no⟩
  | .mgmtInspdata => ⟨.rd, .no, .no⟩ | .mgmtInspstatus => ⟨.rd, .no, .rd⟩ | .mgmtParkqbase => ⟨.rw, .no, .no⟩
  | .mgmtParkqsize => ⟨.rw, .no, .no⟩ | .mgmtParkqhead => ⟨.rd, .no, .no⟩ | .mgmtParkqtail => ⟨.rw, .no, .no⟩
  | .mgmtReset => ⟨.wr, .no, .no⟩ | .mgmtResetdone => ⟨.rd, .no, .ct⟩ | .mgmtHallsel => ⟨.rw, .no, .rd⟩
  | .mgmtHallmap => ⟨.rd, .no, .rd⟩ | .mgmtResetrecbase => ⟨.rw, .no, .no⟩
  | .xlatS1root => ⟨.no, .rw, .no⟩ | .xlatS2root => ⟨.rw, .no, .no⟩ | .xlatInval1 => ⟨.no, .wr, .no⟩ | .xlatInval2 => ⟨.wr, .no, .no⟩
  | .xlatInvdone1 => ⟨.no, .rd, .ct⟩ | .xlatInvdone2 => ⟨.rd, .no, .ct⟩ | .xlatWalkquota => ⟨.rw, .rd, .rd⟩
  | .xlatFq1base => ⟨.no, .rw, .no⟩ | .xlatFq1size => ⟨.no, .rw, .no⟩ | .xlatFq1head => ⟨.no, .rd, .no⟩
  | .xlatFq1tail => ⟨.no, .rw, .no⟩ | .xlatFq1resolve => ⟨.no, .wr, .no⟩
  | .xlatFq2base => ⟨.rw, .no, .no⟩ | .xlatFq2size => ⟨.rw, .no, .no⟩ | .xlatFq2head => ⟨.rd, .no, .no⟩
  | .xlatFq2tail => ⟨.rw, .no, .no⟩ | .xlatFq2resolve => ⟨.wr, .no, .no⟩
  | .l2schedBase => ⟨.no, .rw, .no⟩ | .l2schedCount => ⟨.no, .rw, .no⟩ | .l2schedLoad => ⟨.no, .wr, .no⟩ | .l2step => ⟨.no, .rd, .ct⟩
  | .schedFoyerrec => ⟨.no, .wr, .no⟩ | .schedFoyerstate => ⟨.rd, .rd, .rd⟩ | .schedDeadline => ⟨.rw, .rd, .rd⟩
  | .schedPriogap => ⟨.rd, .rw, .rd⟩ | .schedLldthresh => ⟨.no, .rw, .rd⟩ | .schedLaunches => ⟨.rd, .rd, .ct⟩
  | .schedSaves => ⟨.rd, .rd, .ct⟩ | .schedForced => ⟨.rd, .rd, .ct⟩
  | .ownParkcount => ⟨.no, .rd, .ct⟩ | .ownParkframe => ⟨.no, .rd, .no⟩ | .ownParkact => ⟨.no, .wr, .no⟩
  | .ownResetrec => ⟨.no, .rd, .rd⟩
  | .partCreate => ⟨.wr, .no, .no⟩ | .partCfg => ⟨.rd, .no, .rd⟩ | .partStatus => ⟨.rd, .no, .rd⟩ | .partCodebase => ⟨.rw, .no, .no⟩
  | .partCodesize => ⟨.rw, .no, .rd⟩ | .partWaymask => ⟨.rw, .no, .rd⟩ | .partSlicemask0 => ⟨.rw, .no, .rd⟩
  | .partSlicemask1 => ⟨.rw, .no, .rd⟩ | .partSlicemask2 => ⟨.rw, .no, .rd⟩ | .partBwfloor => ⟨.rw, .no, .rd⟩
  | .partBwweight => ⟨.rw, .no, .rd⟩ | .partHoistmask => ⟨.rw, .no, .rd⟩ | .partBraidmask => ⟨.rw, .no, .rd⟩
  | .partCmprmask => ⟨.rw, .no, .rd⟩
  | .migCntbase => ⟨.rw, .no, .no⟩ | .migCntfirst => ⟨.rw, .no, .no⟩ | .migCntpages => ⟨.rw, .no, .rd⟩ | .migThresh => ⟨.rw, .no, .rd⟩
  | .migNqbase => ⟨.rw, .no, .no⟩ | .migNqsize => ⟨.rw, .no, .no⟩ | .migNqhead => ⟨.rd, .no, .no⟩ | .migNqtail => ⟨.rw, .no, .no⟩
  | .migNqlost => ⟨.rd, .no, .ct⟩ | .migTrkfirst => ⟨.rw, .no, .no⟩ | .migTrkpages => ⟨.rw, .no, .rd⟩ | .migBmbase => ⟨.rw, .no, .no⟩
  | .migTrack => ⟨.rw, .no, .rd⟩ | .migFlushfirst => ⟨.rw, .no, .no⟩ | .migFlushpages => ⟨.rw, .no, .no⟩ | .migFlushgo => ⟨.wr, .no, .no⟩
  | .migFlushdone => ⟨.rd, .no, .ct⟩
  | .ccSlotassign => ⟨.wr, .no, .no⟩ | .ccKeysel => ⟨.rw, .no, .rd⟩ | .ccKeyinfo => ⟨.rd, .no, .rd⟩ | .ccKeyid => ⟨.rd, .no, .rd⟩
  | .ccHbperiod => ⟨.rw, .rd, .rd⟩ | .ccHoldtime => ⟨.rw, .rd, .rd⟩ | .ccHoldstate => ⟨.rd, .rd, .rd⟩ | .ccHoldcause => ⟨.rd, .rd, .rd⟩
  | .ccHoldcount => ⟨.rd, .rd, .ct⟩ | .ownKeysel => ⟨.no, .rw, .no⟩ | .ownKeyinfo => ⟨.no, .rd, .no⟩ | .ownKeyid => ⟨.no, .rd, .no⟩
  | .pwrCap => ⟨.rw, .no, .rd⟩ | .pwrBalance => ⟨.rd, .no, .ct⟩ | .pwrUnattr => ⟨.rd, .no, .ct⟩ | .partEnfloor => ⟨.rw, .rd, .rd⟩
  | .partEnweight => ⟨.rw, .rd, .rd⟩ | .partVfmin => ⟨.rw, .rd, .rd⟩ | .partVfpoint => ⟨.rd, .rd, .rd⟩ | .partAllow => ⟨.rd, .rd, .ct⟩
  | .ageSel => ⟨.rw, .no, .rd⟩ | .ageMargin => ⟨.rd, .no, .rd⟩ | .ageDrift => ⟨.rw, .no, .rd⟩ | .agePlans => ⟨.rd, .no, .ct⟩
  | .ageSpares => ⟨.rd, .no, .rd⟩ | .ageRetired => ⟨.rd, .no, .ct⟩ | .ageFailed => ⟨.rd, .no, .ct⟩
  | .replayCtl => ⟨.no, .rw, .rd⟩ | .replayLogbase => ⟨.no, .rw, .no⟩ | .replayLogsize => ⟨.no, .rw, .no⟩ | .replayLoghead => ⟨.no, .rd, .ct⟩
  | .replayLogtail => ⟨.no, .rw, .no⟩ | .replayRangebase => ⟨.no, .rw, .no⟩ | .replayRangecount => ⟨.no, .rw, .rd⟩
  | .replayStatus => ⟨.no, .rd, .rd⟩ | .replayDivseq => ⟨.no, .rd, .no⟩
  | .ropePwbase => ⟨.rw, .no, .rd⟩ | .ropePwcount => ⟨.rw, .no, .rd⟩

/-- R391, R406: the cell of an authority. -/
def WinReg.cell (r : WinReg) (a : Authority) : Cell :=
  match a with
  | .operator => (WinReg.rights r).operator
  | .owner => (WinReg.rights r).owner
  | .auditor => (WinReg.rights r).auditor

/-- R264, R366, R396, R428, R450: the register stands in the register page of a virtual function. -/
def WinReg.inPage : WinReg → Bool
  | .xlatS1root | .xlatS2root | .xlatInval1 | .xlatInval2 | .xlatInvdone1 | .xlatInvdone2 | .xlatWalkquota => true
  | .xlatFq1base | .xlatFq1size | .xlatFq1head | .xlatFq1tail | .xlatFq1resolve => true
  | .xlatFq2base | .xlatFq2size | .xlatFq2head | .xlatFq2tail | .xlatFq2resolve => true
  | .l2schedBase | .l2schedCount | .l2schedLoad | .l2step => true
  | .schedFoyerrec | .schedFoyerstate | .schedDeadline | .schedPriogap | .schedLldthresh | .schedLaunches | .schedSaves | .schedForced => true
  | .ownParkcount | .ownParkframe | .ownParkact | .ownResetrec | .ownKeysel | .ownKeyinfo | .ownKeyid => true
  | .replayCtl | .replayLogbase | .replayLogsize | .replayLoghead | .replayLogtail | .replayRangebase | .replayRangecount => true
  | .replayStatus | .replayDivseq => true
  | _ => false

/-- R393, R407: the partition that an access names: that of its page or session, or the one that MGMT_CTXSEL selects. -/
def State.regPart (s : State) (r : WinReg) : Nat :=
  if WinReg.inPage r || s.inbox.auth == .owner then s.inbox.part.getD 128 else s.mgmt.ctxSel.toNat

/-- R426: the access reaches its registers: the page of a protected partition takes its owner's accesses on its live
stream only. -/
def State.regOpen (s : State) (r : WinReg) : Bool :=
  !WinReg.inPage r || s.inbox.auth == .operator || ((s.part? (s.regPart r)).any fun q => q.vfOpen s.inbox.onStream)

/-! ### Reads -/

/-- R428: kind, state and partition of a slot. -/
def KeySlot.info (k : KeySlot) : Nat := k.kind.toNat + 8 * k.state.toNat + 256 * (k.part.getD 0x7F)

/-- R428: the slot that OWN_KEYSEL names, when it is the partition's. -/
def State.ownKey (s : State) (p : Part) : Option KeySlot :=
  (s.keys[p.cc.keySel.toNat]?).bind fun k => if k.part == some p.id then some k else none

/-- R393: MGMT_HALLMAP of a hall. -/
def State.hallMap (s : State) (n : Nat) (h : Hall) : Nat :=
  h.phys + 65536 * (match s.hallOwner n with
    | some p => p
    | none => if h.failed then 0x7E else 0x7F)

/-- R407: the code of a tag in PART_CREATE and PART_CFG. -/
def tagCode : Authority → Nat
  | .owner => 0 | .operator => 1 | .auditor => 2

/-- What a read of a partition's register returns. -/
def State.readPart (s : State) (p : Part) (r : WinReg) : Nat :=
  match r with
  | .mgmtCtxstate => p.ctxState.toNat
  | .xlatS1root => p.xlat.s1root.toNat | .xlatS2root => p.xlat.s2root.toNat | .xlatInvdone1 => p.xlat.invDone1.toNat
  | .xlatInvdone2 => p.xlat.invDone2.toNat | .xlatWalkquota => p.xlat.quota.toNat
  | .xlatFq1base => p.xlat.fq1.base.toNat | .xlatFq1size => p.xlat.fq1.size.toNat | .xlatFq1head => p.xlat.fq1.head.toNat
  | .xlatFq1tail => p.xlat.fq1.tail.toNat
  | .xlatFq2base => p.xlat.fq2.base.toNat | .xlatFq2size => p.xlat.fq2.size.toNat | .xlatFq2head => p.xlat.fq2.head.toNat
  | .xlatFq2tail => p.xlat.fq2.tail.toNat
  | .l2schedBase => p.xlat.keepBase.toNat | .l2schedCount => p.xlat.keepCount.toNat | .l2step => p.xlat.l2step.toNat
  | .schedFoyerstate => p.sched.foyerState.toNat | .schedDeadline => p.sched.deadline.toNat | .schedPriogap => p.sched.prioGap.toNat
  | .schedLldthresh => p.sched.lldThresh.toNat | .schedLaunches => p.sched.launches.toNat | .schedSaves => p.sched.saves.toNat
  | .schedForced => p.sched.forced.toNat
  | .ownParkcount => p.own.parkCount.toNat | .ownParkframe => p.own.parkFrame.toNat
  | .partCfg => 2 ^ 31 + tagCode p.cfg.tag + (if p.cfg.protect then 256 else 0)
  | .partCodebase => p.cfg.codeBase.toNat | .partCodesize => p.cfg.codeSize.toNat | .partWaymask => p.cfg.wayMask.toNat
  | .partSlicemask0 => p.cfg.slice0.toNat | .partSlicemask1 => p.cfg.slice1.toNat | .partSlicemask2 => p.cfg.slice2.toNat
  | .partBwfloor => p.cfg.bwFloor.toNat | .partBwweight => p.cfg.bwWeight.toNat | .partHoistmask => p.cfg.hoistMask.toNat
  | .partBraidmask => p.cfg.braidMask.toNat | .partCmprmask => p.cfg.cmprMask.toNat
  | .migCntbase => p.mig.cntBase.toNat | .migCntfirst => p.mig.cntFirst.toNat | .migCntpages => p.mig.cntPages.toNat
  | .migThresh => p.mig.thresh.toNat | .migNqbase => p.mig.nqBase.toNat | .migNqsize => p.mig.nqSize.toNat
  | .migNqhead => p.mig.nqHead.toNat | .migNqtail => p.mig.nqTail.toNat | .migNqlost => p.mig.nqLost.toNat
  | .migTrkfirst => p.mig.trkFirst.toNat | .migTrkpages => p.mig.trkPages.toNat | .migBmbase => p.mig.bmBase.toNat
  | .migTrack => if p.mig.track then 1 else 0
  | .migFlushfirst => p.mig.flushFirst.toNat | .migFlushpages => p.mig.flushPages.toNat | .migFlushdone => p.mig.flushDone.toNat
  | .ccHbperiod => p.cc.hbPeriod.toNat | .ccHoldtime => p.cc.holdTime.toNat | .ccHoldstate => p.cc.holdState.toNat
  | .ccHoldcause => p.cc.holdCause.toNat | .ccHoldcount => p.cc.holdCount.toNat
  | .ownKeysel => p.cc.keySel.toNat | .ownKeyinfo => ((s.ownKey p).map KeySlot.info).getD 0
  | .ownKeyid => ((s.ownKey p).map fun k => k.keyId.toNat).getD 0
  | .partEnfloor => p.energy.floor.toNat | .partEnweight => p.energy.weight.toNat | .partVfmin => p.energy.vfMin.toNat
  | .partVfpoint => p.energy.vfPoint.toNat | .partAllow => p.energy.allow.toNat
  | .replayCtl => p.replay.ctl.toNat | .replayLogbase => p.replay.logBase.toNat | .replayLogsize => p.replay.logSize.toNat
  | .replayLoghead => p.replay.logHead.toNat | .replayLogtail => p.replay.logTail.toNat | .replayRangebase => p.replay.rangeBase.toNat
  | .replayRangecount => p.replay.rangeCount.toNat | .replayStatus => p.replay.status.toNat | .replayDivseq => p.replay.divSeq.toNat
  | .ropePwbase => p.ropeBase.toNat | .ropePwcount => p.ropeCount.toNat
  | _ => 0

/-- What a read of a register about a hall returns; for a number that no hall has the spec states no value. -/
def State.readHall (s : State) (n : Nat) (f : Hall → Nat) : Nat :=
  match s.halls[n]? with
  | some h => f h
  | none => Config.freePick s.free n

/-- What a read of a register returns, when its reader may read it. -/
def State.readReg (s : State) (pid : Nat) (r : WinReg) : Nat :=
  let hallSel := s.mgmt.hallSel.toNat
  let ageSel := s.power.ageSel.toNat
  match r with
  | .mgmtCtxsel => s.mgmt.ctxSel.toNat | .mgmtInspdata => s.mgmt.inspData.toNat | .mgmtInspstatus => s.mgmt.inspStatus.toNat
  | .mgmtParkqbase => s.mgmt.parkQBase.toNat | .mgmtParkqsize => s.mgmt.parkQSize.toNat | .mgmtParkqhead => s.mgmt.parkQHead.toNat
  | .mgmtParkqtail => s.mgmt.parkQTail.toNat | .mgmtResetdone => s.mgmt.resetDone.toNat | .mgmtHallsel => hallSel
  | .mgmtHallmap => s.readHall hallSel (s.hallMap hallSel) | .mgmtResetrecbase => s.mgmt.resetRecBase.toNat
  | .partStatus => s.mgmt.partStatus.toNat
  | .ccKeysel => s.mgmt.ccKeySel.toNat | .ccKeyinfo => ((s.keys[s.mgmt.ccKeySel.toNat]?).map KeySlot.info).getD 0
  | .ccKeyid => ((s.keys[s.mgmt.ccKeySel.toNat]?).map fun k => k.keyId.toNat).getD 0
  | .pwrCap => s.power.cap.toNat | .pwrBalance => (BitVec.ofInt 64 s.power.balance).toNat | .pwrUnattr => s.power.unattr.toNat
  | .ageSel => ageSel | .ageMargin => s.readHall ageSel fun h => h.margin.toNat | .ageDrift => s.power.drift.toNat
  | .agePlans => s.readHall ageSel fun h => h.plans.toNat
  | .ageSpares => s.readHall ageSel fun h => (s.power.spares.toList.getD (h.phys / 80) []).length
  | .ageRetired => s.power.retired.toNat | .ageFailed => s.power.failed.toNat
  | r => ((s.part? pid).map fun p => s.readPart p r).getD 0

/-- R394: a register that holds owner state. -/
def WinReg.ownerState (r : WinReg) : Bool :=
  let c := (WinReg.rights r).owner
  (c == .rd || c == .wr || c == .rw) && !(WinReg.rights r).operator.reads

/-- R398: the bytes a read answers with: 8, and the records for OWN_RESETREC, the latest first. -/
def State.readBytes (s : State) (pid : Nat) (r : WinReg) : List Byte :=
  match r with
  | .ownResetrec => ((s.part? pid).map fun p => p.own.resetRecords.flatten).getD []
  | r => natLe 8 (s.readReg pid r)

/-- R10, R394, R426: a read of a register through a window. -/
def State.readWindow (s : State) : State :=
  let r := s.inbox.reg
  let pid := s.regPart r
  if ((WinReg.cell r s.inbox.auth).reads) && s.regOpen r then { s.spend with reply := some { status := 0, data := s.readBytes pid r } }
  else
    let s1 := if s.inbox.auth == .operator && WinReg.ownerState r then s.countRefused pid else s
    { s1 with reply := some { status := 1, data := natLe 8 0 } }

/-! ### Plain writes -/

/-- R264, R393, R416: a queue size: a power of two from 16 to 4,096. -/
def sizeOk (v : Nat) : Bool := (List.range 9).any fun i => v == 2 ^ (i + 4)

/-- R264: a fault-queue register. -/
def FaultQueue.setSize (v : Nat) (q : FaultQueue) : FaultQueue := if sizeOk v then { q with size := BitVec.ofNat 16 v } else q

/-- A register of a partition that stores what is written: R264, R366, R428, R450, R453. -/
def Part.setReg (r : WinReg) (v : DWord) (p : Part) : Part :=
  match r with
  | .xlatFq1base => p.setFq false { p.xlat.fq1 with base := v } | .xlatFq2base => p.setFq true { p.xlat.fq2 with base := v }
  | .xlatFq1size => p.setFq false (p.xlat.fq1.setSize (v.toNat % 65536)) | .xlatFq2size => p.setFq true (p.xlat.fq2.setSize (v.toNat % 65536))
  | .xlatFq1tail => p.setFq false { p.xlat.fq1 with tail := loWord v } | .xlatFq2tail => p.setFq true { p.xlat.fq2 with tail := loWord v }
  | .l2schedBase => { p with xlat := { p.xlat with keepBase := v } }
  | .l2schedCount => { p with xlat := { p.xlat with keepCount := v.setWidth 13 } }
  | .schedDeadline => if deadlineOk (loWord v) then { p with sched := { p.sched with deadline := loWord v } } else p
  | .schedPriogap => { p with sched := { p.sched with prioGap := v.setWidth 3 } }
  | .schedLldthresh => { p with sched := { p.sched with lldThresh := v.setWidth 16 } }
  | .ownKeysel => { p with cc := { p.cc with keySel := v.setWidth 7 } }
  | .replayLogbase => { p with replay := { p.replay with logBase := v } }
  | .replayLogsize => { p with replay := { p.replay with logSize := loWord v } }
  | .replayLogtail => { p with replay := { p.replay with logTail := loWord v } }
  | .replayRangebase => { p with replay := { p.replay with rangeBase := v } }
  | .replayRangecount => { p with replay := { p.replay with rangeCount := v.setWidth 5 } }
  | .ropePwbase => { p with ropeBase := v }
  | .ropePwcount => { p with ropeCount := v.setWidth 13 }
  | _ => p

/-- A register of the package that stores what is written: R393, R444, R447. -/
def State.setReg (s : State) (r : WinReg) (v : DWord) : State :=
  match r with
  | .mgmtCtxsel => { s with mgmt := { s.mgmt with ctxSel := v.setWidth 7 } }
  | .mgmtParkqbase => { s with mgmt := { s.mgmt with parkQBase := v } }
  | .mgmtParkqsize => if sizeOk (v.toNat % 65536) then { s with mgmt := { s.mgmt with parkQSize := v.setWidth 16 } } else s
  | .mgmtParkqtail => { s with mgmt := { s.mgmt with parkQTail := loWord v } }.due .parkNotice
  | .mgmtHallsel => { s with mgmt := { s.mgmt with hallSel := v.setWidth 9 } }
  | .mgmtResetrecbase => { s with mgmt := { s.mgmt with resetRecBase := v } }
  | .pwrCap =>
    let n := v.toNat % 4096
    if 1200 ≤ n && n ≤ 2800 then { s with power := { s.power with cap := v.setWidth 12 } } else s
  | .ageSel => { s with power := { s.power with ageSel := v.setWidth 9 } }
  | .ageDrift => if v.toNat % 256 == 0 then s else { s with power := { s.power with drift := v.setWidth 8 } }
  | r => s.updPart (s.regPart r) (Part.setReg r v)

/-- The event that a write sets going, for a register whose write is an operation of its own, or one that waits for room. -/
def regEvent (r : WinReg) (pid : Nat) (v : DWord) : Option Instr :=
  match r with
  | .mgmtInspid => some .mgmtInspid
  | .mgmtReset => some .mgmtReset
  | .xlatS1root => some (.xlatS1root pid v) | .xlatS2root => some (.xlatS2root pid v)
  | .xlatInval1 => some (.xlatInval1 pid v) | .xlatInval2 => some (.xlatInval2 pid v)
  | .xlatFq1resolve => some (.xlatFq1Resolve pid v) | .xlatFq2resolve => some (.xlatFq2Resolve pid v)
  | .xlatFq1tail => some (.faultEntryWrite pid false) | .xlatFq2tail => some (.faultEntryWrite pid true)
  | .l2schedLoad => if v.getLsbD 0 then some (.l2schedLoad pid) else none
  | .schedFoyerrec => some (.schedFoyerrec pid v)
  | .ownParkact => some (if v.getLsbD 32 then .ownParkactResume pid (loWord v).toNat else .ownParkactKill pid (loWord v).toNat)
  | .partCreate => some (if v.getLsbD 31 then .partCreate else .partDestroy)
  | .ccSlotassign => some (if v.getLsbD 15 then .ccSlotassign else .ccSlotfree)
  | .migTrack => some (if v.getLsbD 0 then .migTrackOn else .migTrackOff)
  | .migFlushgo => if v.getLsbD 0 then some .migFlushgo else none
  | .replayCtl =>
    match v.toNat % 4 with
    | 0 => some .replayOff
    | 1 => some .replayRecord
    | 2 => some .replayRerun
    | _ => none
  | _ => none

/-- R409: a register whose write is checked, its result in PART_STATUS. -/
def WinReg.checked : WinReg → Bool
  | .xlatWalkquota | .partCodebase | .partCodesize | .partWaymask | .partSlicemask0 | .partSlicemask1 | .partSlicemask2 => true
  | .partBwfloor | .partBwweight | .partHoistmask | .partBraidmask | .partCmprmask => true
  | .migCntbase | .migCntfirst | .migCntpages | .migThresh | .migNqbase | .migNqsize | .migNqtail => true
  | .migTrkfirst | .migTrkpages | .migBmbase | .migFlushfirst | .migFlushpages => true
  | .ccKeysel | .ccHbperiod | .ccHoldtime | .partEnfloor | .partEnweight | .partVfmin => true
  | _ => false

/-- R264, R265: the write is a tail of a fault queue, which only makes room for entries that wait. -/
def WinReg.makesRoom (r : WinReg) : Bool := r == .xlatFq1tail || r == .xlatFq2tail

/-- R407, R416: a write of MIG_FLUSHGO that starts no flush has its result in PART_STATUS too. -/
def State.noFlush (s : State) (r : WinReg) (pid : Nat) : State :=
  if r == .migFlushgo then s.partStatus (if (s.part? pid).isSome then 0 else 3) else s

/-- R10, R264, R393: a write to a register through a window: it is stored, and the event it sets going is due: each such write has its
own event. -/
def State.writeWindow (s : State) : State :=
  let r := s.inbox.reg
  let v := s.inbox.value
  if !((WinReg.cell r s.inbox.auth).writes && s.regOpen r) then s
  else if WinReg.checked r then s.due .partRegisterWrite
  else
    let s1 := s.setReg r v
    let s2 := if r == .schedPriogap then s1.schedule (s.regPart r) else s1
    match regEvent r (s.regPart r) v with
    | some e => if WinReg.makesRoom r then s2.due e else s2.post e
    | none => s2.noFlush r (s.regPart r)

/-- R10, R394: REGISTER_WRITE: an access of a party outside, a read when the message's kind is 1. -/
def execRegisterWrite (s : State) : Host.Outcome State Fault Refusal := .next (if s.inbox.kind == 1 then s.readWindow else s.writeWindow)

/-! ### Checked writes -/

/-- R407: two code areas overlap; an empty one overlaps none. -/
def codeOverlap (b1 n1 b2 n2 : Nat) : Bool := n1 != 0 && n2 != 0 && b1 < b2 + 65536 * n2 && b2 < b1 + 65536 * n1

/-- R409: the result of a code area for a partition. -/
def State.codeStatus (s : State) (p : Part) (base size : Nat) : Nat :=
  if base % 65536 != 0 || 1024 < size || 768 * 2 ^ 30 < base + 65536 * size then 1
  else if p.ctxState != 0 then 2
  else if s.parts.any fun q => q.id != p.id && codeOverlap base size q.cfg.codeBase.toNat q.cfg.codeSize.toNat then 3
  else 0

/-- R409: a command of the partition is queued or running on an engine. -/
def State.engineHeld (s : State) (p : Part) (e : Engine) : Bool :=
  s.cmds.any fun c => c.part == p.id && c.engine == e && (c.phase == .queued || c.runs)

/-- R409: the result of an engine mask of a width; `old` is the mask of a partition, `mk` the engine of a bit. -/
def State.maskStatus (s : State) (p : Part) (width v : Nat) (old : Part → Nat) (mk : Nat → Engine) : Nat :=
  let gone := (bitsOf width (old p)).filter fun n => !v.testBit n
  if 2 ^ width ≤ v then 1
  else if !(p.ctxState == 0 || p.ctxState == 2) || gone.any fun n => s.engineHeld p (mk n) then 2
  else if s.parts.any fun q => q.id != p.id && v &&& old q != 0 then 3
  else 0

/-- R397, R409, R411, R432: the result of a way mask: a protected partition's overlaps no other's and holds a protectable way; no way of a
partition that is being reset goes to another one (log 45). -/
def State.wayStatus (s : State) (p : Part) (v : Nat) : Nat :=
  let old := p.cfg.wayMask.toNat
  let new := v ^^^ (v &&& old)
  if p.ctxState == 5 && v &&& old != old then 2
  else if p.cfg.protect && v % 4096 == 0 then 3
  else if s.parts.any fun q =>
      q.id != p.id && (((p.cfg.protect || q.cfg.protect) && v &&& q.cfg.wayMask.toNat != 0) ||
        (q.ctxState == 5 && new &&& q.cfg.wayMask.toNat != 0)) then 3
  else 0

/-- The sum of a figure over all partitions, with a new one for partition `pid`. -/
def State.sumWith (s : State) (pid v : Nat) (f : Part → Nat) : Nat := sumOf s.parts fun q => if q.id == pid then v else f q

/-- R409, R416, R444: the result of a checked write: 0 OK, 1 RANGE, 2 BUSY, 3 CONFLICT, 4 OVERCOMMIT. -/
def State.checkWrite (s : State) (p : Part) (r : WinReg) (v : Nat) : Nat :=
  let counting := p.mig.track || p.mig.cntPages != 0
  match r with
  | .xlatWalkquota =>
    let n := v % 128
    if n == 0 || 64 < n then 1 else if 64 < s.sumWith p.id n fun q => q.xlat.quota.toNat then 4 else 0
  | .partCodebase => s.codeStatus p v p.cfg.codeSize.toNat
  | .partCodesize => s.codeStatus p p.cfg.codeBase.toNat (v % 2048)
  | .partWaymask => s.wayStatus p (v % 65536)
  | .partBwfloor =>
    let n := v % 65536
    if 45000 < n then 1 else if 45000 < s.sumWith p.id n fun q => q.cfg.bwFloor.toNat then 4 else 0
  | .partBwweight => if v % 256 == 0 then 1 else 0
  | .partHoistmask => s.maskStatus p 32 v (fun q => q.cfg.hoistMask.toNat) .hoist
  | .partBraidmask => s.maskStatus p 16 v (fun q => q.cfg.braidMask.toNat) .braid
  | .partCmprmask => s.maskStatus p 8 v (fun q => q.cfg.cmprMask.toNat) .cmpr
  | .partEnfloor => if s.power.cap.toNat * 1000 < s.sumWith p.id (v % 2 ^ 32) fun q => q.energy.floor.toNat then 1 else 0
  | .partEnweight => if v % 256 == 0 then 1 else 0
  | .migThresh => if v % 65536 == 0 then 1 else if counting then 2 else 0
  | .migCntpages => if counting && !(v % 2 ^ 32 == 0 && !p.mig.track) then 2 else 0
  | .migCntbase | .migCntfirst | .migNqbase | .migNqsize | .migTrkfirst | .migTrkpages | .migBmbase | .migFlushfirst | .migFlushpages =>
    if counting then 2 else 0
  | _ => 0

/-- R407, R416, R428, R444: a checked register of a partition takes a value. -/
def Part.setChecked (r : WinReg) (v : DWord) (p : Part) : Part :=
  match r with
  | .xlatWalkquota => { p with xlat := { p.xlat with quota := v.setWidth 7 } }
  | .partCodebase => { p with cfg := { p.cfg with codeBase := v } }
  | .partCodesize => { p with cfg := { p.cfg with codeSize := v.setWidth 11 } }
  | .partWaymask => { p with cfg := { p.cfg with wayMask := v.setWidth 16 } }
  | .partSlicemask0 => { p with cfg := { p.cfg with slice0 := loWord v } }
  | .partSlicemask1 => { p with cfg := { p.cfg with slice1 := loWord v } }
  | .partSlicemask2 => { p with cfg := { p.cfg with slice2 := loWord v } }
  | .partBwfloor => { p with cfg := { p.cfg with bwFloor := v.setWidth 16 } }
  | .partBwweight => { p with cfg := { p.cfg with bwWeight := v.setWidth 8 } }
  | .partHoistmask => { p with cfg := { p.cfg with hoistMask := loWord v } }
  | .partBraidmask => { p with cfg := { p.cfg with braidMask := v.setWidth 16 } }
  | .partCmprmask => { p with cfg := { p.cfg with cmprMask := v.setWidth 8 } }
  | .partEnfloor => { p with energy := { p.energy with floor := loWord v } }
  | .partEnweight => { p with energy := { p.energy with weight := v.setWidth 8 } }
  | .partVfmin => { p with energy := { p.energy with vfMin := v.setWidth 3 } }
  | .migCntbase => { p with mig := { p.mig with cntBase := v } }
  | .migCntfirst => { p with mig := { p.mig with cntFirst := v } }
  | .migCntpages => { p with mig := { p.mig with cntPages := loWord v } }
  | .migThresh => { p with mig := { p.mig with thresh := v.setWidth 16 } }
  | .migNqbase => { p with mig := { p.mig with nqBase := v } }
  | .migNqsize => if sizeOk (v.toNat % 65536) then { p with mig := { p.mig with nqSize := v.setWidth 16 } } else p
  | .migNqtail => { p with mig := { p.mig with nqTail := loWord v } }
  | .migTrkfirst => { p with mig := { p.mig with trkFirst := v } }
  | .migTrkpages => { p with mig := { p.mig with trkPages := loWord v } }
  | .migBmbase => { p with mig := { p.mig with bmBase := v } }
  | .migFlushfirst => { p with mig := { p.mig with flushFirst := v } }
  | .migFlushpages => { p with mig := { p.mig with flushPages := loWord v } }
  | .ccHbperiod => { p with cc := { p.cc with hbPeriod := v.setWidth 8 } }
  | .ccHoldtime => { p with cc := { p.cc with holdTime := loWord v } }
  | _ => p

/-- R409: PART_REGISTER_WRITE, by the operator: a refused write leaves its register, and PART_STATUS tells. -/
def execPartRegisterWrite (s : State) : Host.Outcome State Fault Refusal :=
  .next (
    let r := s.inbox.reg
    let v := s.inbox.value
    if !(s.inbox.auth == .operator && WinReg.checked r) then s
    else if r == .ccKeysel then { s with mgmt := { s.mgmt with ccKeySel := v.setWidth 7 } }.partStatus 0
    else
      match s.part? (s.regPart r) with
      | none => s.partStatus 3
      | some p =>
        let st := s.checkWrite p r v.toNat
        if st == 0 then (s.updPart p.id (Part.setChecked r v)).partStatus 0 else s.partStatus (BitVec.ofNat 3 st))

end Sys2Proof.Machine
end

