-- ==== Sys2Proof/Machine/Secure.lean ====
section
/-! DEFINITION. Confidential computing (R425 to R439): sessions, key slots, revocation, holds and their ends, measurements.
The outside's message stands in the inbox: its interface is the virtual function of the inbox's partition, or the physical
function. -/

namespace Sys2Proof.Machine

/-- R429: a message is answered with a status and bytes. -/
def State.answer (s : State) (status : Nat) (data : List Byte) : State := { s with reply := some { status := status, data := data } }

/-- R429: the partition whose owner's session carries the message. -/
def State.sessionPart (s : State) : Option Part := (s.inbox.part.bind s.part?).bind fun p => if p.cc.session.isSome then some p else none

/-- R429: the slot that a message names, when it belongs to the partition. -/
def State.slotOf (s : State) (p : Part) : Option KeySlot :=
  (s.keys[s.inbox.index]?).bind fun k => if k.part == some p.id then some k else none

/-! ### Holding -/

/-- R436: a slot is suspended; a slot that is empty or under revocation stays as it is. -/
def KeySlot.suspend (k : KeySlot) : KeySlot :=
  if k.state == 1 || k.state == 2 then { k with state := 3, used := k.state == 2 } else k

/-- R437: a suspended slot returns to what it was. -/
def KeySlot.resume (k : KeySlot) : KeySlot := if k.state == 3 then { k with state := if k.used then 2 else 1, used := false } else k

/-- Change the slots of a partition. -/
def State.mapKeys (s : State) (pid : Nat) (f : KeySlot → KeySlot) : State :=
  { s with keys := s.keys.map fun k => if k.part == some pid then f k else k }

/-- R437: a held partition resumes. -/
def State.resumeHold (s : State) (pid : Nat) : State :=
  ((s.mapKeys pid KeySlot.resume).updPart pid fun p =>
    { p with ctxState := p.cc.before, cc := { p.cc with holdState := 0, holdCause := 0, resumeDue := false } }).schedule pid

/-- R436: resident teams of a partition. -/
def State.residentTeams (s : State) (pid : Nat) : List (Nat × Team) :=
  (s.teams.zipIdx.filter fun x => x.1.part == pid && x.1.phase == .resident).map fun x => (x.2, x.1)

/-- R436: step 2: every resident team that has not been asked to save is asked. -/
def State.askHeld (s : State) (p : Part) : State :=
  (s.residentTeams p.id).foldl (fun s x => if x.2.requested then s else s.requestTeam x.1 p.sched.deadline false false) s

/-- R419, R436: no command of a partition runs: its writes are performed. -/
def State.writesDone (s : State) (pid : Nat) : Bool := !(s.cmds.any fun c => c.part == pid && (c.phase == .running || c.phase == .writing))

/-- R430, R432, R436: the protected ways are sealed and written back, then scrubbed. -/
def State.sealWays (s : State) (p : Part) : State := s.dropL2 fun n => s.homes.l2.any fun l => l.line == n && protectedLine p l

/-- R436, R437: steps 3 to 5, and a resumption that came before. -/
def State.finishHold (s : State) (p : Part) : State :=
  let s1 := ((s.sealWays p).mapKeys p.id KeySlot.suspend).updPart p.id fun q =>
    { q with ctxState := 3, mig := { q.mig with flushDone := q.mig.flushDone + 1 },
             cc := { q.cc with holdState := 2, holdCount := q.cc.holdCount + 1, stream := none } }
  if p.cc.resumeDue then s1.resumeHold p.id else s1

/-- R436: HOLD_COMPLETE: the resident teams are asked to save, and once none is resident, and every write is performed, the hold is done. -/
def execHoldComplete (pid : Nat) (s : State) : Host.Outcome State Fault Refusal :=
  .next (match s.part? pid with
    | none => s
    | some p =>
      if p.cc.holdState != 1 then s
      else if (s.residentTeams pid).isEmpty then (if s.writesDone pid then s.finishHold p else s.due (.holdComplete pid))
      else (s.askHeld p).due (.holdComplete pid))

/-- R438: HOLD_TIME_EXPIRY. -/
def execHoldTimeExpiry (pid : Nat) (s : State) : Host.Outcome State Fault Refusal :=
  .next (s.updPart pid fun p => if p.cc.holdState == 2 then { p with cc := { p.cc with holdState := 3 } } else p)

/-! ### Sessions -/

/-- R425: an owner's session opens; HeartbeatPeriod is offered. -/
def State.openSession (s : State) (p : Part) : State :=
  (s.updPart p.id fun q => { q with cc := { q.cc with session := some s.inbox.chain }, own := { q.own with nonce := s.inbox.nonce } }).answer 0
    (natLe 1 p.cc.hbPeriod.toNat)

/-- R425: the session of a partition's interface ends. -/
def State.endSession (s : State) (pid : Nat) : State := s.updPart pid fun q => { q with cc := { q.cc with session := none } }

/-- R425, R437: KEY_EXCHANGE: the old session ends first. On a held partition only the owner's chain opens a session, and it resumes the
hold. -/
def execKeyExchange (s : State) : Host.Outcome State Fault Refusal :=
  .next (match s.inbox.part with
    | none => { s with mgmt := { s.mgmt with operatorSession := some s.inbox.chain } }.answer 0 []
    | some pid =>
      match s.part? pid with
      | none => s
      | some p =>
        if p.cc.holdState == 0 then s.openSession p
        else if p.cc.identity != some (sha512 s.inbox.chain) then (s.endSession pid).answer 1 []
        else if p.cc.holdState == 1 then (s.openSession p).updPart pid fun q => { q with cc := { q.cc with resumeDue := true } }
        else (s.openSession p).resumeHold pid)

/-- R435: HEARTBEAT: a secured message on a session, answered. -/
def execHeartbeat (s : State) : Host.Outcome State Fault Refusal :=
  .next (match s.inbox.part with
    | none => if s.mgmt.operatorSession.isSome then s.answer 0 [] else s
    | some _ => if s.sessionPart.isSome then s.answer 0 [] else s)

/-- R435: HEARTBEAT_TIMEOUT of an owner's session: a protected partition that runs or is switched out is held; an unprotected one
loses its session, and its slots are suspended. -/
def execHeartbeatTimeout (s : State) : Host.Outcome State Fault Refusal :=
  .next (match s.sessionPart with
    | none => s
    | some p =>
      if p.cc.hbPeriod == 0 then s
      else if p.cfg.protect then s.beginHold p.id 1
      else (s.mapKeys p.id KeySlot.suspend).endSession p.id)

/-! ### Key slots -/

/-- R429: the partition holds a memory slot other than one of a number. -/
def State.otherMemory (s : State) (pid n : Nat) : Bool := s.keys.zipIdx.any fun x => x.2 != n && x.1.part == some pid && x.1.kind == 2

/-- R429: the failure status of KEY_SET; 0 for none. -/
def State.keySetStatus (s : State) (p : Part) (k : KeySlot) : Nat :=
  let kind := s.inbox.kind.toNat
  if k.state != 0 && k.state != 2 then 2
  else if kind < 2 || 4 < kind || (kind == 2 && p.cfg.protect && s.otherMemory p.id s.inbox.index) then 3
  else 0

/-- R427, R429: key material stands in a slot. -/
def State.fillSlot (s : State) (kind : BitVec 3) : State :=
  { s with keys := listModify s.keys s.inbox.index fun k =>
      { k with kind := kind, state := 1, keyId := s.inbox.keyId, material := s.inbox.bytes, used := false } }

/-- R429: the first KEY_SET of a memory slot records the owner identity. -/
def PartCc.identify (kind : BitVec 3) (cc : PartCc) : PartCc :=
  if kind == 2 && cc.identity.isNone then { cc with identity := cc.session.map sha512 } else cc

/-- R429: KEY_SET. -/
def execKeySet (s : State) : Host.Outcome State Fault Refusal :=
  .next (match s.sessionPart with
    | none => s
    | some p =>
      match s.slotOf p with
      | none => s.answer 1 []
      | some k =>
        let st := s.keySetStatus p k
        if st != 0 then s.answer st []
        else (((s.fillSlot s.inbox.kind).updPart p.id fun q => { q with cc := q.cc.identify s.inbox.kind }).answer 0 []).schedule p.id)

/-- R430: a slot is erased; an IDE stream that uses it stops. -/
def State.eraseSlot (s : State) (n : Nat) : State :=
  { s with
    keys := listModify s.keys n KeySlot.erase
    parts := s.parts.map fun p => if p.cc.stream == some n then { p with cc := { p.cc with stream := none } } else p }

/-- R429, R430: KEY_REVOKE: a memory slot is revoked in two phases, any other at once. -/
def execKeyRevoke (s : State) : Host.Outcome State Fault Refusal :=
  .next (match s.sessionPart with
    | none => s
    | some p =>
      match s.slotOf p with
      | none => s.answer 1 []
      | some k =>
        if k.kind == 2 then
          (if p.ctxState == 1 || k.state == 4 then s.answer 2 []
           else
             ({ s.sealWays p with keys := listModify s.keys s.inbox.index fun k => { k with state := 4 } }).due (.revokeErase s.inbox.index))
        else (s.eraseSlot s.inbox.index).answer 0 [])

/-- R430: a slot is about to be erased: no engine write of its partition is under way, which its key would seal. -/
def State.mayErase (s : State) (k : KeySlot) : Bool := k.state == 4 && !s.cmds.any fun c => k.part == some c.part && c.phase == .writing

/-- R430: the end of phase 1 for what was written since it began. -/
def State.sealSlot (s : State) (k : KeySlot) : State := ((k.part.bind s.part?).map s.sealWays).getD s

/-- R430: REVOKE_ERASE: phase 2, then the response. -/
def execRevokeErase (slot : Nat) (s : State) : Host.Outcome State Fault Refusal :=
  .next (match s.keys[slot]? with
    | some k => if s.mayErase k then (((s.sealSlot k).loseKey k.material).eraseSlot slot).answer 0 [] else s
    | none => s)

/-- R429: KEY_QUERY. -/
def execKeyQuery (s : State) : Host.Outcome State Fault Refusal :=
  .next (match s.sessionPart with
    | none => s
    | some p =>
      match s.slotOf p with
      | none => s.answer 1 []
      | some k => s.answer 0 (natLe 1 k.kind.toNat ++ natLe 1 k.state.toNat ++ natLe 8 k.keyId.toNat))

/-! ### IDE -/

/-- R426: an IDE key set may be written into a slot: it is empty, or an IDE slot that the stream does not use. -/
def KeySlot.takesIde (k : KeySlot) (p : Part) (n : Nat) : Bool := k.state == 0 || (k.kind == 1 && k.state == 1 && p.cc.stream != some n)

/-- R426: KEY_PROG. -/
def execKeyProg (s : State) : Host.Outcome State Fault Refusal :=
  .next (match s.sessionPart with
    | none => s
    | some p =>
      match s.slotOf p with
      | none => s.answer 1 []
      | some k => if k.takesIde p s.inbox.index then (s.fillSlot 1).answer 0 [] else s.answer 2 [])

/-- R426: the stream of a partition. -/
def State.setStream (s : State) (pid : Nat) (x : Option Nat) : State := s.updPart pid fun q => { q with cc := { q.cc with stream := x } }

/-- R426: K_SET_GO: the stream uses a programmed slot. -/
def execKSetGo (s : State) : Host.Outcome State Fault Refusal :=
  .next (match s.sessionPart with
    | none => s
    | some p =>
      match s.slotOf p with
      | none => s.answer 1 []
      | some k => if k.kind == 1 && k.state == 1 then (s.setStream p.id (some s.inbox.index)).answer 0 [] else s.answer 2 [])

/-- R426: K_SET_STOP: the stream stops using a slot. -/
def execKSetStop (s : State) : Host.Outcome State Fault Refusal :=
  .next (match s.sessionPart with
    | none => s
    | some p =>
      match s.slotOf p with
      | none => s.answer 1 []
      | some _ => (if p.cc.stream == some s.inbox.index then s.setStream p.id none else s).answer 0 [])

/-! ### Attestation -/

/-- R439: block 4 of a partition. -/
def State.configBlock (s : State) (p : Part) : List Byte :=
  let c := p.cfg
  natLe 4 (s.readPart p .partCfg) ++ natLe 2 p.halls.length ++ natLe 2 c.wayMask.toNat ++ natLe 4 c.slice0.toNat ++ natLe 4 c.slice1.toNat ++
    natLe 4 c.slice2.toNat ++ natLe 4 c.hoistMask.toNat ++ natLe 2 c.braidMask.toNat ++ natLe 1 c.cmprMask.toNat ++
    natLe 2 c.codeSize.toNat ++ natLe 1 p.cc.hbPeriod.toNat ++ natLe 4 p.cc.holdTime.toNat

/-- R439: block 5 of a partition: the digest over the digests of its live code objects. -/
def Part.codeBlock (p : Part) : List Byte :=
  natLe 64 (sha512 ((p.objects.filter fun o => !o.retired && !o.retiring).flatMap fun o => natLe 64 o.digest.toNat)).toNat

/-- R439: the measurement blocks of an interface. -/
def State.blocks (s : State) : List Byte :=
  let device := Config.firmwareBlock 1 ++ Config.firmwareBlock 2 ++ Config.firmwareBlock 3
  match s.inbox.part.bind s.part? with
  | some p => device ++ s.configBlock p ++ p.codeBlock
  | none => device

/-- R439: GET_MEASUREMENTS: the blocks and the signature over the transcript with the requester's nonce. -/
def execGetMeasurements (s : State) : Host.Outcome State Fault Refusal :=
  .next (s.answer 0 (s.blocks ++ Config.deviceSign (s.inbox.nonce ++ s.blocks)))

end Sys2Proof.Machine
end

