-- ==== Sys2Proof/Machine/Power.lean ====
section
/-! DEFINITION. Energy (R440 to R443), ageing (R445, R446), the replay controls (R448 to R450) and the rope links (R452). -/

namespace Sys2Proof.Machine

/-! ### The energy account -/

/-- R440: one refill, in µJ. -/
def Power.refill (p : Power) : Nat := p.cap.toNat * 1000

/-- R440: the balance after a refill and a debit. -/
def Power.settle (measured : Nat) (p : Power) : Int := min (p.balance + p.refill) (10 * p.refill) - measured

/-- R441: what a hall's estimator measured, in pJ. -/
def HallReading.total (r : HallReading) : Nat := sumOf r.units (fun x => x.2) + r.idle

/-- R440: what the package measured, in whole µJ: the hall estimators and the other sensors (log 55). -/
def energyTotal (r : EnergyReading) : Nat := (sumOf r.halls HallReading.total + r.sensors) / 1000000

/-- The figures of a list that stand beside a partition's number. -/
def figureOf (pid : Nat) (l : List (Nat × Nat)) : Nat := sumOf (l.filter fun x => x.1 == pid) fun x => x.2

/-- R441: what a partition is charged, in whole µJ: the estimators of its halls, the engines that ran its commands, and 16 pJ for each byte
charged to it at an arbiter. -/
def chargedTo (r : EnergyReading) (p : Part) : Nat :=
  (sumOf (r.halls.filter fun h => p.halls.contains h.hall) HallReading.total + figureOf p.id r.engines + 16 * figureOf p.id r.bytes) / 1000000

/-- R441: what no partition can be charged with. -/
def State.unattributed (s : State) (r : EnergyReading) : Nat := energyTotal r - sumOf s.parts (chargedTo r)

/-- R441: the energy, in pJ, that a hall's estimator attributes to a team: that of the units its words used, and an even share of the idle and
leakage energy while it is resident. -/
def HallReading.attributed (r : HallReading) (ti : Nat) : Nat :=
  figureOf ti r.units + (if r.teams.contains ti then r.idle / r.teams.length else 0)

/-- R441: the teams' energy after a reading. -/
def State.attribute (s : State) (r : EnergyReading) : State :=
  { s with teams := s.teams.zipIdx.map fun x => { x.1 with energy := x.1.energy + sumOf r.halls fun h => HallReading.attributed h x.2 } }

/-- R442, R376: the estimates of a partition's eligible teams that wait. -/
def State.waitingEnergy (s : State) (p : Part) : Nat :=
  sumOf (s.grids.filter fun g => g.part == p.id && g.queued && g.eligible) (fun g => (g.teams - g.nextTeam) * p.estimate g.ref.obj g.hdr) +
    sumOf (s.teams.filter fun t => t.part == p.id && t.phase == .saved && !t.foyer) fun t => p.estimate t.ref.obj t.hdr

/-- R442: what a partition asks for. -/
structure Demand where
  part : Nat
  floor : Nat
  weight : Nat
  demand : Nat
  granted : Nat
deriving DecidableEq, Repr

/-- R442: a share by weight of what is left, rounded down. -/
def Demand.share (rest weights : Nat) (d : Demand) : Nat := rest * d.weight / weights

/-- R442: the rest divided by weight among the partitions whose demand is unmet, none above its demand. -/
def divideRest : Nat → Nat → List Demand → List Demand
  | 0, _, ds => ds
  | fuel + 1, rest, ds =>
    let unmet := ds.filter fun d => d.granted < d.demand
    let weights := sumOf unmet fun d => d.weight
    let small := unmet.filter fun d => d.demand - d.granted ≤ d.share rest weights
    if unmet.isEmpty then ds
    else if small.isEmpty then
      ds.map fun d => if d.granted < d.demand then { d with granted := d.granted + d.share rest weights } else d
    else
      let used := sumOf small fun d => d.demand - d.granted
      divideRest fuel (rest - used) (ds.map fun d => if small.contains d then { d with granted := d.demand } else d)

/-- R442: the allowances of a millisecond, of `d` µJ. -/
def allowances (d : Nat) (ds : List Demand) : List Demand :=
  let floors := sumOf ds fun x => x.floor
  let scaled := fun x : Demand => if d < floors then x.floor * d / floors else x.floor
  let first := ds.map fun x => { x with granted := min (scaled x) x.demand }
  divideRest (ds.length + 1) (d - sumOf first fun x => x.granted) first

/-- R376, R442: a grant, less what is owed. -/
def PartEnergy.grant (n : Nat) (e : PartEnergy) : PartEnergy :=
  { e with allow := BitVec.ofNat 32 (n - e.owed), owed := e.owed - n, spent := 0, reserved := 0, waited := false }

/-- R443: the operating point at the end of a millisecond. -/
def PartEnergy.nextPoint (low : Bool) (e : PartEnergy) : BitVec 3 :=
  if low then (if e.vfPoint.toNat ≤ e.vfMin.toNat then e.vfPoint else e.vfPoint - 1)
  else if 4 * e.spent < 3 * e.allow.toNat && e.vfPoint != 7 then e.vfPoint + 1
  else e.vfPoint

/-- R443: the operating points of all partitions. -/
def State.adjustPoints (s : State) : State :=
  { s with parts := s.parts.map fun p =>
      { p with energy := { p.energy with vfPoint := p.energy.nextPoint (p.energy.waited || s.energyWaits p || decide (s.power.balance < 0)) } } }

/-- R440, R441: the account, and the energy charged to each partition and team. -/
def State.charge (s : State) (r : EnergyReading) : State :=
  { s.attribute r with
    power := { s.power with balance := s.power.settle (energyTotal r), unattr := s.power.unattr + BitVec.ofNat 64 (s.unattributed r) }
    parts := s.parts.map fun p =>
      { p with energy := { p.energy with last := chargedTo r p },
               counters := { p.counters with consumed := p.counters.consumed + BitVec.ofNat 64 (chargedTo r p) } } }

/-- R442: what the planner may grant. -/
def State.grantable (s : State) (r : EnergyReading) : Nat := ((s.power.refill : Int) - s.unattributed r + min s.power.balance 0).toNat

/-- R442: the allowances are granted. -/
def State.grantAll (s : State) (r : EnergyReading) : State :=
  let ds := s.parts.map fun p =>
    { part := p.id, floor := p.energy.floor.toNat, weight := p.energy.weight.toNat, demand := p.energy.last + s.waitingEnergy p, granted := 0 : Demand }
  let out := allowances (s.grantable r) ds
  let of_ := fun pid : Nat => ((out.find? fun d => d.part == pid).map Demand.granted).getD 0
  { s with
    teams := s.teams.map fun t => { t with reserved := 0 }
    parts := s.parts.map fun p =>
      { p with energy := p.energy.grant (of_ p.id),
               counters := { p.counters with granted := p.counters.granted + BitVec.ofNat 64 (of_ p.id) } } }

/-- R440 to R443: ENERGY_REFILL, with the outside's reading. -/
def execEnergyRefill (s : State) : Host.Outcome State Fault Refusal :=
  .next (
    let r := s.inbox.reading
    let s1 := (s.adjustPoints.charge r).grantAll r
    s1.parts.foldl (fun s p => s.schedule p.id) s1)

/-! ### Ageing -/

/-- R446: a hall is retired: its teams are asked to save, and a spare takes its place once they have. -/
def State.retireHall (s : State) (h : Nat) : State :=
  let s1 := (s.updHall h fun x => { x with retiring := true })
  let s2 := { s1 with power := { s1.power with retired := s1.power.retired + 1 } }
  let ts := (s2.teams.zipIdx.filter fun x => x.1.phase == .resident && x.1.hall == h).map fun x => (x.2, x.1)
  let s3 := ts.foldl (fun s x =>
    let d := ((s.part? x.2.part).map fun p => p.sched.deadline).getD 20000
    s.requestTeam x.1 d false false) s2
  s3.due (.spareSubstitute h)

/-- R445: what the outside says that a hall's monitors read: the four path delays, then the SRAM margins, two bytes each. -/
def Inbox.monitor (x : Inbox) (i : Nat) : BitVec 16 := BitVec.ofNat 16 (fieldAt x.bytes (2 * i) 2)

/-- R445: the four path-delay monitors. -/
def Inbox.delays (x : Inbox) : Vector (BitVec 16) 4 := Vector.ofFn fun i : Fin 4 => x.monitor i.val

/-- R445: the SRAM margin monitors. -/
def Inbox.srams (x : Inbox) : List (BitVec 16) := (List.range (x.bytes.length / 2 - 4)).map fun i => x.monitor (4 + i)

/-- R445, R447: the worst of four delay margins, signed. -/
def worstOf (xs : Vector (BitVec 16) 4) : BitVec 16 := xs.toList.foldl (fun m x => if x.toInt < m.toInt then x else m) (xs.toList.headD 0)

/-- R445: a re-plan is due: on the daily timer, or when the margin has fallen by more than AGE_DRIFT. -/
def State.replanDue (s : State) (h : Hall) : Bool :=
  s.inbox.flag || (s.power.drift.toNat : Int) < h.plannedMargin.toInt - (worstOf s.inbox.delays).toInt

/-- R445: every monitor of a hall keeps its guard band at an operating point and a voltage. -/
def Hall.keepsBands (h : Hall) (point volt : Nat) : Bool :=
  (h.delays.toList.zipIdx.all fun x => Config.keepsBand x.2 point volt x.1) && h.srams.all fun x => Config.keepsBand 4 point volt x

/-- R445: the lowest voltage of an operating point at which every monitor keeps its guard band; the maximum where none does. -/
def Hall.planVolt (h : Hall) (point : Nat) : Nat := ((List.range Config.maxVolt).find? (h.keepsBands point)).getD Config.maxVolt

/-- R445: a re-plan sets each operating point's voltage, and counts. -/
def Hall.replan (h : Hall) : Hall :=
  { h with volts := Vector.ofFn fun p : Fin 8 => BitVec.ofNat 32 (h.planVolt p.val), plannedMargin := h.margin, plans := h.plans + 1 }

/-- R445, R446: AGE_REPLAN: the planner reads a hall's monitors; a negative worst delay margin at a re-plan says that the hall cannot meet its
clock at the maximum voltage. -/
def execAgeReplan (s : State) : Host.Outcome State Fault Refusal :=
  .next (
    let n := s.inbox.index
    match s.halls[n]? with
    | none => s
    | some h =>
      let worst := worstOf s.inbox.delays
      let s1 := s.updHall n fun x => { x with delays := s.inbox.delays, srams := s.inbox.srams, margin := worst }
      if s.replanDue h then
        let s2 := s1.updHall n Hall.replan
        if worst.toInt < 0 && !h.retiring && !h.failed then s2.retireHall n else s2
      else s1)

/-- R446: no team is left on a hall that retires. -/
def State.hallEmpty (s : State) (h : Nat) : Bool := !(s.teams.any fun t => t.phase == .resident && t.hall == h)

/-- R446: a spare of the die takes a hall's number, whichever; or the hall is marked failed. -/
def State.substitute (s : State) (n : Nat) (h : Hall) : State :=
  let die := h.phys / 80
  match s.power.spares.toList.getD die [] with
  | [] =>
    { (s.updHall n fun x => { x with failed := true, retiring := false }) with power := { s.power with failed := s.power.failed + 1 } }
  | x :: rest =>
    let pick := (x :: rest).getD (Config.freePick s.free n % (rest.length + 1)) x
    let delays : Vector (BitVec 16) 4 := Vector.ofFn fun i : Fin 4 => BitVec.ofNat 16 (Config.freePick s.free (n + 304 * (i.val + 1)))
    let volts : Vector Word 8 := Vector.ofFn fun i : Fin 8 => BitVec.ofNat 32 (Config.freePick s.free (n + 304 * (i.val + 5)))
    let new := fun y : Hall =>
      { y with phys := pick, retiring := false, closed := h.closed, delays := delays, srams := [], volts := volts, margin := worstOf delays,
               plannedMargin := worstOf delays }
    { ((s.scrubHalls [n]).updHall n new).spend with
      power := { s.power with spares := s.power.spares.setIfInBounds die ((x :: rest).erase pick) } }

/-- R446: SPARE_SUBSTITUTE. -/
def execSpareSubstitute (h : Nat) (s : State) : Host.Outcome State Fault Refusal :=
  .next (match s.halls[h]? with
    | some x =>
      if x.retiring && s.hallEmpty h then
        let s1 := s.substitute h x
        match s1.hallOwner h with
        | some pid => s1.schedule pid
        | none => s1
      else s
    | none => s)

/-! ### Replay -/

/-- R450: the owner's write of REPLAY_CTL reaches its partition. -/
def State.replayPart (s : State) : Option Part :=
  (s.inbox.part.bind s.part?).bind fun p => if s.inbox.auth == .owner && p.vfOpen s.inbox.onStream then some p else none

/-- R450: a partition's replay begins to record or to rerun. -/
def PartReplay.start (ctl : BitVec 2) (r : PartReplay) : PartReplay :=
  if r.ctl == ctl then r else { r with ctl := ctl, status := 1, divSeq := 0, seq := 0, orders := [], launched := 0 }

/-- R448: REPLAY_RECORD. -/
def execReplayRecord (s : State) : Host.Outcome State Fault Refusal :=
  .next (match s.replayPart with
    | some p => (s.updPart p.id fun q => { q with replay := q.replay.start 1 }).wakePart p.id fun w => w == .walk
    | none => s)

/-- R449: REPLAY_RERUN. -/
def execReplayRerun (s : State) : Host.Outcome State Fault Refusal :=
  .next (match s.replayPart with
    | some p => s.updPart p.id fun q => { q with replay := q.replay.start 2 }
    | none => s)

/-- R450: REPLAY_OFF; an atomic that waits for its turn looks again. -/
def execReplayOff (s : State) : Host.Outcome State Fault Refusal :=
  .next (match s.replayPart with
    | some p => (s.updPart p.id fun q => { q with replay := { q.replay with ctl := 0, status := 0 } }).wakePart p.id fun w => w == .walk
    | none => s)

/-! ### Rope links -/

/-- R452: FLIT_RETRY: no program sees it. -/
def execFlitRetry (s : State) : Host.Outcome State Fault Refusal := .next s

/-- R452: PORT_FAILOVER: a port fails, and its traffic moves to other ports. -/
def execPortFailover (s : State) : Host.Outcome State Fault Refusal :=
  .next (if s.inbox.index < 24 then { s with failedPorts := ascending (s.failedPorts ++ [s.inbox.index]) } else s)

/-- R270, R452: the granules of the outside's range on class 10 pages. -/
def State.ropeGrans (s : State) : List Nat :=
  let key := outsideKey 2 s.inbox.addr
  ascending ((List.range s.inbox.count).map fun i => granOf (key + i))

/-- R452: what a dropped write leaves of its bytes: those that no later write at the home has written, as they were before it. -/
def Commit.undone (c : Commit) (later : List Commit) : List (Option Byte) :=
  (List.range 16).map fun i =>
    if ((c.bytes[i]?).join).isSome && !(later.any fun d => d.atHome && ((d.bytes[i]?).join).isSome) then some (c.prior.getD i 0) else none

/-- R452: later commits to a granule, the oldest first, without a write that is dropped: what they found at the home before them. -/
def Commit.forgotten (c : Commit) : List Commit → List Commit → List Commit
  | _, [] => []
  | seen, d :: rest => { d with prior := overlay d.prior (c.undone seen) } :: c.forgotten (d :: seen) rest

/-- R452: a commit is taken out of the history. -/
def dropCommit (c : Commit) (hist : List Commit) : List Commit :=
  let later := (hist.takeWhile fun d => d != c).filter fun d => d.gran == c.gran
  let mended := (c.forgotten [] later.reverse).reverse
  (hist.takeWhile fun d => d != c).map (fun d => if d.gran == c.gran then (mended.find? fun e => e.seq == d.seq).getD d else d) ++
    (hist.dropWhile fun d => d != c).drop 1

/-- R452: the write to a granule at a place of the scope order is dropped, and no other. At the target stands what stood there before it,
unless a later write has been performed there. -/
def State.dropWrite (s : State) (place gran : Nat) : State :=
  match s.hist.find? fun c => c.gran == gran && c.atHome && c.seq == place with
  | some c =>
    let later := (s.hist.takeWhile fun d => d != c).filter fun d => d.gran == gran
    let far := (List.range 16).map fun i =>
      if ((c.bytes[i]?).join).isSome && (((c.undone later)[i]?).join.isSome || s.homes.sysMem.read (16 * gran + i) != s.mem.read (16 * gran + i)) then
        some (c.prior.getD i 0)
      else none
    { s with mem := s.mem.writeSome (16 * gran) (c.undone later), hist := dropCommit c s.hist,
             homes := { s.homes with sysMem := s.homes.sysMem.writeSome (16 * gran) far } }
  | none => s

/-- R452: ROPE_UNREACHABLE_TIMEOUT of the package that the outside names: the read that comes next returns poison of its range (kind 0); the
write at a place that it names is dropped and the operator notified (kind 1); a BRAID, by number, ends with PEER (any other kind). -/
def execRopeUnreachableTimeout (s : State) : Host.Outcome State Fault Refusal :=
  .next (match s.inbox.kind.toNat with
    | 0 => { s with timedOut := s.ropeGrans }
    | 1 =>
      let s1 := s.ropeGrans.foldl (State.dropWrite · s.inbox.value.toNat) s
      { s1 with mgmt := { s1.mgmt with notices := s1.mgmt.notices ++ [s.inbox.index] } }
    | _ =>
      match s.job? s.inbox.count with
      | none => s
      | some j =>
        match j.c.braid with
        | some b => if j.c.exchanges then (s.engFail j statusPeer (BitVec.ofNat 64 b.desc) []).abortMates j.ci b else s
        | none => s)

end Sys2Proof.Machine
end

