-- ==== Sys2Proof/Machine/Dispatch.lean ====
section
/-! DEFINITION. The one match over the instructions: each arm calls that instruction's meaning. -/

namespace Sys2Proof.Machine

/-- What one instruction does to the machine. -/
def exec (i : Instr) (s : State) : Host.Outcome State Fault Refusal :=
  match i with
  | .iadd f => Sys2Proof.Machine.execIadd f s
  | .isub f => Sys2Proof.Machine.execIsub f s
  | .imul f => Sys2Proof.Machine.execImul f s
  | .imulh f => Sys2Proof.Machine.execImulh f s
  | .imac f => Sys2Proof.Machine.execImac f s
  | .and f => Sys2Proof.Machine.execAnd f s
  | .or f => Sys2Proof.Machine.execOr f s
  | .xor f => Sys2Proof.Machine.execXor f s
  | .shl f => Sys2Proof.Machine.execShl f s
  | .shr f => Sys2Proof.Machine.execShr f s
  | .sar f => Sys2Proof.Machine.execSar f s
  | .imin f => Sys2Proof.Machine.execImin f s
  | .imax f => Sys2Proof.Machine.execImax f s
  | .nmin f => Sys2Proof.Machine.execNmin f s
  | .nmax f => Sys2Proof.Machine.execNmax f s
  | .fadd f => Sys2Proof.Machine.execFadd f s
  | .fmul f => Sys2Proof.Machine.execFmul f s
  | .fmac f => Sys2Proof.Machine.execFmac f s
  | .fmin f => Sys2Proof.Machine.execFmin f s
  | .fmax f => Sys2Proof.Machine.execFmax f s
  | .hadd2 f => Sys2Proof.Machine.execHadd2 f s
  | .hmul2 f => Sys2Proof.Machine.execHmul2 f s
  | .hmac2 f => Sys2Proof.Machine.execHmac2 f s
  | .dadd f => Sys2Proof.Machine.execDadd f s
  | .dmul f => Sys2Proof.Machine.execDmul f s
  | .dmac f => Sys2Proof.Machine.execDmac f s
  | .sel f => Sys2Proof.Machine.execSel f s
  | .vcmp f => Sys2Proof.Machine.execVcmp f s
  | .mov f => Sys2Proof.Machine.execMov f s
  | .not f => Sys2Proof.Machine.execNot f s
  | .ineg f => Sys2Proof.Machine.execIneg f s
  | .iabs f => Sys2Proof.Machine.execIabs f s
  | .popc f => Sys2Proof.Machine.execPopc f s
  | .clz f => Sys2Proof.Machine.execClz f s
  | .ctz f => Sys2Proof.Machine.execCtz f s
  | .brev f => Sys2Proof.Machine.execBrev f s
  | .bswap f => Sys2Proof.Machine.execBswap f s
  | .mov64 f => Sys2Proof.Machine.execMov64 f s
  | .fneg f => Sys2Proof.Machine.execFneg f s
  | .fabs f => Sys2Proof.Machine.execFabs f s
  | .frcp f => Sys2Proof.Machine.execFrcp f s
  | .frsq f => Sys2Proof.Machine.execFrsq f s
  | .fsqrt f => Sys2Proof.Machine.execFsqrt f s
  | .fexp2 f => Sys2Proof.Machine.execFexp2 f s
  | .flog2 f => Sys2Proof.Machine.execFlog2 f s
  | .fsin f => Sys2Proof.Machine.execFsin f s
  | .fcos f => Sys2Proof.Machine.execFcos f s
  | .ftanh f => Sys2Proof.Machine.execFtanh f s
  | .ffloor f => Sys2Proof.Machine.execFfloor f s
  | .fceil f => Sys2Proof.Machine.execFceil f s
  | .ftrunc f => Sys2Proof.Machine.execFtrunc f s
  | .frint f => Sys2Proof.Machine.execFrint f s
  | .fclass f => Sys2Proof.Machine.execFclass f s
  | .dneg f => Sys2Proof.Machine.execDneg f s
  | .dabs f => Sys2Proof.Machine.execDabs f s
  | .dsqrt f => Sys2Proof.Machine.execDsqrt f s
  | .drcp f => Sys2Proof.Machine.execDrcp f s
  | .hneg2 f => Sys2Proof.Machine.execHneg2 f s
  | .habs2 f => Sys2Proof.Machine.execHabs2 f s
  | .vcvt t u f => Sys2Proof.Machine.execVcvt t u f s
  | .qpack t f => Sys2Proof.Machine.execQpack t f s
  | .bfx f => Sys2Proof.Machine.execBfx f s
  | .bfi f => Sys2Proof.Machine.execBfi f s
  | .shfi f => Sys2Proof.Machine.execShfi f s
  | .shfu f => Sys2Proof.Machine.execShfu f s
  | .shfd f => Sys2Proof.Machine.execShfd f s
  | .shfx f => Sys2Proof.Machine.execShfx f s
  | .ballot f => Sys2Proof.Machine.execBallot f s
  | .vany f => Sys2Proof.Machine.execVany f s
  | .vall f => Sys2Proof.Machine.execVall f s
  | .first f => Sys2Proof.Machine.execFirst f s
  | .psum t x f => Sys2Proof.Machine.execPsum t x f s
  | .rsum t f => Sys2Proof.Machine.execRsum t f s
  | .rmin t f => Sys2Proof.Machine.execRmin t f s
  | .rmax t f => Sys2Proof.Machine.execRmax t f s
  | .topk f => Sys2Proof.Machine.execTopk f s
  | .append f => Sys2Proof.Machine.execAppend f s
  | .sadd f => Sys2Proof.Machine.execSadd f s
  | .ssub f => Sys2Proof.Machine.execSsub f s
  | .smul f => Sys2Proof.Machine.execSmul f s
  | .smulh f => Sys2Proof.Machine.execSmulh f s
  | .sand f => Sys2Proof.Machine.execSand f s
  | .sor f => Sys2Proof.Machine.execSor f s
  | .sxor f => Sys2Proof.Machine.execSxor f s
  | .sshl f => Sys2Proof.Machine.execSshl f s
  | .sshr f => Sys2Proof.Machine.execSshr f s
  | .ssar f => Sys2Proof.Machine.execSsar f s
  | .smin f => Sys2Proof.Machine.execSmin f s
  | .smax f => Sys2Proof.Machine.execSmax f s
  | .snmin f => Sys2Proof.Machine.execSnmin f s
  | .snmax f => Sys2Proof.Machine.execSnmax f s
  | .sadd64 f => Sys2Proof.Machine.execSadd64 f s
  | .ssub64 f => Sys2Proof.Machine.execSsub64 f s
  | .scmp c f => Sys2Proof.Machine.execScmp c f s
  | .srdv d a b => Sys2Proof.Machine.execSrdv d a b s
  | .sli d imm => Sys2Proof.Machine.execSli d imm s
  | .slui d imm => Sys2Proof.Machine.execSlui d imm s
  | .saddi d imm => Sys2Proof.Machine.execSaddi d imm s
  | .jmp off => Sys2Proof.Machine.execJmp off s
  | .jsz r off => Sys2Proof.Machine.execJsz r off s
  | .jsnz r off => Sys2Proof.Machine.execJsnz r off s
  | .jg neg g off => Sys2Proof.Machine.execJg neg g off s
  | .jgx neg g off => Sys2Proof.Machine.execJgx neg g off s
  | .call r off => Sys2Proof.Machine.execCall r off s
  | .jany neg g off => Sys2Proof.Machine.execJany neg g off s
  | .jall neg g off => Sys2Proof.Machine.execJall neg g off s
  | .splice off => Sys2Proof.Machine.execSplice off s
  | .calli v r => Sys2Proof.Machine.execCalli v r s
  | .ret r => Sys2Proof.Machine.execRet r s
  | .waitk k => Sys2Proof.Machine.execWaitk k s
  | .yieldk k off => Sys2Proof.Machine.execYieldk k off s
  | .kinit k x => Sys2Proof.Machine.execKinit k x s
  | .ktie k r => Sys2Proof.Machine.execKtie k r s
  | .bar n => Sys2Proof.Machine.execBar n s
  | .bara n => Sys2Proof.Machine.execBara n s
  | .barw n => Sys2Proof.Machine.execBarw n s
  | .getxm d => Sys2Proof.Machine.execGetxm d s
  | .setxm x => Sys2Proof.Machine.execSetxm x s
  | .setxp c => Sys2Proof.Machine.execSetxp c s
  | .trap code => Sys2Proof.Machine.execTrap code s
  | .getc c d => Sys2Proof.Machine.execGetc c d s
  | .setc c x => Sys2Proof.Machine.execSetc c x s
  | .rdx f w h v => Sys2Proof.Machine.execRdx f w h v s
  | .wrx f w h v => Sys2Proof.Machine.execWrx f w h v s
  | .ld f => Sys2Proof.Machine.execLd f s
  | .sld d tb x imm => Sys2Proof.Machine.execSld d tb x imm s
  | .st f => Sys2Proof.Machine.execSt f s
  | .lds f => Sys2Proof.Machine.execLds f s
  | .sts f => Sys2Proof.Machine.execSts f s
  | .ldp f => Sys2Proof.Machine.execLdp f s
  | .stp f => Sys2Proof.Machine.execStp f s
  | .atomSwap f => Sys2Proof.Machine.execAtomSwap f s
  | .atomAdd f => Sys2Proof.Machine.execAtomAdd f s
  | .atomAnd f => Sys2Proof.Machine.execAtomAnd f s
  | .atomOr f => Sys2Proof.Machine.execAtomOr f s
  | .atomXor f => Sys2Proof.Machine.execAtomXor f s
  | .atomMin f => Sys2Proof.Machine.execAtomMin f s
  | .atomMax f => Sys2Proof.Machine.execAtomMax f s
  | .atomNmin f => Sys2Proof.Machine.execAtomNmin f s
  | .atomNmax f => Sys2Proof.Machine.execAtomNmax f s
  | .atomCas f => Sys2Proof.Machine.execAtomCas f s
  | .atomFadd f => Sys2Proof.Machine.execAtomFadd f s
  | .atomLoad f => Sys2Proof.Machine.execAtomLoad f s
  | .atomStore f => Sys2Proof.Machine.execAtomStore f s
  | .tbset tb p l => Sys2Proof.Machine.execTbset tb p l s
  | .commitAt sc => Sys2Proof.Machine.execCommitAt sc s
  | .beginAt sc => Sys2Proof.Machine.execBeginAt sc s
  | .fence sc => Sys2Proof.Machine.execFence sc s
  | .drain sc => Sys2Proof.Machine.execDrain sc s
  | .discard tb o c => Sys2Proof.Machine.execDiscard tb o c s
  | .pfetch tb x => Sys2Proof.Machine.execPfetch tb x s
  | .watch tb o => Sys2Proof.Machine.execWatch tb o s
  | .stepCounter x => Sys2Proof.Machine.execStepCounter x s
  | .mma f => Sys2Proof.Machine.execMma f s
  | .zero z t => Sys2Proof.Machine.execZero z t s
  | .drainSlot z => Sys2Proof.Machine.execDrainSlot z s
  | .fold z => Sys2Proof.Machine.execFold z s
  | .accrd z v row => Sys2Proof.Machine.execAccrd z v row s
  | .accwr z v row => Sys2Proof.Machine.execAccwr z v row s
  | .accld t r => Sys2Proof.Machine.execAccld t r s
  | .accst t r => Sys2Proof.Machine.execAccst t r s
  | .galst z r => Sys2Proof.Machine.execGalst z r s
  | .stair k r => Sys2Proof.Machine.execStair k r s
  | .stairg k r => Sys2Proof.Machine.execStairg k r s
  | .hoist e k r => Sys2Proof.Machine.execHoist e k r s
  | .braid e k r => Sys2Proof.Machine.execBraid e k r s
  | .cmpr e k r => Sys2Proof.Machine.execCmpr e k r s
  | .dcmp e k r => Sys2Proof.Machine.execDcmp e k r s
  | .kquery k d => Sys2Proof.Machine.execKquery k d s
  | .launch d a => Sys2Proof.Machine.execLaunch d a s
  | .lquery d a => Sys2Proof.Machine.execLquery d a s
  | .publish d a b => Sys2Proof.Machine.execPublish d a b s
  | .bindSlot d a b => Sys2Proof.Machine.execBindSlot d a b s
  | .unbind d a b => Sys2Proof.Machine.execUnbind d a b s
  | .unbindReleaseHold d a b => Sys2Proof.Machine.execUnbindReleaseHold d a b s
  | .place d a b => Sys2Proof.Machine.execPlace d a b s
  | .preempt d a b => Sys2Proof.Machine.execPreempt d a b s
  | .pcancel d a => Sys2Proof.Machine.execPcancel d a s
  | .exportCtx d a => Sys2Proof.Machine.execExportCtx d a s
  | .importCtx d a => Sys2Proof.Machine.execImportCtx d a s
  | .seal d a => Sys2Proof.Machine.execSeal d a s
  | .cntrd d a => Sys2Proof.Machine.execCntrd d a s
  | .imm y => Sys2Proof.Machine.execImm y s
  | .grd neg g => Sys2Proof.Machine.execGrd neg g s
  | .src3 neg abs x => Sys2Proof.Machine.execSrc3 neg abs x s
  | .modh f => Sys2Proof.Machine.execModh f s
  | .rep n d a b => Sys2Proof.Machine.execRep n d a b s
  | .sched stall yld reuse => Sys2Proof.Machine.execSched stall yld reuse s
  | .live l => Sys2Proof.Machine.execLive l s
  | .landing w => Sys2Proof.Machine.execLanding w s
  | .missDataArrival g => Sys2Proof.Machine.execMissDataArrival g s
  | .groupExitComplete g => Sys2Proof.Machine.execGroupExitComplete g s
  | .faultEntryWrite p stage2 => Sys2Proof.Machine.execFaultEntryWrite p stage2 s
  | .xlatFq1Resolve p v => Sys2Proof.Machine.execXlatFq1Resolve p v s
  | .xlatFq2Resolve p v => Sys2Proof.Machine.execXlatFq2Resolve p v s
  | .faultReplay g => Sys2Proof.Machine.execFaultReplay g s
  | .xlatInval1 p v => Sys2Proof.Machine.execXlatInval1 p v s
  | .xlatInval2 p v => Sys2Proof.Machine.execXlatInval2 p v s
  | .xlatS1root p v => Sys2Proof.Machine.execXlatS1root p v s
  | .xlatS2root p v => Sys2Proof.Machine.execXlatS2root p v s
  | .invalidationComplete p stage2 => Sys2Proof.Machine.execInvalidationComplete p stage2 s
  | .l2schedLoad p => Sys2Proof.Machine.execL2schedLoad p s
  | .leaseReq p region => Sys2Proof.Machine.execLeaseReq p region s
  | .leaseGrant p region => Sys2Proof.Machine.execLeaseGrant p region s
  | .leaseDeny p region => Sys2Proof.Machine.execLeaseDeny p region s
  | .leaseRecall p region => Sys2Proof.Machine.execLeaseRecall p region s
  | .leaseAck p region => Sys2Proof.Machine.execLeaseAck p region s
  | .leaseRelease p region => Sys2Proof.Machine.execLeaseRelease p region s
  | .leaseTimeout p region => Sys2Proof.Machine.execLeaseTimeout p region s
  | .engineEnqueue g => Sys2Proof.Machine.execEngineEnqueue g s
  | .stairExecute c => Sys2Proof.Machine.execStairExecute c s
  | .stairgExecute c => Sys2Proof.Machine.execStairgExecute c s
  | .hoistExecute c => Sys2Proof.Machine.execHoistExecute c s
  | .braidExecute c => Sys2Proof.Machine.execBraidExecute c s
  | .braidMatch c => Sys2Proof.Machine.execBraidMatch c s
  | .braidTimeout c => Sys2Proof.Machine.execBraidTimeout c s
  | .braidAbort c => Sys2Proof.Machine.execBraidAbort c s
  | .cmprExecute c => Sys2Proof.Machine.execCmprExecute c s
  | .dcmpExecute c => Sys2Proof.Machine.execDcmpExecute c s
  | .knotDecrement c => Sys2Proof.Machine.execKnotDecrement c s
  | .matrixBeat g => Sys2Proof.Machine.execMatrixBeat g s
  | .schedFoyerrec p v => Sys2Proof.Machine.execSchedFoyerrec p v s
  | .teamAdmit p => Sys2Proof.Machine.execTeamAdmit p s
  | .teamRelease t => Sys2Proof.Machine.execTeamRelease t s
  | .strandOverdue g k => Sys2Proof.Machine.execStrandOverdue g k s
  | .lldWindowEnd h hits => Sys2Proof.Machine.execLldWindowEnd h hits s
  | .autoPreempt p => Sys2Proof.Machine.execAutoPreempt p s
  | .deadlineExpiry g => Sys2Proof.Machine.execDeadlineExpiry g s
  | .teamSaveComplete t => Sys2Proof.Machine.execTeamSaveComplete t s
  | .wedgeTimeout t => Sys2Proof.Machine.execWedgeTimeout t s
  | .ownParkactKill p serial => Sys2Proof.Machine.execOwnParkactKill p serial s
  | .ownParkactResume p serial => Sys2Proof.Machine.execOwnParkactResume p serial s
  | .resetComplete p => Sys2Proof.Machine.execResetComplete p s
  | .migFlushComplete p => Sys2Proof.Machine.execMigFlushComplete p s
  | .spareSubstitute h => Sys2Proof.Machine.execSpareSubstitute h s
  | .revokeErase slot => Sys2Proof.Machine.execRevokeErase slot s
  | .holdComplete p => Sys2Proof.Machine.execHoldComplete p s
  | .holdTimeExpiry p => Sys2Proof.Machine.execHoldTimeExpiry p s
  | .ntStorePerformed g n sc => Sys2Proof.Machine.execNtStorePerformed g n sc s
  | .engineSectorCommit c => Sys2Proof.Machine.execEngineSectorCommit c s
  | .exit => Sys2Proof.Machine.execExit s
  | .yield => Sys2Proof.Machine.execYield s
  | .pyield => Sys2Proof.Machine.execPyield s
  | .region => Sys2Proof.Machine.execRegion s
  | .tret => Sys2Proof.Machine.execTret s
  | .emuret => Sys2Proof.Machine.execEmuret s
  | .waitw => Sys2Proof.Machine.execWaitw s
  | .walkStart => Sys2Proof.Machine.execWalkStart s
  | .walkComplete => Sys2Proof.Machine.execWalkComplete s
  | .hostWrite => Sys2Proof.Machine.execHostWrite s
  | .parkNotice => Sys2Proof.Machine.execParkNotice s
  | .mgmtInspid => Sys2Proof.Machine.execMgmtInspid s
  | .inspectionComplete => Sys2Proof.Machine.execInspectionComplete s
  | .mgmtReset => Sys2Proof.Machine.execMgmtReset s
  | .partCreate => Sys2Proof.Machine.execPartCreate s
  | .partDestroy => Sys2Proof.Machine.execPartDestroy s
  | .ccSlotassign => Sys2Proof.Machine.execCcSlotassign s
  | .ccSlotfree => Sys2Proof.Machine.execCcSlotfree s
  | .migFlushgo => Sys2Proof.Machine.execMigFlushgo s
  | .migTrackOn => Sys2Proof.Machine.execMigTrackOn s
  | .migTrackOff => Sys2Proof.Machine.execMigTrackOff s
  | .bwEpoch => Sys2Proof.Machine.execBwEpoch s
  | .energyRefill => Sys2Proof.Machine.execEnergyRefill s
  | .ageReplan => Sys2Proof.Machine.execAgeReplan s
  | .replayRecord => Sys2Proof.Machine.execReplayRecord s
  | .replayRerun => Sys2Proof.Machine.execReplayRerun s
  | .replayOff => Sys2Proof.Machine.execReplayOff s
  | .keyExchange => Sys2Proof.Machine.execKeyExchange s
  | .heartbeat => Sys2Proof.Machine.execHeartbeat s
  | .heartbeatTimeout => Sys2Proof.Machine.execHeartbeatTimeout s
  | .keySet => Sys2Proof.Machine.execKeySet s
  | .keyRevoke => Sys2Proof.Machine.execKeyRevoke s
  | .keyQuery => Sys2Proof.Machine.execKeyQuery s
  | .keyProg => Sys2Proof.Machine.execKeyProg s
  | .kSetGo => Sys2Proof.Machine.execKSetGo s
  | .kSetStop => Sys2Proof.Machine.execKSetStop s
  | .getMeasurements => Sys2Proof.Machine.execGetMeasurements s
  | .flitRetry => Sys2Proof.Machine.execFlitRetry s
  | .portFailover => Sys2Proof.Machine.execPortFailover s
  | .ropeUnreachableTimeout => Sys2Proof.Machine.execRopeUnreachableTimeout s
  | .registerWrite => Sys2Proof.Machine.execRegisterWrite s
  | .partRegisterWrite => Sys2Proof.Machine.execPartRegisterWrite s

end Sys2Proof.Machine
end

