-- ==== Sys2Proof/Machine/Select.lean ====
section
/-! DEFINITION. What moves next (log 8): the strand each bay issues (R71, R378, R379), the events that are due,
the choice among them, and the word a strand fetches. -/

namespace Sys2Proof.Machine

/-- R62: the bay of a group within its hall. -/
def Group.bay (g : Group) : Nat := g.id % 4

/-- The hall and bay of a group. -/
def State.bayOf (s : State) (g : Group) : Option (Nat × Nat) := (s.teamOf g).map fun t => (t.hall, g.bay)

/-- R160: a strand of the group waits for an entry of the full operand log, which stalls the group. -/
def Group.stalled (g : Group) : Bool := g.ctl.entries.any fun x => x.any fun e => e.wait == .logFull

/-- R242: a strand may issue while an APPEND of its group stands between two tiles only when the APPEND is its own. -/
def Group.mayGo (g : Group) (e : Entry) : Bool := !g.midWord || !e.appended.isEmpty

/-- R160, R378: the ready strands of a group. -/
def State.readyOf (s : State) (g : Group) : List (Fin 8) :=
  if s.canRun g && !g.stalled then g.ctl.indexes fun e => e.isReady g && g.mayGo e else []

/-- A strand that may issue: the group, the strand, its hall and bay. -/
structure Ready where
  group : Nat
  strand : Fin 8
  hall : Nat
  bay : Nat
deriving DecidableEq, Repr

/-- Every ready strand, by group and strand. -/
def State.ready (s : State) : List Ready :=
  s.groups.zipIdx.flatMap fun x =>
    match s.readyOf x.1, s.bayOf x.1 with
    | [], _ => []
    | ks, some (h, b) => ks.map fun k => { group := x.2, strand := k, hall := h, bay := b }
    | _, none => []

/-- R71: the word that follows the pending hints at a reference reads a latch. -/
def Part.readsLatch (p : Part) : Nat → CodeRef → List Word → Bool
  | 0, _, _ => false
  | fuel + 1, r, hints =>
    match (p.codeWord r).map decode with
    | some (.ok i) =>
      match i.hintKind with
      | some _ => p.readsLatch fuel (r.add 4) (hints ++ [(encode i).getD 0])
      | none =>
        let srcs := i.uses.src.map (fun x => x.1) ++ (match (HintSet.of hints).src3 with
          | some (_, _, y) => [y]
          | none => [])
        srcs.any fun x => match x with
          | .latch _ => true
          | _ => false
    | _ => false

/-- The team, partition and entry of a ready strand. -/
def State.readyCx (s : State) (r : Ready) : Option (Group × Team × Part × Entry) :=
  match s.groups[r.group]? with
  | none => none
  | some g =>
    match s.teamOf g with
    | none => none
    | some t =>
      match s.part? t.part, g.ctl.get r.strand with
      | some p, some e => some (g, t, p, e)
      | _, _ => none

/-- R71: the group that a bay issued for last. -/
def State.bayLast (s : State) (hall bay : Nat) : Option Nat := ((s.halls[hall]?).bind fun h => h.bays.toList[bay]?).join

/-- R71: a reader of a latch keeps its bay while it is ready, and while it waits for an operand, for an access of its group, or for its
own access. -/
def Wait.keepsBay : Wait → Bool
  | .ready => true
  | .missRead => true
  | .lateWrite => true
  | .fault => true
  | .walk => true
  | .chain => true
  | .logFull => true
  | _ => false

/-- R71: the strand that issued last in a bay, where its next word reads a latch: it keeps the bay. -/
def State.bayKeeper (s : State) (hall bay : Nat) : Option (Ready × Wait) :=
  match s.bayLast hall bay with
  | none => none
  | some gi =>
    match s.groups[gi]? with
    | none => none
    | some g =>
      let r : Ready := { group := gi, strand := g.ctl.cur, hall := hall, bay := bay }
      match s.readyCx r with
      | some (_, _, p, e) =>
        if s.canRun g && s.bayOf g == some (hall, bay) && e.kind == .strand && e.wait.keepsBay && p.readsLatch 4 e.pc e.hints then
          some (r, e.wait)
        else none
      | none => none

/-- R71: the bay of a strand is kept by another. One that waits for the data of a load's other lanes lets the strand of those lanes reach it
(R148). -/
def State.barred (s : State) (r : Ready) : Bool :=
  (s.bayKeeper r.hall r.bay).any fun x => x.1 != r && !(x.2 == .missRead && x.1.group == r.group)

/-- R378 rule 2: the priority class. -/
def Team.class_ (t : Team) : Nat := if t.foyer then 8 else t.prio

/-- R378: `a` goes before `b` in one bay: overdue, class, age, round robin. -/
def State.before (s : State) (a b : Ready) : Bool :=
  match s.readyCx a, s.readyCx b with
  | some (ga, ta, _, ea), some (gb, tb, _, eb) =>
    match ea.overdue, eb.overdue with
    | some x, some y => x < y
    | some _, none => true
    | none, some _ => false
    | none, none =>
      if ta.class_ != tb.class_ then tb.class_ < ta.class_
      else if a.group != b.group then
        if ga.age != gb.age then ga.age < gb.age else a.group < b.group
      else (a.strand.val + 7 - ga.ctl.cur.val) % 8 < (b.strand.val + 7 - gb.ctl.cur.val) % 8
  | _, _ => false

/-- R379: the word a strand would issue is a load of a throttled group. -/
def State.throttled (s : State) (r : Ready) : Bool :=
  match s.readyCx r, s.halls[r.hall]? with
  | some (g, t, p, e), some h =>
    let others := s.groups.zipIdx.filter fun x =>
      x.1.phase != .exited && (s.teamOf x.1).any fun u => u.phase == .resident && u.hall == r.hall && !u.foyer &&
        (t.class_ < u.class_ || (t.class_ == u.class_ && (x.1.age < g.age || (x.1.age == g.age && x.2 < r.group))))
    !t.foyer && h.allowed ≤ others.length &&
      (match (p.codeWord e.pc).map decode with
       | some (.ok (.ld _)) => true
       | some (.ok (.sld _ _ _ _)) => true
       | some (.ok (.ldp _)) => true
       | some (.ok (.pfetch _ _)) => true
       | _ => false)
  | _, _ => false

/-- R415: the word a strand would issue is a global access of a partition that a request limit of the hall may hold. -/
def State.limited (s : State) (r : Ready) : Bool :=
  match s.readyCx r, s.halls[r.hall]? with
  | some (_, _, p, e), some h =>
    (h.limits.any fun x => x.part == p.id) &&
      (match (p.codeWord e.pc).map decode with
       | some (.ok i) => i.isAtom || (match i with
         | .ld _ => true
         | .sld _ _ _ _ => true
         | .st _ => true
         | .pfetch _ _ => true
         | _ => false)
       | _ => false)
  | _, _ => false

/-- R378: the operands of a strand that waits for nothing are available, its stall count has run out and its unit is free: timing, a
free value (log 8). R379, R415: another says that the last load of a throttled group is old enough, and that a request limit lets the word go. -/
def State.mayIssue (s : State) (r : Ready) : Bool :=
  Config.freePick s.free (8 * (8 * r.group + r.strand.val) + 4) % 2 == 0 &&
    ((!s.throttled r && !s.limited r) || Config.freePick s.free (8 * r.group + 5) % 2 == 0)

/-- R378: what one bay issues, of the strands whose operands and unit are there. -/
def State.bayPick (s : State) (rs : List Ready) : Option Ready :=
  match rs with
  | [] => none
  | r :: rest => some (rest.foldl (fun best x => if s.before x best then x else best) r)

/-- R378: what the bays issue of some ready strands, those of which `may` says that their operands and unit are there. -/
def State.issuesOf (s : State) (may : Ready → Bool) (rs : List Ready) : List Ready :=
  (nub (rs.map fun r => 4 * r.hall + r.bay)).filterMap fun b => s.bayPick ((rs.filter fun r => 4 * r.hall + r.bay == b).filter may)

/-- R71: the bays that can issue and what each issues, of the ready strands whose bay no other keeps: of one, that strand. When none can
yet, time passes until all can. -/
def State.issues (s : State) : List Ready :=
  match s.ready.filter fun r => !s.barred r with
  | [] => []
  | [r] => [r]
  | rs =>
    match s.issuesOf s.mayIssue rs with
    | [] => s.issuesOf (fun _ => true) rs
    | ws => ws

/-- R378: the strands that may become overdue: ready, and not alone, or kept from their bay. -/
def State.mayBeLate (s : State) : List Ready :=
  match s.ready with
  | [] => []
  | [r] => if s.barred r && ((s.readyCx r).any fun x => x.2.2.2.overdue.isNone) then [r] else []
  | rs => rs.filter fun r => (s.readyCx r).any fun x => x.2.2.2.overdue.isNone

/-- One move of the machine. -/
inductive Move
  | event (e : Instr)
  | word (r : Ready)
deriving DecidableEq, Repr

/-- R71, R72: the bay issues for a group and strand: the latches of the group that it leaves are lost, and those of a group whose strand is
not the one that issued last. A group that a save or TRET gave its latches back, and that has issued nothing since, keeps them. -/
def State.takeBay (s : State) (r : Ready) : State :=
  let lose := fun g : Group => { g with regs := g.regs.loseLatches }
  let last := s.bayLast r.hall r.bay
  let s1 := if last == some r.group then s
    else
      (match last with
       | some old => s.updGroup old lose
       | none => s).updHall r.hall fun h => { h with bays := h.bays.setIfInBounds r.bay (some r.group) }
  if (s.groups[r.group]?).any fun g => g.ctl.cur != r.strand then s1.updGroup r.group lose else s1

/-- R378: the strand is the one that issues; it is overdue no more. -/
def State.select (s : State) (r : Ready) : State :=
  let s1 := (s.takeBay r).updGroup r.group fun g =>
    Group.setEntry r.strand (fun e => { e with overdue := none }) { g with ctl := { g.ctl with cur := r.strand } }
  { s1 with cur := some r.group }

/-- What a strand fetches: its word's instruction, a word that is none here, or nothing at its address. -/
inductive Fetched
  | instr (i : Instr)
  | noInstr (w : Word)
  | outside
deriving DecidableEq, Repr

/-- R58, R96, R119: the word at a strand's address. The compatibility flag that its decoding takes is that of the header of the team's launch,
in every object that the team's groups execute, DESIGN CHOICE (log 59). -/
def Cx.fetch (c : Cx) : Fetched :=
  match c.p.codeWord c.e.pc with
  | none => .outside
  | some w =>
    match decodeFor c.t.hdr.compat w with
    | .ok i => .instr i
    | .error _ => .noInstr w

/-- R167: a strand whose address lies outside the code region raises ACCESS there. -/
def State.fetchFault (s : State) (c : Cx) : State := s.trap c 0 .access 0 c.e.pc.bits 0

end Sys2Proof.Machine
end

