-- ==== Sys2Proof/Machine/Ready.lean ====
section
/-! DEFINITION. Which due events may happen now (log 7), the moves of the machine, the choice among them (log 8), and the machine
that a fetched word is placed in. -/

namespace Sys2Proof.Machine

/-- R310: no walk of a partition is queued or runs. -/
def State.walksDone (s : State) (pid : Nat) : Bool := !(s.part? pid).any fun p => p.xlat.walks.any fun w => w.phase != .lease

/-- R307, R310, R436: a command may start, or go on; none of a held partition, whose keys are suspended. -/
def State.cmdReady (s : State) (ci : Nat) : Bool :=
  match s.cmds[ci]? with
  | none => false
  | some c =>
    match c.phase with
    | .queued => s.mayStart ci
    | .running => s.walksDone c.part
    | .waitFault _ _ (some _) => (s.part? c.part).any fun p => p.ctxState != 3
    | _ => false

/-- R381: a save request stands for a group of a resident team. -/
def State.deadlineRuns (s : State) (gi : Nat) : Bool :=
  (s.groups[gi]?).any fun g => g.ctrl.preq && g.unsaved && g.whole && (s.teamOf g).any fun t => t.phase == .resident

/-- R395: a team's save is late. -/
def State.wedged (s : State) (ti : Nat) : Bool :=
  (s.teams[ti]?).any fun t => t.phase == .resident && t.groups.any fun gi => (s.groups[gi]?).any fun g => g.late && g.unsaved

/-- R436: a hold can ask its teams to save, or end. -/
def State.holdReady (s : State) (pid : Nat) : Bool :=
  let ts := s.residentTeams pid
  (ts.isEmpty && s.writesDone pid) || ts.any fun x => !x.2.requested

/-- R242, R344, R354: the next event of a group's chain may happen, but not between two tiles of an APPEND: also while the group is parked, when
no strand waits for it. -/
def State.chainReady (s : State) (gi : Nat) : Bool :=
  (s.who? gi).any fun w => w.g.chain.any fun ch =>
    w.g.saved.isNone && !w.g.midWord && (w.g.phase == .running || (w.g.freeChain && !w.g.gone)) && s.beatReady w ch

/-- R264: the partition of a write to a root or an invalidation register. -/
def xlatWrite (e : Instr) : Option Nat :=
  match e with
  | .xlatS1root p _ => some p
  | .xlatS2root p _ => some p
  | .xlatInval1 p _ => some p
  | .xlatInval2 p _ => some p
  | _ => none

/-- R264: a partition's writes to its roots and invalidation registers take effect in the order in which they were made. -/
def State.firstXlat (s : State) (p : Nat) (e : Instr) : Bool := (s.events.find? fun x => xlatWrite x == some p) == some e

/-- An event that is due may happen now; those that time or the outside bring may happen at any time. -/
def State.eventReady (s : State) (e : Instr) : Bool :=
  match e with
  | .missDataArrival g => (s.groups[g]?).any fun g => g.awaitsData && g.saved.isNone
  | .groupExitComplete g =>
    (s.groups[g]?).any fun g => g.phase == .running && g.saved.isNone && g.ctl.live == 0 && g.activeLog.isEmpty && g.chain.isNone
  | .faultEntryWrite p st2 =>
    (s.part? p).any fun q => !(q.fq st2).waiting.isEmpty && (q.fq st2).room && (s.faultSlot q st2).isSome
  | .faultReplay g => (s.who? g).any fun w => w.mayReplay && !s.replayWaits w && s.walksDone w.p.id
  | .walkStart => s.walkersBusy < 64 && s.walkNext.isSome
  | .walkComplete => !s.runningWalks.isEmpty
  | .invalidationComplete p st2 =>
    (s.part? p).any fun q => (if st2 then q.xlat.inval2Due else q.xlat.inval1Due) != 0 && !s.accessesRun p && !(st2 && s.recalling p)
  | .xlatS1root p _ => s.firstXlat p e
  | .xlatS2root p _ => s.firstXlat p e
  | .xlatInval1 p _ => s.firstXlat p e
  | .xlatInval2 p _ => s.firstXlat p e
  | .schedFoyerrec p v => (s.part? p).all fun q => s.foyerRoom q v.toNat
  | .leaseReq p r => !(s.leaseWalks p r).isEmpty || s.mayGrant p r
  | .leaseAck p _ => !s.accessesRun p
  | .leaseRelease p r => !s.leaseBusy p r
  | .stairExecute c => s.cmdReady c
  | .stairgExecute c => s.cmdReady c
  | .hoistExecute c => s.cmdReady c
  | .cmprExecute c => s.cmdReady c
  | .dcmpExecute c => s.cmdReady c
  | .braidMatch c => s.cmdReady c
  | .braidExecute c => s.cmdReady c
  | .knotDecrement c => (s.cmds[c]?).any fun c => c.phase == .decrement
  | .engineSectorCommit c => (s.cmds[c]?).any fun c => !c.pending.isEmpty && c.phase == .writing
  | .matrixBeat g => s.chainReady g
  | .teamAdmit p => (s.part? p).any fun q => (s.nextAdmit q).isSome
  | .autoPreempt p => (s.part? p).any fun q => (s.autoTarget q).isSome
  | .deadlineExpiry g => s.deadlineRuns g
  | .teamSaveComplete t => (s.teams[t]?).any fun x => x.phase == .resident && s.allSaved x && !s.stairRuns t
  | .wedgeTimeout t => s.wedged t
  | .teamRelease t => s.teamFinished t
  | .parkNotice => !s.mgmt.parkWaiting.isEmpty && s.mgmt.parkRoom
  | .resetComplete p => s.resetReady p
  | .migFlushComplete p => (s.part? p).any s.flushReady
  | .spareSubstitute h => (s.halls[h]?).any fun x => x.retiring && s.hallEmpty h
  | .revokeErase n => (s.keys[n]?).all s.mayErase
  | .holdComplete p => (s.part? p).any fun q => q.cc.holdState == 1 && s.holdReady p
  | _ => true

/-- What the device does at once: a group whose strands all wait, or that has parked, is saved when its save is requested (R381); objects
are retired (R131); a partition that holds no context is in state 0 (R460); a team that waits for energy is noted (R443). -/
def State.settle (s : State) : State :=
  let s1 := (List.range s.groups.length).foldl State.quiesce s
  s1.parts.foldl (fun s p => ((s.unpin p.id).settleCtx p.id).noteWait p.id) s1

/-- Every move that may come next. -/
def State.moves (s : State) : List Move :=
  (s.events.filter s.eventReady).map .event ++ s.mayBeLate.map (fun r => .event (.strandOverdue r.group r.strand.val)) ++ s.issues.map .word

/-- How many things could move, timing left aside. -/
def State.movers (s : State) : Nat := (s.events.filter s.eventReady).length + s.ready.length

/-- The move that comes next, whichever the device takes. -/
def State.nextMove (s : State) : Option Move :=
  match s.moves with
  | [] => none
  | [m] => some m
  | m :: rest => some ((m :: rest).getD (Config.freePick s.free 3 % (rest.length + 1)) m)

/-- R452: what the reads of the next move cannot reach. -/
def State.reachNow (s : State) : State := { s with outNow := s.timedOut, timedOut := [] }

/-- The state in which the chosen move is made: an event is no longer due, a strand is selected; the free value is spent where there was
a choice. -/
def State.toMove (s : State) (m : Move) : State :=
  let s1 := (if s.movers = 1 then s else s.spend).reachNow
  match m with
  | .event e => s1.undue e
  | .word r => s1.select r

/-- R58, R96, R167: what the selected strand issues: an instruction, a word that lands, or none, when it has no word. -/
def State.fetched (s : State) : Option Instr :=
  match s.cx? with
  | none => none
  | some c =>
    match c.fetch with
    | .instr i => some i
    | .noInstr w => some (.landing w)
    | .outside => none

/-- R167: a strand outside its code region raises ACCESS there. -/
def State.outsideCode (s : State) : Host.Outcome State Fault Refusal :=
  match s.cx? with
  | none => .fault .noGroup
  | some c => .next (s.fetchFault c)

/-! ### A machine that issues one word (the host's test) -/

/-- A header with every budget of R124 at its largest. -/
def openHeader : Header :=
  { major := 2, minor := 3, compat := false, landing := false, carryTrap := false, replay := false, regions := false, pregs := 0, cregs := 128,
    pgroups := 0, cgroups := 1, sregs := 48, xp := 0, priv := 0, scratch := 32768, tiles := 256, slots := 4, reserve := 0, quota := 8192,
    knots := 256, barriers := 16, traps := 0, energy := 0, emuBytes := 0, maxK := 0 }

/-- An object of 64 bytes for a header, one word, and words of zeros. -/
def wordObject (w : Word) : CodeObject :=
  { id := 1, code := List.replicate 64 0 ++ [w.byteAt 0, w.byteAt 1, w.byteAt 2, w.byteAt 3] ++ List.replicate 12 0, headers := [0], digest := 0, auth := .owner,
    hold := true, binds := 0, retiring := false, retired := false, grace := [], energies := [] }

/-- R10: a tag whose contexts may execute an instruction. -/
def tagFor (i : Option Instr) : Authority :=
  match i with
  | some (.preempt _ _ _) => .operator
  | some (.pcancel _ _) => .operator
  | some (.place _ _ _) => .operator
  | some (.exportCtx _ _) => .operator
  | some (.importCtx _ _) => .operator
  | _ => .owner

/-- A running partition that holds every engine, hall 0, and the object of a word. -/
def wordPart (w : Word) (tag : Authority) : Part :=
  { Part.fresh 0 tag false with
    ctxState := 1, halls := [0], objects := [wordObject w], nextObj := 2,
    sched := { PartSched.fresh with foyerState := 1, foyerTeam := some 0 },
    cfg := { PartCfg.fresh tag false with hoistMask := 0xFFFFFFFF, braidMask := 0xFFFF, cmprMask := 0xFF } }

/-- The foyer's team that issues the word. -/
def wordPlan : Plan :=
  { part := 0, hdr := openHeader, ref := { obj := 1, off := 0 }, grid := none, teamId := 0, prio := 7, foyer := true, privArea := 0,
    saveArea := 0x100000, frame := 0, args := 0, teams := 1 }

/-- A state whose only strand is about to issue a word. -/
def State.placeWord (s : State) (w : Word) : State :=
  let tag := tagFor (match decode w with
    | .ok i => some i
    | .error _ => none)
  ({ s with parts := [wordPart w tag], teams := [], groups := [], grids := [], cmds := [], events := [], cur := none }.startTeam wordPlan 0 0 20000)

end Sys2Proof.Machine
end

