-- ==== Sys2Proof/Machine/Step.lean ====
section
/-! DEFINITION. One step: the machine makes one move (R4, log 8). -/

namespace Sys2Proof.Machine

/-- A chosen move is made: an event that is due happens, or a strand issues the word it fetches. -/
def State.makeMove (s : State) (m : Move) : Host.Outcome State Fault Refusal :=
  match m with
  | .event e => exec e (s.toMove m)
  | .word _ =>
    match (s.toMove m).fetched with
    | some i => exec i (s.toMove m)
    | none => (s.toMove m).outsideCode

/-- One step: what the device does at once, and one move. -/
def step (s : State) : Host.Outcome State Fault Refusal :=
  match s.settle.nextMove with
  | none => .fault .idle
  | some m => s.settle.makeMove m

/-- The state whose next step fetches and runs the instruction of a word: the foyer of an owner's partition is about to issue
it (log 7). -/
def State.withFetchWord (s : State) (nbits w : Nat) : State := s.placeWord (tableWord nbits w)

end Sys2Proof.Machine
end

