-- ==== Sys2Proof/Safety.lean ====
section
/-! DEFINITION. What statements about the machine speak of: the outcome of a word that completes, what it leaves
unchanged, and the conditions a word issues under. -/

namespace Sys2Proof.Machine

/-! ### The conditions of a word -/

/-- R97: the word passes every check, and nothing it needs is pending. -/
def Cx.clear (c : Cx) (i : Instr) : Prop := c.check i = .go

/-- R73: no hint stands before the word. -/
def Cx.plain (c : Cx) : Prop := c.e.hints = []

/-! ### A word that retires -/

/-- R80, R146 to R148: the strand table after the word of the current strand. -/
def Cx.tableAfter (c : Cx) : Control × Bool := (c.g.ctl.put c.k (some (Entry.done c.repeats c.e))).settle settleFuel false

/-- R71, R80, R146 to R148: the strand table after a transfer of the current strand. -/
def Cx.tableAt (c : Cx) (dst : CodeRef) : Control × Bool := (c.g.ctl.put c.k (some (Entry.jump dst c.e))).settle settleFuel false

/-- R71: registers whose latches are lost when strands fuse. -/
def Regs.fusedIf (b : Bool) (r : Regs) : Regs := if b then r.loseLatches else r

/-- R79: the age of the context's group after a word: a SCHED hint may yield the group. -/
def State.ageAfter (s : State) (c : Cx) : Nat := if c.hs.yields && c.repeats ≤ c.e.rpt + 1 then s.youngest else c.g.age

/-- R203, R403: the group of the context becomes `g`, and one word has issued and retired; nothing else changes: no
memory, no commit, no other group, no team, no event. -/
structure OnlyGroup (s t : State) (c : Cx) (g : Group) : Prop where
  group : t.groups[c.gi]? = some g
  others : ∀ j, j ≠ c.gi → t.groups[j]? = s.groups[j]?
  rest : t = { s with groups := t.groups, parts := (s.countRetired c.p.id).parts }

/-- A word retires with registers `r` and control registers `x`, its strand goes on at the next word, and all else of the
group and of the machine stays. -/
def WordDone (s t : State) (c : Cx) (r : Regs) (x : Ctrl) : Prop :=
  OnlyGroup s t c
    { c.g with regs := r.fusedIf c.tableAfter.2, ctrl := x, ctl := c.tableAfter.1, retire := c.g.retire + 1, age := s.ageAfter c }

/-- A word retires by a transfer of its strand to `dst`, which invalidates the latches. -/
def WordJumps (s t : State) (c : Cx) (r : Regs) (dst : CodeRef) : Prop :=
  OnlyGroup s t c
    { c.g with regs := r.loseLatches, ctl := (c.tableAt dst).1, retire := c.g.retire + 1, age := s.ageAfter c }

/-! ### Register results -/

/-- R68, R70, R219: the registers after a 32-bit lane result: the destination in the lanes of the mask, unless the word
does not write back; the newest latch; every other register as before. -/
structure LaneWritten (r r' : Regs) (nw : Bool) (d : VReg) (m : LaneMask) (res : Nat → Word) : Prop where
  dest : ∀ l, l < 32 →
    Lanes.at (r'.vreg d.toNat) l = if !nw && m.getLsbD l then res l else Lanes.at (r.vreg d.toNat) l
  others : ∀ n, n ≠ d.toNat → r'.vreg n = r.vreg n
  latch : ∀ l, l < 32 →
    Lanes.at r'.b[0] l = pairOf (if m.getLsbD l then res l else Lanes.at (r.vreg d.toNat) l) 0
  older : r'.b[1] = r.b[0] ∧ r'.b[2] = r.b[1] ∧ r'.b[3] = r.b[2]
  valid : r'.bOk = #v[true, r.bOk[0], r.bOk[1], r.bOk[2]]
  rest : r' = { r with v := r'.v, b := r'.b, bOk := r'.bOk }

/-- R65, R70: the registers after a 64-bit lane result into an even pair. -/
structure PairWritten (r r' : Regs) (nw : Bool) (d : VReg) (m : LaneMask) (res : Nat → DWord) : Prop where
  low : ∀ l, l < 32 →
    Lanes.at (r'.vreg d.toNat) l = if !nw && m.getLsbD l then loWord (res l) else Lanes.at (r.vreg d.toNat) l
  high : ∀ l, l < 32 →
    Lanes.at (r'.vreg (d.toNat + 1)) l = if !nw && m.getLsbD l then hiWord (res l) else Lanes.at (r.vreg (d.toNat + 1)) l
  others : ∀ n, n ≠ d.toNat → n ≠ d.toNat + 1 → r'.vreg n = r.vreg n
  latch : ∀ l, l < 32 →
    Lanes.at r'.b[0] l =
      if m.getLsbD l then res l else pairOf (Lanes.at (r.vreg d.toNat) l) (Lanes.at (r.vreg (d.toNat + 1)) l)
  older : r'.b[1] = r.b[0] ∧ r'.b[2] = r.b[1] ∧ r'.b[3] = r.b[2]
  valid : r'.bOk = #v[true, r.bOk[0], r.bOk[1], r.bOk[2]]
  rest : r' = { r with v := r'.v, b := r'.b, bOk := r'.bOk }

/-- R164: the registers after a scalar result. -/
structure ScalarWritten (r r' : Regs) (d : SReg) (x : Word) : Prop where
  dest : r'.sreg d.val = x
  others : ∀ n, n ≠ d.val → r'.sreg n = r.sreg n
  rest : r' = { r with s := r'.s }

/-- R65, R164: the registers after a 64-bit scalar result. -/
structure ScalarPairWritten (r r' : Regs) (d : SReg) (x : DWord) : Prop where
  low : r'.sreg d.val = loWord x
  high : r'.sreg (d.val + 1) = hiWord x
  others : ∀ n, n ≠ d.val → n ≠ d.val + 1 → r'.sreg n = r.sreg n
  rest : r' = { r with s := r'.s }

/-! ### Completion -/

/-- A 32-bit lane word completes with result `res` in the lanes of `m`, and changes nothing but its destination, the
latches, the strand's place and the counts. -/
def LaneDone (o : Host.Outcome State Fault Refusal) (s : State) (c : Cx) (nw : Bool) (d : VReg) (m : LaneMask)
    (res : Nat → Word) : Prop :=
  ∃ t r, o = .next t ∧ WordDone s t c r c.g.ctrl ∧ LaneWritten c.g.regs r nw d m res

/-- A 64-bit lane word completes. -/
def PairDone (o : Host.Outcome State Fault Refusal) (s : State) (c : Cx) (nw : Bool) (d : VReg) (m : LaneMask)
    (res : Nat → DWord) : Prop :=
  ∃ t r, o = .next t ∧ WordDone s t c r c.g.ctrl ∧ PairWritten c.g.regs r nw d m res

/-- R143: control registers with flags joined to FPFLAGS. -/
def Ctrl.joinFlags (x : Ctrl) (fl : FpFlags) : Ctrl := { x with fpFlags := x.fpFlags ||| fl }

/-- R143, R221: a 32-bit floating-point lane word completes: its results, and the flags of the lanes of `m` joined to
FPFLAGS. -/
def FpDone (o : Host.Outcome State Fault Refusal) (s : State) (c : Cx) (nw : Bool) (d : VReg) (m : LaneMask)
    (res : Nat → Rounded) : Prop :=
  ∃ t r, o = .next t ∧ WordDone s t c r (c.g.ctrl.joinFlags (orFlags m fun l => (res l).flags)) ∧
    LaneWritten c.g.regs r nw d m fun l => BitVec.ofNat 32 (res l).code

/-- R143, R221: a 64-bit floating-point lane word completes. -/
def FpPairDone (o : Host.Outcome State Fault Refusal) (s : State) (c : Cx) (nw : Bool) (d : VReg) (m : LaneMask)
    (res : Nat → Rounded) : Prop :=
  ∃ t r, o = .next t ∧ WordDone s t c r (c.g.ctrl.joinFlags (orFlags m fun l => (res l).flags)) ∧
    PairWritten c.g.regs r nw d m fun l => BitVec.ofNat 64 (res l).code

/-- R143: no enabled flag is raised in the lanes of a mask, so that ARITH is not raised. -/
def Cx.quiet (c : Cx) (m : LaneMask) (res : Nat → Rounded) : Prop :=
  orFlags m (fun l => (res l).flags) &&& c.g.ctrl.trapEn = 0

/-- R143, R221: a floating-point word whose lanes in `m` raise an enabled flag writes no register and joins no flag: it raises ARITH, whose
detail holds the raised flags; the faulting lanes are those that raised an enabled one (the model's choice, log 12). -/
def ArithTrap (s : State) (c : Cx) (i : Instr) (m : LaneMask) (res : Nat → Rounded) : Prop :=
  ∃ lanes : LaneMask,
    (∀ l, l < 32 → lanes.getLsbD l = (m.getLsbD l && (res l).flags &&& c.g.ctrl.trapEn != 0)) ∧
    exec i s = .next (s.trap c (wordOfInstr i) .arith ((orFlags m fun l => (res l).flags).zeroExtend 32) 0 lanes)

/-- A scalar word completes with `x` in its destination. -/
def ScalarDone (o : Host.Outcome State Fault Refusal) (s : State) (c : Cx) (d : SReg) (x : Word) : Prop :=
  ∃ t r, o = .next t ∧ WordDone s t c r c.g.ctrl ∧ ScalarWritten c.g.regs r d x

/-- A 64-bit scalar word completes. -/
def ScalarPairDone (o : Host.Outcome State Fault Refusal) (s : State) (c : Cx) (d : SReg) (x : DWord) : Prop :=
  ∃ t r, o = .next t ∧ WordDone s t c r c.g.ctrl ∧ ScalarPairWritten c.g.regs r d x

/-- A word completes and changes no register. -/
def Passes (o : Host.Outcome State Fault Refusal) (s : State) (c : Cx) : Prop :=
  ∃ t, o = .next t ∧ WordDone s t c c.g.regs c.g.ctrl

/-- R167: a word transfers its strand to `dst` and changes no register but the latches' validity. -/
def Jumps (o : Host.Outcome State Fault Refusal) (s : State) (c : Cx) (dst : CodeRef) : Prop :=
  ∃ t, o = .next t ∧ WordJumps s t c c.g.regs dst

/-! ### Accesses to memory -/

/-- R273: the operands of an access through a translation base register, in the lanes of a mask. -/
structure Through (o : Operands) (c : Cx) (m : LaneMask) (tb : BitVec 3) (x : Src) (off : Int) : Prop where
  act : o.act = m
  index : ∀ l, l < 32 → Lanes.at o.x l = c.src x l
  off : o.off = off
  tb : o.tb = c.g.regs.tbReg tb

/-- R273: the address of a lane of an access through a translation base register. -/
def Cx.laneAddr (c : Cx) (tb : BitVec 3) (x : Src) (off : Int) (l : Nat) : Int :=
  ((c.g.regs.tbReg tb).base.toNat : Int) + (c.src x l).toNat + off

/-- R261, R273, R274: the lanes of an access through a translation base register are aligned, their bytes, and those of a base whose frame
has been released, translate to the pieces `xs`, and `errs` finds no error in them. -/
structure Clears (s : State) (c : Cx) (i : Intent) (o : Operands) (align bytes : Nat) (errs : List Span → Errors) (xs : List Piece) : Prop where
  aligned : ∀ l, l < 32 → o.act.getLsbD l = true → ((o.tb.base.toNat : Int) + o.offset l) % (align : Int) = 0
  reaches : s.reach c.p (s.sitesOf c.t.hall) i true (globalSpans c.p i o bytes) = .ok xs
  sound : errs (globalSpans c.p i o bytes) s xs = none

/-- R261: registers whose translation base registers differ at most in the hidden frame. -/
def TbKept (r r' : Regs) : Prop :=
  ∀ i : BitVec 3, (r'.tbReg i).base = (r.tbReg i).base ∧ (r'.tbReg i).limit = (r.tbReg i).limit ∧
    (r'.tbReg i).wr = (r.tbReg i).wr ∧ (r'.tbReg i).dsc = (r.tbReg i).dsc ∧ (r'.tbReg i).shr = (r.tbReg i).shr

/-- R276, R279, R280: the registers after a lane load of `n` registers. -/
structure LoadWritten (r r' : Regs) (d : VReg) (n : Nat) (m : LaneMask) (res : Nat → List Word) : Prop where
  dest : ∀ j l, j < n → l < 32 → Lanes.at (r'.vreg (d.toNat + j)) l =
    if m.getLsbD l then (res l).getD j 0 else Lanes.at (r.vreg (d.toNat + j)) l
  others : ∀ k, k < d.toNat ∨ d.toNat + n ≤ k → r'.vreg k = r.vreg k
  tbs : TbKept r r'
  rest : r' = { r with v := r'.v, tb := r'.tb }

/-- R251, R417, R421: reading the pieces may write memory: a page of theirs is counted, some write-back is tracked, or a private line may
leave L1. -/
def State.mayWrite (s : State) (xs : List Piece) : Bool := xs.any Piece.cnt || s.tracks || s.holdsPrivate

/-- A hall without its record of lines. -/
def Hall.lineless (h : Hall) : Hall := { h with l1 := [], victims := [], lost := 0, lostWas := 0 }

/-- R247, R251, R262, R417, R421: a word that accesses memory has issued and retired, and its group is `g`. Unless its reads may write
memory, no byte of it, no commit, no other group and no team differs: only the translations and lines that the device keeps, what stands at
the system homes, and the free values used. -/
structure AccessOnly (s t : State) (c : Cx) (g : Group) (writes : Bool) : Prop where
  group : ∃ w p, t.groups[c.gi]? = some { g with watch := w, priv := p } ∧ (writes = false → w = g.watch ∧ p = g.priv)
  others : writes = false → ∀ j, j ≠ c.gi → t.groups[j]? = s.groups[j]?
  parts : writes = false → ∃ x : Part → PartXlat, t.parts = (s.countRetired c.p.id).parts.map fun p => { p with xlat := x p }
  halls : t.halls.map Hall.lineless = s.halls.map Hall.lineless
  rest : writes = false →
    t = { s with groups := t.groups, parts := t.parts, halls := t.halls, homes := t.homes, free := t.free }

/-- The context's group after a word that accesses memory and leaves registers `r`. -/
def Cx.accessed (c : Cx) (s : State) (r : Regs) : Group :=
  { c.g with regs := r.fusedIf c.tableAfter.2, ctl := c.tableAfter.1, retire := c.g.retire + 1, age := s.ageAfter c }

/-- A word that accesses memory completes with registers `r`, and its strand goes on at the next word. -/
def AccessDone (s t : State) (c : Cx) (r : Regs) (writes : Bool) : Prop := AccessOnly s t c (c.accessed s r) writes

/-- R267: no lane of a load, or every one, misses; or the device does not split it. -/
def Whole (s : State) (c : Cx) (owner : Option Nat) (spans : List Span) (m : LaneMask) (xs : List Piece) : Prop :=
  let missing := m &&& ~~~(s.hitLanes c.who owner spans xs)
  missing = 0 ∨ missing = m ∨ Config.freePick s.free c.gi % 2 = 0

/-- No write is tracked and none is protected: a commit changes the bytes it carries and no other (R421, R432). -/
def State.plainMemory (s : State) : Prop := (∀ p ∈ s.parts, p.mig.track = false ∧ p.cfg.protect = false) ∧ s.homes.seals = []

/-! ### Words that change the team -/

/-- Between two states only the context's team differs, which becomes `team`, with its hall, the free values used and the
place of the scope order. -/
structure TeamOnly (s u : State) (c : Cx) (team : Team) : Prop where
  team : u.teams[c.g.team]? = some team
  others : ∀ j, j ≠ c.g.team → u.teams[j]? = s.teams[j]?
  rest : u = { s with teams := u.teams, halls := u.halls, free := u.free, seq := u.seq }

/-- A word completes that changes its team to `team`, and no register, no other team and no byte of memory. -/
def TeamDone (o : Host.Outcome State Fault Refusal) (s : State) (c : Cx) (team : Team) : Prop :=
  ∃ u, TeamOnly s u c team ∧ Passes o u c

/-! ### Landing -/

/-- R156, R157, R188: an operand as the log entry of a landing holds it: its code, each lane's value as the source reads, the one that follows a
register and the high word of anything else, and whether a latch was valid. -/
structure Captures (c : Cx) (k : BitVec 8) (x : Captured) : Prop where
  code : x.code = k
  present : x.present = true
  low : ∀ l, l < 32 → Lanes.at x.low l = c.src (Src.ofCode k) l
  high : ∀ l, l < 32 → Lanes.at x.high l = match Src.ofCode k with
    | .v n => if n.toNat < 127 then Lanes.at (c.g.regs.vreg (n.toNat + 1)) l else 0
    | .s n => c.g.regs.sreg (n.val + 1)
    | .special _ => 0
    | y => hiWord (c.src64 y l)
  valid : x.valid = match Src.ofCode k with
    | .latch n => c.g.regs.bOk[n.toFin]
    | _ => true

/-- R156, R157: an operand that a word may lack. -/
def CapturesIf (c : Cx) (code : Option (BitVec 8)) (x : Captured) : Prop :=
  match code with
  | some k => Captures c k x
  | none => x.present = false

/-! ### Knots -/

/-- R28, R309: a strand that waits on knot `n` is given the knot's join and the status it takes; any other stays. -/
def Entry.joinsKnot (n : Nat) (kn : Knot) (e : Entry) : Entry :=
  match e.wait with
  | .knot m _ => if m = n then { e with wait := .ready, grant := some (.knot kn.scope kn.status kn.addr) } else e
  | _ => e

/-- R28, R309, R370: between `s` and `u` the count of knot `n` of team `ti` has become zero, which makes the knot `kn`: every strand of the
team's groups that waits on it is released with its join, frozen ones too; its status is cleared where some strand waited, the grids of the
foyer whose dependence it meets are told, and nothing else changes. -/
structure KnotReleased (s u : State) (ti n : Nat) (t : Team) (kn : Knot) : Prop where
  team : let waiting := t.groups.any fun gi => (s.groups[gi]?).any (Group.waitsKnot n)
    u.teams[ti]? = some { t with knots := t.knots.set n (if waiting then { kn with status := 0, addr := 0 } else kn) }
  teams : ∀ j, j ≠ ti → u.teams[j]? = s.teams[j]?
  waiters : ∀ gi g, gi ∈ t.groups → s.groups[gi]? = some g → ∃ g', u.groups[gi]? = some g' ∧ g' = { g with ctl := g'.ctl, ctxs := g'.ctxs } ∧
    (∀ k, g'.ctl.get k = (g.ctl.get k).map (Entry.joinsKnot n kn)) ∧ g'.ctl.cur = g.ctl.cur ∧ g'.ctl.serial = g.ctl.serial ∧
    ∀ (j : Nat) (x : Ctx), g.ctxs[j]? = some x → ∃ x' : Ctx, g'.ctxs[j]? = some x' ∧ x' = { x with ctl := x'.ctl } ∧
      ∀ k, x'.ctl.get k = (x.ctl.get k).map (Entry.joinsKnot n kn)
  others : ∀ gi, gi ∉ t.groups → u.groups[gi]? = s.groups[gi]?
  grids : u.grids = s.grids.map fun gr =>
    if gr.foyerTeam = ti ∧ gr.queued = true then
      { gr with deps := gr.deps.map fun d => if d.kind = 0 ∧ d.knot = n then { d with met := true } else d } else gr
  rest : u = { s with teams := u.teams, groups := u.groups, grids := u.grids }

/-! ### Engine commands -/

/-- R51, R307: a command knows the sectors it writes, and performs them one by one; without any it only has its knot to
decrement. -/
def Writing (t : State) (ci : Nat) (ws : List SectorWrite) : Prop :=
  ∃ c, t.cmds[ci]? = some c ∧ c.pending = ws ∧ (ws = [] → c.phase = .decrement ∧ .knotDecrement ci ∈ t.events) ∧
    (ws ≠ [] → c.phase = .writing ∧ .engineSectorCommit ci ∈ t.events)

/-- R308: a command ends with a status and an address; some of its sectors may still be written. -/
def Failing (t : State) (ci status : Nat) (addr : DWord) : Prop :=
  ∃ c, t.cmds[ci]? = some c ∧ c.status = status ∧ c.addr = addr ∧
    (c.phase = .decrement ∧ .knotDecrement ci ∈ t.events ∨ c.phase = .writing ∧ .engineSectorCommit ci ∈ t.events)

/-! ### System words -/

/-- R274: a group-level read of `n` bytes translates and finds no error: it gives `bytes`, and leaves state `u`. -/
def Fetches (s : State) (w : Who) (align va n : Nat) (bytes : List Byte) (u : State) : Prop :=
  va % align = 0 ∧ ∃ xs, let spans := if n = 0 then [] else oneSpan va n
    s.reach w.p (s.sitesOf w.t.hall) .load false spans = .ok xs ∧ w.loadErrors spans s xs = none ∧ bytes = s.readPieces w xs 0 ∧
      u = ((s.usedWalks w.p.id (s.sitesOf w.t.hall) xs).touchPieces w xs).spend

/-- A system word completes with a status in its register: the context's group has retired it, and its other registers stay. -/
def StatusDone (o : Host.Outcome State Fault Refusal) (c : Cx) (d : SReg) (st : Word) (t : State) : Prop :=
  o = .next t ∧ ∃ g, t.groups[c.gi]? = some g ∧ g.retire = c.g.retire + 1 ∧ g.regs.sreg d.val = st ∧
    (∀ n, n ≠ d.val → g.regs.sreg n = c.g.regs.sreg n) ∧ g.regs.v = c.g.regs.v ∧ g.regs.g = c.g.regs.g ∧ g.regs.xp = c.g.regs.xp

/-- R400: a sealing word's bytes translate and are stored: the state after the store. -/
def Stores (s : State) (w : Who) (va : Nat) (bytes : List Byte) (u : State) : Prop :=
  ∀ k : State → Acc, s.storeBytesAt w va bytes k = (k u).noLanes

end Sys2Proof.Machine
end

