-- ==== Sys2Proof/Certificates/Slice0/Obligations.lean ====
section
/-! DEFINITION. The statements about the model (tiers and cites in OBLIGATIONS.json). -/

open Sys2Proof Sys2Proof.Machine

/-! ### Lane words -/

/-- R222: majors 0x01 to 0x0F. A word that passes its checks (R97), with any hint it accepts, answers the next state in which
each lane of act holds the value below in its destination (unless wb is 1), the newest latch holds it (R70), the strand goes on
and one word is counted; every other register, flag, byte of memory, group, team and event is as before. `sat` stands for the
value that .sat writes in place of the wrapped one. -/
def Obligations.LaneIntegerResults : Prop :=
  ∀ (s : State) (c : Cx) (f : VForm), s.cx? = some c →
    let g := c.vForm f
    let a := c.src g.a
    let b := c.src g.b
    let third := c.src (match c.hs.src3 with | some x => x.2.2 | none => .v g.d)
    let n := fun l => ((b l).extractLsb' 0 8).toNat
    let sat := fun (x : Int) (wrapped : Word) =>
      if c.hs.modh.any ModForm.sat then BitVec.ofInt 32 (max (-2147483648) (min 2147483647 x)) else wrapped
    let gives := fun (i : Instr) (res : Nat → Word) =>
      c.check i = .go → LaneDone (exec i s) s c g.wb g.d (c.act g.gd) res
    gives (.iadd f) (fun l => sat ((a l).toInt + (b l).toInt) (a l + b l)) ∧
    gives (.isub f) (fun l => sat ((a l).toInt - (b l).toInt) (a l - b l)) ∧
    gives (.imul f) (fun l => sat ((a l).toInt * (b l).toInt) (a l * b l)) ∧
    gives (.imulh f) (fun l => ((a l).signExtend 64 * (b l).signExtend 64).extractLsb' 32 32) ∧
    gives (.imac f) (fun l => sat ((a l).toInt * (b l).toInt + (third l).toInt) (a l * b l + third l)) ∧
    gives (.and f) (fun l => a l &&& b l) ∧
    gives (.or f) (fun l => a l ||| b l) ∧
    gives (.xor f) (fun l => a l ^^^ b l) ∧
    gives (.shl f) (fun l => if 32 ≤ n l then 0 else BitVec.ofNat 32 ((a l).toNat * 2 ^ n l)) ∧
    gives (.shr f) (fun l => if 32 ≤ n l then 0 else BitVec.ofNat 32 ((a l).toNat / 2 ^ n l)) ∧
    gives (.sar f) (fun l =>
      if 32 ≤ n l then (if (a l).msb then 0xFFFFFFFF else 0) else BitVec.ofInt 32 ((a l).toInt / 2 ^ n l)) ∧
    gives (.imin f) (fun l => BitVec.ofInt 32 (min (a l).toInt (b l).toInt)) ∧
    gives (.imax f) (fun l => BitVec.ofInt 32 (max (a l).toInt (b l).toInt)) ∧
    gives (.nmin f) (fun l => BitVec.ofNat 32 (min (a l).toNat (b l).toNat)) ∧
    gives (.nmax f) (fun l => BitVec.ofNat 32 (max (a l).toNat (b l).toNat))

/-- R229: the field words, bit by bit, for the field description in b: the position in bits 4:0, the length in bits 13:8
cut at the top of the word, and the sign extension in bit 15. BFI inserts into its destination's prior value.

R230: the integer members of VUN. -/
def Obligations.LaneBitResults : Prop :=
  (∀ (s : State) (c : Cx) (f : VForm), s.cx? = some c →
     let g := c.vForm f
     let a := c.src g.a
     let b := c.src g.b
     let d := c.src (.v g.d)
     let pos := fun l => ((b l).extractLsb' 0 5).toNat
     let len := fun l => min ((b l).extractLsb' 8 6).toNat (32 - pos l)
     let gives := fun (i : Instr) (bit : Nat → Nat → Bool) =>
       c.check i = .go → ∃ res, LaneDone (exec i s) s c g.wb g.d (c.act g.gd) res ∧
         ∀ l i, l < 32 → i < 32 → (res l).getLsbD i = bit l i
     gives (.bfx f) (fun l i =>
       if i < len l then (a l).getLsbD (pos l + i)
       else len l != 0 && (b l).getLsbD 15 && (a l).getLsbD (pos l + len l - 1)) ∧
     gives (.bfi f) (fun l i =>
       if pos l ≤ i ∧ i < pos l + len l then (a l).getLsbD (i - pos l) else (d l).getLsbD i)) ∧
  (∀ (s : State) (c : Cx) (f : UForm), s.cx? = some c →
     let g := c.uForm f
     let a := c.src g.a
     let gives := fun (i : Instr) (ok : Word → Word → Prop) =>
       c.check i = .go → ∃ res, LaneDone (exec i s) s c g.wb g.d (c.act g.gd) res ∧ ∀ l, l < 32 → ok (a l) (res l)
     gives (.mov f) (fun x y => y = x) ∧
     gives (.not f) (fun x y => ∀ i, i < 32 → y.getLsbD i = !x.getLsbD i) ∧
     gives (.ineg f) (fun x y => y = BitVec.ofInt 32 (-x.toInt)) ∧
     gives (.iabs f) (fun x y => y = BitVec.ofInt 32 x.toInt.natAbs) ∧
     gives (.popc f) (fun x y => y.toNat = ((List.range 32).filter fun i => x.getLsbD i).length) ∧
     gives (.clz f) (fun x y =>
       y.toNat ≤ 32 ∧ (∀ i, i < y.toNat → x.getLsbD (31 - i) = false) ∧ (y.toNat < 32 → x.getLsbD (31 - y.toNat) = true)) ∧
     gives (.ctz f) (fun x y =>
       y.toNat ≤ 32 ∧ (∀ i, i < y.toNat → x.getLsbD i = false) ∧ (y.toNat < 32 → x.getLsbD y.toNat = true)) ∧
     gives (.brev f) (fun x y => ∀ i, i < 32 → y.getLsbD i = x.getLsbD (31 - i)) ∧
     gives (.bswap f) (fun x y => ∀ i, i < 4 → y.extractLsb' (8 * i) 8 = x.extractLsb' (8 * (3 - i)) 8) ∧
     (c.check (.mov64 f) = .go → PairDone (exec (.mov64 f) s) s c g.wb g.d (c.act g.gd) fun l =>
       match g.a with
       | .v n => c.src (.v (n + 1)) l ++ c.src (.v n) l
       | x => c.src64 x l))

/-- R227: SEL writes every active lane of the strand: a where the selector guard holds, b elsewhere. The selector is g0, g1
or g2 by gd, or what the GRD hint names.

R228: VCMP writes its guard in the lanes of act, by the condition, and leaves every other guard, every other register,
the latches (but for a fusion of strands) and the flags as they are. The float conditions use the model's order of FP32 codes,
with both zeros equal and a NaN unordered. -/
def Obligations.GuardResults : Prop :=
  (∀ (s : State) (c : Cx) (f : VForm), s.cx? = some c → c.check (.sel f) = .go →
     let g := c.vForm f
     let selector : LaneMask :=
       if g.gd = 0 then c.g.regs.guard 0 else if g.gd = 1 then c.g.regs.guard 1 else if g.gd = 2 then c.g.regs.guard 2
       else match c.hs.grd with
         | some (neg, k) => if neg then ~~~c.g.regs.guard k else c.g.regs.guard k
         | none => allLanes
     LaneDone (exec (.sel f) s) s c g.wb g.d c.e.active fun l => if selector.getLsbD l then c.src g.a l else c.src g.b l) ∧
  (∀ (s : State) (c : Cx) (f : VCmpForm), s.cx? = some c → c.check (.vcmp f) = .go →
     let g := c.cmpForm f
     let x := fun l => c.src g.a l
     let y := fun l => c.src g.b l
     let fx := c.fsrc .fp32 g.a
     let fy := c.fsrc .fp32 g.b
     let nan := fun l => Fmt.fp32.isNan (fx l) || Fmt.fp32.isNan (fy l)
     let same := fun l => !nan l && Fmt.fp32.eqv (fx l) (fy l)
     let below := fun l => !nan l && Fmt.fp32.less (fx l) (fy l)
     let holds := fun l => match g.c with
       | .int .eq => x l == y l
       | .int .ne => x l != y l
       | .int .lt => (x l).slt (y l)
       | .int .le => (x l).sle (y l)
       | .int .gt => (y l).slt (x l)
       | .int .ge => (y l).sle (x l)
       | .int .ltn => (x l).ult (y l)
       | .int .len => (x l).ule (y l)
       | .int .gtn => (y l).ult (x l)
       | .int .gen => (y l).ule (x l)
       | .feq => same l
       | .fne => !same l
       | .flt => below l
       | .fle => below l || same l
       | .fun_ => nan l
     ∃ t r, exec (.vcmp f) s = .next t ∧ WordDone s t c r c.g.ctrl ∧ r = { c.g.regs with g := r.g } ∧
       (∀ l, l < 32 → (r.guard g.k).getLsbD l =
         if (c.act g.gd).getLsbD l then holds l else (c.g.regs.guard g.k).getLsbD l) ∧
       ∀ k, k ≠ g.k → r.guard k = c.g.regs.guard k)

/-! ### Floating-point lane words -/

/-- R221, R223, R224: the FP32 words of majors 0x10 to 0x14. The exact sum, product or multiply-add of the sources is rounded once
in the word's mode with the lane's random word (R204), its flags joined to FPFLAGS; the SRC3 hint's absolute bit and then its
negate bit apply to the third source. FMIN and FMAX pick a source and raise no flag. `quiet` says that no raised flag is
enabled; else the word raises ARITH (R143; its faulting lanes are the model's choice, log 12).

R143, R221: an enabled flag. A floating-point word that raises, in some lane of act, a flag that TRAPEN enables writes no
register and joins no flag: it raises ARITH, whose detail holds the raised flags; the faulting lanes are those that raised
an enabled flag (the model's choice, log 12). Here for FADD, FMUL and FMAC; the statements of the packed, FP64, unary, converting, packing and
reducing words say the same of each of them. -/
def Obligations.Fp32Results : Prop :=
  (∀ (s : State) (c : Cx) (f : VForm), s.cx? = some c →
     let g := c.vForm f
     let a := fun l => Fmt.fp32.decode (c.fsrc .fp32 g.a l)
     let b := fun l => Fmt.fp32.decode (c.fsrc .fp32 g.b l)
     let third := fun l => match c.hs.src3 with
       | some (neg, abs, x) =>
         let y := Fmt.fp32.decode (c.fsrc .fp32 x l)
         let z := if abs then y.abs else y
         if neg then z.neg else z
       | none => Fmt.fp32.decode (c.src (.v g.d) l).toNat
     let rnd := fun (l : Nat) (x : Pre) =>
       let r := Fmt.fp32.round c.mode (srbits c.g.ctrl.seed c.g.retire l 0) x.1
       ({ code := r.code, flags := r.flags ||| x.2 } : Rounded)
     let gives := fun (i : Instr) (res : Nat → Rounded) =>
       c.check i = .go → (c.quiet (c.act g.gd) res → FpDone (exec i s) s c g.wb g.d (c.act g.gd) res) ∧
         (¬ c.quiet (c.act g.gd) res → ArithTrap s c i (c.act g.gd) res)
     let picks := fun (i : Instr) (first : Int → Int → Bool) =>
       c.check i = .go → LaneDone (exec i s) s c g.wb g.d (c.act g.gd) fun l =>
         let x := c.fsrc .fp32 g.a l
         let y := c.fsrc .fp32 g.b l
         BitVec.ofNat 32 (if Fmt.fp32.isNan x then (if Fmt.fp32.isNan y then 0x7FC00000 else y)
           else if Fmt.fp32.isNan y then x else if first (Fmt.fp32.key x) (Fmt.fp32.key y) then x else y)
     gives (.fadd f) (fun l => rnd l (Ext.add (c.mode == .rdn) (a l) (b l))) ∧
     gives (.fmul f) (fun l => rnd l (Ext.mul (a l) (b l))) ∧
     gives (.fmac f) (fun l => rnd l (Ext.mac (c.mode == .rdn) (a l) (b l) (third l))) ∧
     picks (.fmin f) (fun x y => x ≤ y) ∧
     picks (.fmax f) (fun x y => y ≤ x)) ∧
  (∀ (s : State) (c : Cx) (f : VForm), s.cx? = some c →
     let g := c.vForm f
     let traps := fun (i : Instr) (res : Nat → Rounded) =>
       c.check i = .go → ¬ c.quiet (c.act g.gd) res →
         ∃ lanes : LaneMask,
           (∀ l, l < 32 → lanes.getLsbD l = ((c.act g.gd).getLsbD l && (res l).flags &&& c.g.ctrl.trapEn != 0)) ∧
           exec i s = .next (s.trap c (wordOfInstr i) .arith ((orFlags (c.act g.gd) fun l => (res l).flags).zeroExtend 32) 0 lanes)
     let third := fun l => match c.hs.src3 with
       | some (neg, abs, x) =>
         let y := Fmt.fp32.decode (c.fsrc .fp32 x l)
         let z := if abs then y.abs else y
         if neg then z.neg else z
       | none => Fmt.fp32.decode (c.src (.v g.d) l).toNat
     let rnd := fun (l : Nat) (x : Pre) =>
       let r := Fmt.fp32.round c.mode (srbits c.g.ctrl.seed c.g.retire l 0) x.1
       ({ code := r.code, flags := r.flags ||| x.2 } : Rounded)
     let value := fun (x : Src) (l : Nat) => Fmt.fp32.decode (c.fsrc .fp32 x l)
     traps (.fadd f) (fun l => rnd l (Ext.add (c.mode == .rdn) (value g.a l) (value g.b l))) ∧
     traps (.fmul f) (fun l => rnd l (Ext.mul (value g.a l) (value g.b l))) ∧
     traps (.fmac f) (fun l => rnd l (Ext.mac (c.mode == .rdn) (value g.a l) (value g.b l) (third l))))

/-- R225: the packed words round each half by itself, in FP16, or in BF16 under .bf, element 1 with its own random word; the
flags are joined over both; an enabled one raises ARITH (R143; its faulting lanes are the model's choice, log 12).

R226, R231, R232: the FP64 words on even pairs; an enabled flag raises ARITH (R143; its faulting lanes are the model's choice,
log 12). -/
def Obligations.HalfAndDoubleResults : Prop :=
  (∀ (s : State) (c : Cx) (f : VForm), s.cx? = some c →
     let g := c.vForm f
     let fmt : Fmt := if c.hs.modh.any ModForm.bf then .bf16 else .fp16
     let half := fun (x : Src) (l e : Nat) => fmt.decode (match x with
       | .const k => fmt.const k
       | y => (if e = 0 then (c.src y l).extractLsb' 0 16 else (c.src y l).extractLsb' 16 16).toNat)
     let third := fun l e => match c.hs.src3 with
       | some (neg, abs, x) =>
         let z := if abs then (half x l e).abs else half x l e
         if neg then z.neg else z
       | none => half (.v g.d) l e
     let rnd := fun (l e : Nat) (x : Pre) =>
       let r := fmt.round c.mode (srbits c.g.ctrl.seed c.g.retire l e) x.1
       ({ code := r.code, flags := r.flags ||| x.2 } : Rounded)
     let both := fun (l : Nat) (x : Nat → Pre) =>
       ({ code := (rnd l 0 (x 0)).code + 2 ^ 16 * (rnd l 1 (x 1)).code,
          flags := (rnd l 0 (x 0)).flags ||| (rnd l 1 (x 1)).flags } : Rounded)
     let gives := fun (i : Instr) (res : Nat → Rounded) =>
       c.check i = .go → (c.quiet (c.act g.gd) res → FpDone (exec i s) s c g.wb g.d (c.act g.gd) res) ∧
         (¬ c.quiet (c.act g.gd) res → ArithTrap s c i (c.act g.gd) res)
     gives (.hadd2 f) (fun l => both l fun e => Ext.add (c.mode == .rdn) (half g.a l e) (half g.b l e)) ∧
     gives (.hmul2 f) (fun l => both l fun e => Ext.mul (half g.a l e) (half g.b l e)) ∧
     gives (.hmac2 f) (fun l => both l fun e => Ext.mac (c.mode == .rdn) (half g.a l e) (half g.b l e) (third l e))) ∧
  (∀ (s : State) (c : Cx), s.cx? = some c →
     let value := fun (x : Src) (l : Nat) => Fmt.fp64.decode (c.fsrc .fp64 x l)
     let third := fun (d : VReg) (l : Nat) => match c.hs.src3 with
       | some (neg, abs, x) =>
         let z := if abs then (value x l).abs else value x l
         if neg then z.neg else z
       | none => value (.v d) l
     let rnd := fun (l : Nat) (x : Pre) =>
       let r := Fmt.fp64.round c.mode (srbits c.g.ctrl.seed c.g.retire l 0) x.1
       ({ code := r.code, flags := r.flags ||| x.2 } : Rounded)
     let givesV := fun (i : Instr) (g : VForm) (res : Nat → Rounded) =>
       c.check i = .go → (c.quiet (c.act g.gd) res → FpPairDone (exec i s) s c g.wb g.d (c.act g.gd) res) ∧
         (¬ c.quiet (c.act g.gd) res → ArithTrap s c i (c.act g.gd) res)
     let givesU := fun (i : Instr) (g : UForm) (res : Nat → Rounded) =>
       c.check i = .go → (c.quiet (c.act g.gd) res → FpPairDone (exec i s) s c g.wb g.d (c.act g.gd) res) ∧
         (¬ c.quiet (c.act g.gd) res → ArithTrap s c i (c.act g.gd) res)
     let sets := fun (i : Instr) (g : UForm) (sign : Nat → Nat) =>
       c.check i = .go → PairDone (exec i s) s c g.wb g.d (c.act g.gd) fun l =>
         let x := c.fsrc .fp64 g.a l
         BitVec.ofNat 64 (if Fmt.fp64.isNan x then 0x7FF8000000000000 else sign x)
     (∀ f : VForm, let g := c.vForm f
       givesV (.dadd f) g (fun l => rnd l (Ext.add (c.mode == .rdn) (value g.a l) (value g.b l))) ∧
       givesV (.dmul f) g (fun l => rnd l (Ext.mul (value g.a l) (value g.b l))) ∧
       givesV (.dmac f) g (fun l => rnd l (Ext.mac (c.mode == .rdn) (value g.a l) (value g.b l) (third g.d l)))) ∧
     (∀ f : UForm, let g := c.uForm f
       givesU (.dsqrt f) g (fun l => rnd l (value g.a l).sqrt) ∧
       givesU (.drcp f) g (fun l => rnd l (value g.a l).rcp) ∧
       sets (.dneg f) g (fun x => (x + 2 ^ 63) % 2 ^ 64) ∧
       sets (.dabs f) g (fun x => x % 2 ^ 63)))

/-- R231, R232: the FP32 and half members of VUN. The functions of R232 are the model's exact values (log 11), rounded once;
FNEG, FABS and their packed forms act on the sign, and a NaN becomes the canonical one; rounding to an integer raises a flag in
FRINT only; FCLASS sets the one bit of its class. An enabled flag raises ARITH (R143; its faulting lanes are the model's choice, log 12). -/
def Obligations.FpUnaryResults : Prop :=
  ∀ (s : State) (c : Cx) (f : UForm), s.cx? = some c →
    let g := c.uForm f
    let code := c.fsrc .fp32 g.a
    let value := fun l => Fmt.fp32.decode (code l)
    let rnd := fun (l : Nat) (x : Pre) =>
      let r := Fmt.fp32.round c.mode (srbits c.g.ctrl.seed c.g.retire l 0) x.1
      ({ code := r.code, flags := r.flags ||| x.2 } : Rounded)
    let gives := fun (i : Instr) (res : Nat → Rounded) =>
      c.check i = .go → (c.quiet (c.act g.gd) res → FpDone (exec i s) s c g.wb g.d (c.act g.gd) res) ∧
        (¬ c.quiet (c.act g.gd) res → ArithTrap s c i (c.act g.gd) res)
    let sets := fun (i : Instr) (res : Nat → Nat) =>
      c.check i = .go → LaneDone (exec i s) s c g.wb g.d (c.act g.gd) fun l => BitVec.ofNat 32 (res l)
    let fmt : Fmt := if c.hs.modh.any ModForm.bf then .bf16 else .fp16
    let half := fun (l e : Nat) => match g.a with
      | .const k => fmt.const k
      | y => (c.src y l).toNat / 2 ^ (16 * e) % 2 ^ 16
    let signed := fun (f : Fmt) (x y : Nat) => if f.isNan x then f.nanCode else y
    let whole := fun (mode : RMode) (l : Nat) => match value l with
      | .nan => 0x7FC00000
      | .fin neg m e => (Fmt.fp32.round .rne 0 (Ext.of neg (roundGrid mode neg 0 m e 0).q 0)).code
      | _ => code l
    gives (.frcp f) (fun l => rnd l (value l).rcp) ∧
    gives (.frsq f) (fun l => rnd l (value l).rsq) ∧
    gives (.fsqrt f) (fun l => rnd l (value l).sqrt) ∧
    gives (.fexp2 f) (fun l => rnd l (value l).exp2) ∧
    gives (.flog2 f) (fun l => rnd l (value l).log2) ∧
    gives (.fsin f) (fun l => rnd l (value l).sin) ∧
    gives (.fcos f) (fun l => rnd l (value l).cos) ∧
    gives (.ftanh f) (fun l => rnd l (value l).tanh) ∧
    gives (.frint f) (fun l => intCode c.mode (srbits c.g.ctrl.seed c.g.retire l 0) (code l)) ∧
    sets (.ffloor f) (whole .rdn) ∧
    sets (.fceil f) (whole .rup) ∧
    sets (.ftrunc f) (whole .rtz) ∧
    sets (.fneg f) (fun l => signed .fp32 (code l) ((code l + 2 ^ 31) % 2 ^ 32)) ∧
    sets (.fabs f) (fun l => signed .fp32 (code l) (code l % 2 ^ 31)) ∧
    sets (.hneg2 f) (fun l => signed fmt (half l 0) ((half l 0 + 2 ^ 15) % 2 ^ 16) +
      2 ^ 16 * signed fmt (half l 1) ((half l 1 + 2 ^ 15) % 2 ^ 16)) ∧
    sets (.habs2 f) (fun l => signed fmt (half l 0) (half l 0 % 2 ^ 15) + 2 ^ 16 * signed fmt (half l 1) (half l 1 % 2 ^ 15)) ∧
    sets (.fclass f) (fun l =>
      let neg := (code l).testBit 31
      let tiny := code l % 2 ^ 31 < 2 ^ 23
      2 ^ (match value l with
        | .nan => 0
        | .inf _ => if neg then 1 else 8
        | .zero _ => if neg then 4 else 5
        | .fin _ _ _ => if neg then (if tiny then 3 else 2) else (if tiny then 6 else 7)))

/-- R233 to R235: VCVT. A float rounds into the destination format; an integer converts exactly and rounds; an integer narrows
modulo 2^w, or saturates under .sat; a float converts to an integer by the table of R235. The result of an integer type is
sign-extended when the type is a signed one. An enabled flag raises ARITH (R143; its faulting lanes are the model's choice, log 12).

R236: QPACK. The lanes of act in one tile share the least scale that brings every finite magnitude within the type's largest
value; each element is divided by it exactly and converted; the codes fill the low bits, element 0 first, and bits 31:24 hold
the scale byte. The word's own mode is RNE unless a MOD hint names one. An enabled flag raises ARITH (R143; its faulting lanes are the
model's choice, log 12). -/
def Obligations.FormatResults : Prop :=
  (∀ (s : State) (c : Cx) (t u : CvtType) (f : UForm), s.cx? = some c → c.check (.vcvt t u f) = .go →
     let g := c.uForm f
     let r := fun l => srbits c.g.ctrl.seed c.g.retire l 0
     let sat := c.hs.modh.any ModForm.sat
     let res := fun l => match cvtKind t, cvtKind u with
       | .flt x, .flt y => x.round c.mode (r l) (y.decode (c.fsrc y g.a l))
       | .flt x, .int y => x.round c.mode (r l) (Ext.ofInt (y.read (c.src g.a l).toNat))
       | .int x, .int y =>
         let v := y.read (c.src g.a l).toNat
         { code := x.word (if sat then max x.lo (min x.hi v) else v), flags := 0 }
       | .int x, .flt y =>
         let v := y.decode (c.fsrc y g.a l)
         let i := v.toInt c.mode (r l)
         let above := { code := x.word (if sat then x.hi else x.lo), flags := flagInvalid }
         let below := { code := x.word x.lo, flags := flagInvalid }
         if v = .nan then { code := 0, flags := flagInvalid }
         else if v = .inf false then above
         else if v = .inf true then below
         else if x.hi < i.1 then above
         else if i.1 < x.lo then below
         else { code := x.word i.1, flags := if i.2 then flagInexact else 0 }
     (c.quiet (c.act g.gd) res →
       if t = .f64 then FpPairDone (exec (.vcvt t u f) s) s c g.wb g.d (c.act g.gd) res
       else FpDone (exec (.vcvt t u f) s) s c g.wb g.d (c.act g.gd) res) ∧
     (¬ c.quiet (c.act g.gd) res → ArithTrap s c (.vcvt t u f) (c.act g.gd) res)) ∧
  (∀ (s : State) (c : Cx) (t : PackType) (f : UForm), s.cx? = some c → c.check (.qpack t f) = .go →
     let g := c.uForm f
     let m := c.act g.gd
     ∃ scale : Nat → Int,
       (∀ l, l < 32 → m.getLsbD l = true → -127 ≤ scale l ∧ scale l ≤ 127) ∧
       (∀ k l, k < 32 → l < 32 → k / c.tile = l / c.tile → scale k = scale l) ∧
       (∀ l, l < 32 → m.getLsbD l = true →
         let all := (c.tileLanes m l).flatMap (c.packSrc t g.a)
         let fits := fun e : Int => ∀ x ∈ all, ∀ neg m' e', x = .fin neg m' e' → x.magLe (.fin false (packMax t) e) = true
         fits (scale l) ∧ ∀ e, -127 ≤ e → e < scale l → ¬ fits e) ∧
       let res := fun l => c.packLane t g.a (scale l) l
       (c.quiet m res → FpDone (exec (.qpack t f) s) s c g.wb g.d m res) ∧
       (¬ c.quiet m res → ArithTrap s c (.qpack t f) m res))

/-- R223: the special cases of addition and multiplication: a NaN gives the canonical NaN without a flag, opposite infinities
and zero times an infinity give it with the invalid flag, and other infinities give an infinity.

R201: rounding keeps a value that the format holds: the code of every finite FP32, FP16, BF16 and FP64 number decodes to a value that
every mode rounds back to that code, without a flag. -/
def Obligations.RoundingRules : Prop :=
  (∀ (mode : RMode) (r : Nat) (rdn : Bool),
     let sum := fun x y : Ext =>
       let p := Ext.add rdn x y
       ((Fmt.fp32.round mode r p.1).code, (Fmt.fp32.round mode r p.1).flags ||| p.2)
     let product := fun x y : Ext =>
       let p := Ext.mul x y
       ((Fmt.fp32.round mode r p.1).code, (Fmt.fp32.round mode r p.1).flags ||| p.2)
     let inf := fun neg : Bool => if neg then 0xFF800000 else 0x7F800000
     (∀ x, sum .nan x = (0x7FC00000, 0) ∧ sum x .nan = (0x7FC00000, 0)) ∧
     (∀ a, sum (.inf a) (.inf (!a)) = (0x7FC00000, flagInvalid) ∧ sum (.inf a) (.inf a) = (inf a, 0)) ∧
     (∀ a b m e, sum (.inf a) (.fin b m e) = (inf a, 0) ∧ sum (.fin b m e) (.inf a) = (inf a, 0) ∧
       sum (.inf a) (.zero b) = (inf a, 0) ∧ sum (.zero b) (.inf a) = (inf a, 0)) ∧
     (∀ a b, product (.zero a) (.inf b) = (0x7FC00000, flagInvalid) ∧ product (.inf a) (.zero b) = (0x7FC00000, flagInvalid)) ∧
     (∀ a b m e, product (.inf a) (.fin b m e) = (inf (a != b), 0) ∧ product (.fin b m e) (.inf a) = (inf (a != b), 0) ∧
       product (.inf a) (.inf b) = (inf (a != b), 0))) ∧
  (∀ (f : Fmt) (mode : RMode) (r code : Nat), f ∈ [Fmt.fp32, .fp16, .bf16, .fp64] → code < 2 ^ f.width → f.isNan code = false →
     f.round mode r (f.decode code) = { code := code, flags := 0 })

/-! ### Cross-lane words -/

/-- R237: the shuffles. A lane of act receives the value of its source lane when that lane lies in its tile and is active in the
strand, whatever its guard; else its own.

R238: the votes of a tile's contributing lanes, those of act. BALLOT gives the bit of each one whose a is not 0, VANY and
VALL 1 or 0, FIRST the value of the lowest one. -/
def Obligations.TileResults : Prop :=
  (∀ (s : State) (c : Cx) (f : VForm), s.cx? = some c →
     let g := c.vForm f
     let tile := 2 ^ min c.g.regs.xp.toNat 5
     let k := fun l => (c.src g.b l).toNat
     let base := fun l => l - l % tile
     let gives := fun (i : Instr) (source : Nat → Option Nat) =>
       c.check i = .go → ∃ res, LaneDone (exec i s) s c g.wb g.d (c.act g.gd) res ∧ ∀ l, l < 32 →
         res l = match source l with
           | some j => if c.e.active.getLsbD j then c.src g.a j else c.src g.a l
           | none => c.src g.a l
     gives (.shfi f) (fun l => some (base l + k l % tile)) ∧
     gives (.shfu f) (fun l => if k l ≤ l % tile then some (l - k l) else none) ∧
     gives (.shfd f) (fun l => if l % tile + k l < tile then some (l + k l) else none) ∧
     gives (.shfx f) (fun l => some (base l + Nat.xor (l % tile) (k l) % tile))) ∧
  (∀ (s : State) (c : Cx) (f : UForm), s.cx? = some c →
     let g := c.uForm f
     let m := c.act g.gd
     let tile := 2 ^ min c.g.regs.xp.toNat 5
     let votes := fun l j => m.getLsbD j = true ∧ j / tile = l / tile ∧ j < 32
     let gives := fun (i : Instr) (ok : Nat → Word → Prop) =>
       c.check i = .go → ∃ res, LaneDone (exec i s) s c g.wb g.d m res ∧ ∀ l, l < 32 → m.getLsbD l = true → ok l (res l)
     gives (.ballot f) (fun l y => ∀ t, t < 32 →
       (y.getLsbD t = true ↔ t < tile ∧ votes l (l / tile * tile + t) ∧ c.src g.a (l / tile * tile + t) ≠ 0)) ∧
     gives (.vany f) (fun l y => (y = 1 ∧ ∃ j, votes l j ∧ c.src g.a j ≠ 0) ∨ (y = 0 ∧ ∀ j, votes l j → c.src g.a j = 0)) ∧
     gives (.vall f) (fun l y => (y = 1 ∧ ∀ j, votes l j → c.src g.a j ≠ 0) ∨ (y = 0 ∧ ∃ j, votes l j ∧ c.src g.a j = 0)) ∧
     gives (.first f) (fun l y => ∃ j, votes l j ∧ (∀ k, votes l k → j ≤ k) ∧ y = c.src g.a j))

/-- R217, R238, R239: the reductions. An integer PSUM adds the contributing lanes up to the lane (before it with .x), RSUM all of
the tile's, modulo 2^32; RMIN and RMAX give the extreme. The f32 forms add in the order of R215 and R216 (the model's shared
functions) with their flags; an enabled one raises ARITH (R143; its faulting lanes are the model's choice, log 12). -/
def Obligations.ReductionResults : Prop :=
  ∀ (s : State) (c : Cx) (f : UForm), s.cx? = some c →
    let g := c.uForm f
    let m := c.act g.gd
    let lanes := fun l => (List.range 32).filter fun j => m.getLsbD j && j / c.tile == l / c.tile
    let gives := fun (i : Instr) (ok : Nat → Word → Prop) =>
      c.check i = .go → ∃ res, LaneDone (exec i s) s c g.wb g.d m res ∧ ∀ l, l < 32 → m.getLsbD l = true → ok l (res l)
    let adds := fun (i : Instr) (res : Nat → Rounded) =>
      c.check i = .go → (c.quiet m res → FpDone (exec i s) s c g.wb g.d m res) ∧ (¬ c.quiet m res → ArithTrap s c i m res)
    let sum := fun ls : List Nat => (ls.map (c.src g.a)).sum
    (∀ t : XType, t ≠ .f32 →
      (∀ x, gives (.psum t x f) (fun l y => y = sum ((lanes l).filter fun j => if x then j < l else j ≤ l))) ∧
      gives (.rsum t f) (fun l y => y = sum (lanes l))) ∧
    (∀ x, adds (.psum .f32 x f) (fun l => c.psumF x g.a (c.tileLanes m l) l)) ∧
    adds (.rsum .f32 f) (c.rsumF g.a m) ∧
    gives (.rmin .i32 f) (fun l y => (∃ j ∈ lanes l, y = c.src g.a j) ∧ ∀ j ∈ lanes l, y.toInt ≤ (c.src g.a j).toInt) ∧
    gives (.rmax .i32 f) (fun l y => (∃ j ∈ lanes l, y = c.src g.a j) ∧ ∀ j ∈ lanes l, (c.src g.a j).toInt ≤ y.toInt) ∧
    gives (.rmin .n32 f) (fun l y => (∃ j ∈ lanes l, y = c.src g.a j) ∧ ∀ j ∈ lanes l, y.toNat ≤ (c.src g.a j).toNat) ∧
    gives (.rmax .n32 f) (fun l y => (∃ j ∈ lanes l, y = c.src g.a j) ∧ ∀ j ∈ lanes l, (c.src g.a j).toNat ≤ y.toNat) ∧
    gives (.rmin .f32 f) (fun l y => y = c.extreme .f32 false g.a (lanes l)) ∧
    gives (.rmax .f32 f) (fun l y => y = c.extreme .f32 true g.a (lanes l))

/-- R240: TOPK gives a lane of act its rank among its tile's contributing lanes, when the rank lies below the lane's b; the ranks
of a tile's contributing lanes differ.

R241, R242: APPEND, where every tile's offset that is left passes the checks of R274 and no rerun orders atomics: a step performs one tile,
the lowest left, adding the sum of its contributing lanes' b to the counter at its first lane's offset, modulo 2^32; a lane receives the
counter's old value and the b of the tile's contributing lanes before it. While tiles are left, the strand stays at the word with what its
lanes have received; after the last one the lanes of act take their results and the word retires. -/
def Obligations.RankResults : Prop :=
  (∀ (s : State) (c : Cx) (f : VForm), s.cx? = some c → c.check (.topk f) = .go →
     let g := c.vForm f
     let m := c.act g.gd
     let key := fun j => Fmt.fp32.rankKey (c.src g.a j).toNat
     let lanes := fun l => (List.range 32).filter fun j => m.getLsbD j && j / c.tile == l / c.tile
     let rank := fun l => ((lanes l).filter fun j => key l < key j || (key j == key l && j < l)).length
     ∃ res, LaneDone (exec (.topk f) s) s c g.wb g.d m res ∧
       (∀ l, l < 32 → m.getLsbD l = true →
         res l = if rank l < (c.src g.b l).toNat then BitVec.ofNat 32 (rank l) else 0xFFFFFFFF) ∧
       ∀ l k, k ∈ lanes l → l ∈ lanes l → rank k = rank l → k = l) ∧
  (∀ (s : State) (c : Cx) (f : VForm), s.cx? = some c → c.check (.append f) = .go →
     let g := c.vForm f
     let m := c.act g.gd
     let tiles := (c.appendTiles m).filter fun x => !c.e.appended.any fun d => d.1 == x.1
     (∀ x ∈ tiles, (c.src g.a x.1).toNat + 4 ≤ c.t.hdr.scratch ∧ (c.src g.a x.1).toNat % 4 = 0) →
     c.p.replay.ctl = 0 →
     let ends := fun (u : State) (got : List (Nat × Word)) => ∃ res : Lanes Word,
       (∀ l, l < 32 → Lanes.at res l = ((got.find? fun x => x.1 == l).map Prod.snd).getD 0) ∧
       exec (.append f) s = .next (((u.setRegs c (Regs.laneWrite g.wb g.d m res)).closeRegion c).retire c)
     (tiles = [] → ends s c.e.appended) ∧
     ∀ x more, tiles = x :: more → c.t.spad.wf = true →
       let off := (c.src g.a x.1).toNat
       let b := fun l => (c.src g.b l).toNat
       ∃ u team got, u = { s with teams := u.teams, seq := s.seq + 1 } ∧ u.teams[c.g.team]? = some team ∧
         (∀ j, j ≠ c.g.team → u.teams[j]? = s.teams[j]?) ∧ team = { c.t with spad := team.spad, spadHist := team.spadHist } ∧
         team.spad.num off 4 = (c.t.spad.num off 4 + (x.2.map b).sum) % 2 ^ 32 ∧
         (∀ a, a < off ∨ off + 4 ≤ a → team.spad.read a = c.t.spad.read a) ∧
         (got.map Prod.fst = x.2 ∧ ∀ l w, (l, w) ∈ got → w = BitVec.ofNat 32 (c.t.spad.num off 4 + ((x.2.filter (· < l)).map b).sum)) ∧
         (more = [] → ends u (c.e.appended ++ got)) ∧
         (more ≠ [] → exec (.append f) s =
           .next ((u.endRegion c).updGroup c.gi (Group.setEntry c.k fun e => { e with appended := c.e.appended ++ got }))))

/-! ### Scalar words -/

/-- R164: the 32-bit members of the scalar family. The destination register takes the value and nothing else changes but the
strand's place and the counts.

R64, R65, R164: what a scalar operand is: a register, an even pair of registers, a special, or a constant from −32 to 31. -/
def Obligations.ScalarResults : Prop :=
  (∀ (s : State) (c : Cx) (f : SForm), s.cx? = some c →
     let a := c.sop f.a
     let b := c.sop f.b
     let n := (b.extractLsb' 0 8).toNat
     let gives := fun (i : Instr) (x : Word) => c.check i = .go → ScalarDone (exec i s) s c f.d x
     gives (.sadd f) (a + b) ∧
     gives (.ssub f) (a - b) ∧
     gives (.smul f) (a * b) ∧
     gives (.smulh f) ((a.signExtend 64 * b.signExtend 64).extractLsb' 32 32) ∧
     gives (.sand f) (a &&& b) ∧
     gives (.sor f) (a ||| b) ∧
     gives (.sxor f) (a ^^^ b) ∧
     gives (.sshl f) (if 32 ≤ n then 0 else BitVec.ofNat 32 (a.toNat * 2 ^ n)) ∧
     gives (.sshr f) (if 32 ≤ n then 0 else BitVec.ofNat 32 (a.toNat / 2 ^ n)) ∧
     gives (.ssar f) (if 32 ≤ n then (if a.msb then 0xFFFFFFFF else 0) else BitVec.ofInt 32 (a.toInt / 2 ^ n)) ∧
     gives (.smin f) (BitVec.ofInt 32 (min a.toInt b.toInt)) ∧
     gives (.smax f) (BitVec.ofInt 32 (max a.toInt b.toInt)) ∧
     gives (.snmin f) (BitVec.ofNat 32 (min a.toNat b.toNat)) ∧
     gives (.snmax f) (BitVec.ofNat 32 (max a.toNat b.toNat)) ∧
     ∀ k : ICond, gives (.scmp k f) (if (match k with
       | .eq => a == b
       | .ne => a != b
       | .lt => a.slt b
       | .le => a.sle b
       | .gt => b.slt a
       | .ge => b.sle a
       | .ltn => a.ult b
       | .len => a.ule b
       | .gtn => b.ult a
       | .gen => b.ule a) then 1 else 0)) ∧
  (∀ (c : Cx) (n : SReg) (i : BitVec 6),
     c.sop (.s n) = c.g.regs.sreg n.val ∧
     c.sop64 (.s n) = c.g.regs.sreg (n.val + 1) ++ c.g.regs.sreg n.val ∧
     c.sop (.const i) = BitVec.ofInt 32 ((i.toNat : Int) - 32) ∧
     c.sop64 (.const i) = BitVec.ofInt 64 ((i.toNat : Int) - 32) ∧
     (∀ x : Special, c.sop64 (.special x) = (c.sop (.special x)).zeroExtend 64) ∧
     c.sop (.special .ones) = 0xFFFFFFFF ∧ c.sop (.special .xmval) = c.e.active ∧
     c.sop (.special .ngroups) = BitVec.ofNat 32 c.t.groups.length)

/-- R164 to R166, R175, R176: SADD64 and SSUB64 on even pairs, SRDV from a lane whatever its state, the immediates (with the value of
IMM hints), GETXM, SETXM within the owned lanes, and SETXP. -/
def Obligations.ScalarOtherResults : Prop :=
  ∀ (s : State) (c : Cx), s.cx? = some c →
    let gives := fun (i : Instr) (d : SReg) (x : Word) => c.check i = .go → ScalarDone (exec i s) s c d x
    let imm := fun (field : BitVec 18) => match c.hs.imms with
      | [] => field.signExtend 32
      | [h] => BitVec.ofNat 32 (h.toNat * 2 ^ 18 + field.toNat)
      | h :: k :: _ => BitVec.ofNat 32 (h.toNat * 2 ^ 40 + k.toNat * 2 ^ 18 + field.toNat)
    (∀ f : SForm, c.check (.sadd64 f) = .go → ScalarPairDone (exec (.sadd64 f) s) s c f.d (c.sop64 f.a + c.sop64 f.b)) ∧
    (∀ f : SForm, c.check (.ssub64 f) = .go → ScalarPairDone (exec (.ssub64 f) s) s c f.d (c.sop64 f.a - c.sop64 f.b)) ∧
    (∀ d a b, gives (.srdv d a b) d (Lanes.at (c.g.regs.vreg b.toNat) ((c.sop a).extractLsb' 0 5).toNat)) ∧
    (∀ d x, gives (.sli d x) d (imm x)) ∧
    (∀ d x, gives (.saddi d x) d (c.g.regs.sreg d.val + imm x)) ∧
    (∀ d x, gives (.slui d x) d
      (BitVec.ofNat 32 (x.toNat * 2 ^ 14 + ((c.g.regs.sreg d.val).extractLsb' 0 14).toNat))) ∧
    (∀ d, gives (.getxm d) d c.e.active) ∧
    (∀ x, c.check (.setxm x) = .go → ∃ t g, exec (.setxm x) s = .next t ∧ OnlyGroup s t c g ∧
      g = { Group.retireWord c.k c.repeats
        { c.g with ctl := c.g.ctl.put c.k (some { c.e with active := c.sop x &&& c.e.owned }) } with age := s.ageAfter c }) ∧
    (∀ n, c.check (.setxp n) = .go →
      ∃ t, exec (.setxp n) s = .next t ∧ WordDone s t c { c.g.regs with xp := n } c.g.ctrl)

/-! ### Control words -/

/-- R167, R168: the whole-strand jumps. JMP always transfers, JSZ and JSNZ by a scalar register, JANY when the guard (negated or
not) holds in some active lane, JALL when it holds in every one. A transfer goes to the word after the jump plus four times
the offset, and invalidates the latches; a target outside the code region raises ACCESS with the target as the address, and one that
is not transferred to raises nothing.

R146, R169 to R171: the divergent branches. With no lane taken the strand goes on (JGX losing its pending splice, the model's
choice, log 13); with every active lane taken it transfers whole; with some taken and two entries free it splits: a splice entry
with its owned lanes, a strand of the taken lanes at the target, and one of the rest, whose owned lanes include the inactive ones,
at the next word. JG splices at its target, JGX at the pending splice. The new table then settles by R146 to R149. -/
def Obligations.BranchResults : Prop :=
  (∀ (s : State) (c : Cx) (off : BitVec 17), s.cx? = some c →
     let dst := c.target 17 off.toNat
     let gives := fun (i : Instr) (go : Bool) => c.check i = .go →
       (go = false → Passes (exec i s) s c) ∧
       (go = true → c.p.inRegion dst = true → Jumps (exec i s) s c dst) ∧
       (go = true → c.p.inRegion dst = false → exec i s = .next (s.trap c (wordOfInstr i) .access 0 dst.bits 0))
     let on := fun (neg : Bool) (g : BitVec 3) (l : Nat) => (c.g.regs.guard g).getLsbD l != neg
     (c.hs.imms = [] → dst = { obj := c.e.pc.obj, off := c.e.pc.off + 4 + 4 * off.signExtend 32 }) ∧
     gives (.jmp off) true ∧
     (∀ r : SReg, gives (.jsz r off) (c.g.regs.sreg r.val == 0) ∧ gives (.jsnz r off) (c.g.regs.sreg r.val != 0)) ∧
     ∀ (neg : Bool) (g : BitVec 3),
       gives (.jany neg g off) ((List.range 32).any fun l => c.e.active.getLsbD l && on neg g l) ∧
       gives (.jall neg g off) ((List.range 32).all fun l => !c.e.active.getLsbD l || on neg g l)) ∧
  (∀ (s : State) (c : Cx) (neg : Bool) (g : BitVec 3) (off : BitVec 17), s.cx? = some c →
     let dst := c.target 17 off.toNat
     let taken := (if neg then ~~~c.g.regs.guard g else c.g.regs.guard g) &&& c.e.active
     let gives := fun (i : Instr) (splice : CodeRef) => c.check i = .go → taken ≠ 0 → c.p.inRegion dst = true →
       (taken = c.e.active → Jumps (exec i s) s c dst) ∧
       (taken ≠ c.e.active → ∀ p t : Fin 8, c.g.freeTwo = some (p, t) →
         ∃ (u : State) (table : Control), exec i s = .next u ∧
           OnlyGroup s u c { c.g with
             regs := c.g.regs.loseLatches, ctl := (table.settle settleFuel false).1, retire := c.g.retire + 1, age := s.ageAfter c } ∧
           table.get p = some { Entry.strandAt splice c.e.owned 0 c.e.parent with kind := .splice } ∧
           table.get t = some (Entry.strandAt dst taken taken (some p)) ∧
           table.get c.k = some (Entry.strandAt c.next (c.e.owned &&& ~~~taken) (c.e.active &&& ~~~taken) (some p)) ∧
           ∀ j, j ≠ p → j ≠ t → j ≠ c.k → table.get j = c.g.ctl.get j)
     gives (.jg neg g off) dst ∧
     gives (.jgx neg g off) (c.e.pend.getD dst) ∧
     (c.check (.jg neg g off) = .go → taken = 0 → Passes (exec (.jg neg g off) s) s c) ∧
     (c.check (.jgx neg g off) = .go → taken = 0 → ∃ t, exec (.jgx neg g off) s = .next t ∧
       OnlyGroup s t c { Group.retireWord c.k c.repeats { c.g with ctl := c.g.ctl.put c.k (some { c.e with pend := none }) } with age := s.ageAfter c }))

/-- R130, R171 to R174: SPLICE sets the strand's pending splice; CALL writes the return pair, counts the call and transfers; RET
returns to the reference in its pair, counts the return, and lets a retiring object go; CALLI of one target transfers whole, of
none does nothing. The checks of the target (R131, R162, R167) are the conditions.

R130: the call record. A call adds to the entry of the object that holds the call word, or makes one, up to 16 entries and a
count of 65,535; a return subtracts one from the entry of its object, which goes when it reaches 0. -/
def Obligations.CallResults : Prop :=
  (∀ (s : State) (c : Cx), s.cx? = some c →
     let ret := c.next.bits
     let moved := fun (r : Regs) (calls : List (Word × Nat)) (dst : CodeRef) =>
       { c.g with regs := r.loseLatches, callRec := calls, ctl := (c.tableAt dst).1, retire := c.g.retire + 1, age := s.ageAfter c }
     (∀ off : BitVec 20, c.check (.splice off) = .go → c.p.inRegion (c.target 20 off.toNat) = true →
       ∃ t, exec (.splice off) s = .next t ∧ OnlyGroup s t c { Group.retireWord c.k c.repeats
         { c.g with ctl := c.g.ctl.put c.k (some { c.e with pend := some (c.target 20 off.toNat) }) } with age := s.ageAfter c }) ∧
     (∀ (r : SReg) (off : BitVec 17) (calls : List (Word × Nat)), c.check (.call r off) = .go →
       c.p.inRegion (c.target 17 off.toNat) = true → callAdd c.g.callRec c.e.pc.obj 1 = some calls →
       ∃ t x, exec (.call r off) s = .next t ∧ ScalarPairWritten c.g.regs x r ret ∧
         OnlyGroup s t c (moved x calls (c.target 17 off.toNat))) ∧
     (∀ (r : SReg) (calls : List (Word × Nat)), c.check (.ret r) = .go →
       let dst := CodeRef.ofBits (c.g.regs.spair r.val)
       c.p.refOk dst = true → callDrop c.g.callRec dst.obj = some calls →
       ∃ t, exec (.ret r) s = .next (t.unpin c.p.id) ∧ OnlyGroup s t c (moved c.g.regs calls dst)) ∧
     (∀ (v : VReg) (r : SReg), c.check (.calli v r) = .go →
       (c.e.active = 0 → Passes (exec (.calli v r) s) s c) ∧
       ∀ (dst : CodeRef) (calls : List (Word × Nat)), c.e.active ≠ 0 →
         (∀ l, l < 32 → c.e.active.getLsbD l = true → CodeRef.ofBits (c.src64 (.v v) l) = dst) →
         c.callFault v (LaneMask.lanes c.e.active) [(dst, c.e.active)] = none →
         callAdd c.g.callRec c.e.pc.obj 1 = some calls →
         ∃ t x, exec (.calli v r) s = .next t ∧ ScalarPairWritten c.g.regs x r ret ∧ OnlyGroup s t c (moved x calls dst))) ∧
  (let count := fun (rec_ : List (Word × Nat)) (o : Word) => ((rec_.filter fun x => x.1 == o).map Prod.snd).sum
   let sound := fun rec_ : List (Word × Nat) => (rec_.map Prod.fst).Nodup ∧ rec_.length ≤ 16 ∧ ∀ x ∈ rec_, 1 ≤ x.2 ∧ x.2 ≤ 65535
   ∀ (rec_ : List (Word × Nat)) (obj : Word) (n : Nat), sound rec_ → 1 ≤ n →
     (∀ new, callAdd rec_ obj n = some new →
       sound new ∧ count new obj = count rec_ obj + n ∧ ∀ o, o ≠ obj → count new o = count rec_ o) ∧
     (callAdd rec_ obj n = none → 65535 < count rec_ obj + n ∨ (rec_.length = 16 ∧ count rec_ obj = 0)) ∧
     (∀ new, callDrop rec_ obj = some new →
       sound new ∧ count new obj + 1 = count rec_ obj ∧ ∀ o, o ≠ obj → count new o = count rec_ o) ∧
     (callDrop rec_ obj = none → count rec_ obj = 0))

/-- R177, R178, R183, R185: EXIT ends every owned lane of its strand and, when the group has none left, makes its completion due;
YIELD makes the group the youngest and loses the latches; REGION commits at p and, with one strand and no handler (in a handler none opens:
the model's choice, log 24), captures and opens a region; PYIELD without a request loses the latches, and with one commits at p and saves the group. -/
def Obligations.EndingResults : Prop :=
  ∀ (s : State) (c : Cx), s.cx? = some c →
    (c.check .exit = .go → (c.g.ctxs.any fun x => x.deferred.isSome) = false →
      let done := { Group.exitStrand c.k c.e.owned c.g.endRegion with age := s.ageAfter c }
      ∃ t, OnlyGroup s t c done ∧
        exec .exit s = .next (if done.ctl.live = 0 then t.due (.groupExitComplete c.gi) else t.quiesce c.gi)) ∧
    (c.check .yield = .go → ∃ t n, exec .yield s = .next t ∧ (∀ g ∈ s.groups, g.age < n) ∧
      OnlyGroup s t c (Group.retireWord c.k c.repeats { c.g with age := n, regs := c.g.regs.loseLatches })) ∧
    (c.check .region = .go → ∃ g1, (s.commitGroup c.gi .p).groups[c.gi]? = some g1 ∧
      let open_ : Region :=
        { pc := c.e.first, rpt := 0, regs := g1.regs, ctrl := g1.ctrl, active := c.e.active, callRec := g1.callRec, retire := g1.retire }
      let g2 : Group := if (g1.ctl.indexes fun e => e.kind == .strand).length == 1 && g1.ctxs.isEmpty then { g1.endRegion with region := some open_ } else g1.endRegion
      exec .region s = .next (((s.commitGroup c.gi .p).updGroup c.gi fun _ => g2).retire c)) ∧
    (c.check .pyield = .go → c.g.ctrl.preq = false → ∃ t, exec .pyield s = .next t ∧
      WordDone s t c c.g.regs.loseLatches c.g.ctrl) ∧
    (c.check .pyield = .go → c.g.ctrl.preq = true → ∃ t, Passes (.next t) s c ∧
      exec .pyield s = .next ((t.undue (.deadlineExpiry c.gi)).saveGroup c.gi (.cooperative c.hs.live) c.hs.live))

/-! ### Knots and barriers -/

/-- R28, R53, R179, R180, R309, R323: the knots. WAITK and YIELDK on a knot whose count is 0 and whose status is clear join it at
its scope (BEGIN at that scope, whose effect PhaseWordResults states) and go on, YIELDK at its continuation; on a count above 0 the
strand waits. KINIT sets the count, the join scope h and no underflow, and keeps the tie; one of 0 releases the strands that wait. KQUERY
reads the count (where no replay is under way).

R27, R28, R53, R307, R309: a decrement of a knot of a resident team lowers a count above 0 by one, widens the join scope, and keeps
the first status since KINIT that is not 0, with its address; at a count of 0 it leaves the scope as it stood when the count became 0 and sets
the underflow flag and, where no status stands, UNDERFLOW. A count that becomes 0 releases the strands that wait on the knot. Else no other
team, no group and no memory changes. -/
def Obligations.KnotResults : Prop :=
  (∀ (s : State) (c : Cx) (n : BitVec 8) (kn : Knot), s.cx? = some c → c.t.knots[n.toNat]? = some kn → c.e.grant = none →
     (kn.count = 0 → kn.status = 0 →
       (c.check (.waitk n) = .go →
         exec (.waitk n) s = .next (((s.takeStatus c n.toNat).joinKnot c n.toNat kn.scope).retire c)) ∧
       (∀ off, c.check (.yieldk n off) = .go → c.p.inRegion (c.target 12 off.toNat) = true →
         exec (.yieldk n off) s =
           .next (((s.takeStatus c n.toNat).joinKnot c n.toNat kn.scope).retireTo c (c.target 12 off.toNat)))) ∧
     (kn.count ≠ 0 →
       (c.check (.waitk n) = .go → exec (.waitk n) s = .next (s.waitQuiet c (.knot n.toNat none))) ∧
       (∀ off, c.check (.yieldk n off) = .go → c.p.inRegion (c.target 12 off.toNat) = true →
         exec (.yieldk n off) s = .next (s.waitQuiet c (.knot n.toNat (some (c.target 12 off.toNat)))))) ∧
     (∀ x, c.check (.kinit n x) = .go →
       let kn' : Knot := { kn with count := c.sop x, underflow := false, scope := .h, status := 0, addr := 0, failed := false }
       (c.sop x ≠ 0 → ∃ t u, exec (.kinit n x) s = .next u ∧ Passes (.next u) t c ∧
         t = { s with teams := t.teams } ∧ (∀ j, j ≠ c.g.team → t.teams[j]? = s.teams[j]?) ∧
         t.teams[c.g.team]? = some { c.t with knots := c.t.knots.set n.toNat kn' }) ∧
       (c.sop x = 0 → ∃ t, exec (.kinit n x) s = .next (t.retire c) ∧ KnotReleased s t c.g.team n.toNat c.t kn')) ∧
     (∀ d, c.check (.kquery n d) = .go → c.p.replay.ctl = 0 → ScalarDone (exec (.kquery n d) s) s c d kn.count)) ∧
  (∀ (s : State) (ti n : Nat) (t : Team) (kn : Knot) (scope : Scope) (status : Nat) (addr : DWord) (know : List (SpadBy × Nat)),
     s.teams[ti]? = some t → t.phase = .resident → t.knots[n]? = some kn →
     ∃ kn', kn'.tie = kn.tie ∧ kn'.know = know ++ kn.know ∧ kn'.failed = (kn.failed || status != 0) ∧
       (kn.count ≠ 1 → s.decrement ti n scope status addr know = s.updTeam ti (fun u => { u with knots := u.knots.set n kn' })) ∧
       (kn.count = 1 → KnotReleased s (s.decrement ti n scope status addr know) ti n t kn') ∧
       (kn.count ≠ 0 → (kn'.scope = kn.scope ∨ kn'.scope = scope) ∧ kn.scope.rank ≤ kn'.scope.rank ∧ scope.rank ≤ kn'.scope.rank ∧
         kn'.count = kn.count - 1 ∧ kn'.underflow = kn.underflow ∧
         (kn'.status, kn'.addr) = if status ≠ 0 ∧ kn.failed = false then (status, addr) else (kn.status, kn.addr)) ∧
       (kn.count = 0 → kn'.scope = kn.scope ∧ kn'.count = 0 ∧ kn'.underflow = true ∧
         (kn'.status, kn'.addr) =
           if status ≠ 0 ∧ kn.failed = false then (status, addr) else if kn.status = 0 then (13, 0) else (kn.status, kn.addr)))

/-- R161, R182: BAR, BARA and BARW. BARA commits at h, arrives and goes on. BAR arrives and waits for the release of its
generation; once released it begins at h and goes on. BARW does not arrive: it passes where the group never arrived or the
generation is over, and waits where the generation of its last arrival is under way. Each closes an open region. -/
def Obligations.BarrierResults : Prop :=
  ∀ (s : State) (c : Cx) (n : BitVec 4), s.cx? = some c →
    (c.check (.bara n) = .go → exec (.bara n) s =
      .next ((((((s.endRegion c).commitGroup c.gi .h).arrive c.g.team c.gi n.toNat).closeRegion c).retire c))) ∧
    (c.check (.bar n) = .go → c.e.grant = some .barrier → exec (.bar n) s = .next (s.passBarrier c n.toNat)) ∧
    (c.check (.bar n) = .go → c.e.grant = none →
      let u := ((s.endRegion c).commitGroup c.gi .h).arrive c.g.team c.gi n.toNat
      ∀ a gen, u.arrivalNow c n.toNat = some a → a.abandoned = false → u.barrierGen c n.toNat = some gen →
        (a.gen = some gen → exec (.bar n) s = .next (u.waitQuiet c (.barrier n.toNat gen))) ∧
        (a.gen ≠ some gen → exec (.bar n) s = .next (u.passBarrier c n.toNat))) ∧
    (c.check (.barw n) = .go → c.e.grant = some .barrier → exec (.barw n) s = .next (s.passBarrier c n.toNat)) ∧
    (c.check (.barw n) = .go → c.e.grant = none → ∀ a gen, c.g.arrivals.toList[n.toNat]? = some a → a.abandoned = false →
      s.barrierGen c n.toNat = some gen →
        (a.gen = none → exec (.barw n) s = .next (((s.beginGroup c.gi .h).closeRegion c).retire c)) ∧
        (a.gen = some gen → exec (.barw n) s = .next ((s.endRegion c).waitQuiet c (.barrier n.toNat gen))) ∧
        (∀ g, a.gen = some g → g ≠ gen → exec (.barw n) s = .next (s.passBarrier c n.toNat)))

/-! ### Control registers, landing and traps -/

/-- R141, R191: GETC reads a control register (zero-extended, FRAME into a pair); SETC writes LANDBASE and TRAPBASE with the
object of the word, SEED, ROUND with a code from 1 to 6, FPFLAGS and TRAPEN by their low bits, and nothing else of the group; a
ROUND code outside them raises BAD_HANDLE. The pins that a SETC drops are looked at again (R130).

R141, R191: a SETC of a register that the owner may not write raises RIGHTS with detail 1. -/
def Obligations.ControlRegisterResults : Prop :=
  (∀ (s : State) (c : Cx), s.cx? = some c →
     let get := fun (r : CtrlReg) (x : Word) =>
       ∀ d, c.check (.getc r d) = .go → ScalarDone (exec (.getc r d) s) s c d x
     let set := fun (r : CtrlReg) (new : Word → Ctrl) => ∀ x, c.check (.setc r x) = .go →
       (r = .round → 1 ≤ (c.sop x).toNat ∧ (c.sop x).toNat ≤ 6) →
       ∃ t, exec (.setc r x) s = .next (t.unpin c.p.id) ∧ WordDone s t c c.g.regs (new (c.sop x))
     let k := c.g.ctrl
     get .cause (k.cause.zeroExtend 32) ∧ get .landBase k.landBase.off ∧ get .trapBase k.trapBase.off ∧
     get .preq (if k.preq then 1 else 0) ∧ get .deadline k.deadline ∧ get .phaseCnt k.phaseCnt ∧
     (c.p.replay.ctl = 0 → get .seed k.seed) ∧ get .rptIdx (k.rptIdx.zeroExtend 32) ∧ get .round (k.round.zeroExtend 32) ∧
     get .fpFlags (k.fpFlags.zeroExtend 32) ∧ get .trapEn (k.trapEn.zeroExtend 32) ∧
     (∀ d, c.check (.getc .frame d) = .go → ScalarPairDone (exec (.getc .frame d) s) s c d k.frame) ∧
     set .landBase (fun v => { k with landBase := { obj := c.e.pc.obj, off := v } }) ∧
     set .trapBase (fun v => { k with trapBase := { obj := c.e.pc.obj, off := v } }) ∧
     set .seed (fun v => { k with seed := v }) ∧
     set .round (fun v => { k with round := v.extractLsb' 0 3 }) ∧
     set .fpFlags (fun v => { k with fpFlags := v.extractLsb' 0 5 }) ∧
     set .trapEn (fun v => { k with trapEn := v.extractLsb' 0 5 }) ∧
     (∀ x, c.check (.setc .round x) = .go → (c.sop x).toNat = 0 ∨ 6 < (c.sop x).toNat →
       exec (.setc .round x) s = .next (s.trap c (wordOfInstr (.setc .round x)) .badHandle (c.sop x) 0 0))) ∧
  (∀ (s : State) (c : Cx) (r : CtrlReg) (x : SOp), s.cx? = some c → c.classOk (.setc r x) = true →
     r ∈ [CtrlReg.cause, .frame, .preq, .deadline, .phaseCnt, .rptIdx] →
     exec (.setc r x) s = .next (s.spend.trap c (wordOfInstr (.setc r x)) .rights 1 0 0))

/-- R155 to R158: a word that is no instruction lands when the header asks for it and LANDBASE names a handler: it counts as
issued, the window holds the word, its hints, its reference, its lanes, its packet and its captured operands, each by its code and whether it is
present, with the value that its source has in each lane, the lanes whose guard holds (all of the strand's for a word that names none), the table is frozen, and one strand
with every lane that has not exited starts at LANDBASE, with RPTIDX the repeat and the latches lost. Without a handler it
raises UNDEFINED, and at depth 2 LANDING_DEPTH. Behind a chain of its group it waits (the model's choice, log 40).

R188 to R190: in a landing handler RDX of code 0 reads a window register into the active lanes of a pair, RDX of a present
field reads the captured operand, WRX stages a write (into a scalar register the value of the lowest lane of w5, of lane 0 where w5 is empty:
the model's choice, log 49), and EMURET returns to the word after the landed one with the window's
lanes, the staged writes done and the latches lost, counting both words as retired. -/
def Obligations.LandingResults : Prop :=
  (∀ (s : State) (c : Cx) (w : Word), s.cx? = some c →
     (c.t.hdr.landing = true → c.p.handlerOk c.g.ctrl.landBase = true → c.g.land.length < 2 →
       c.g.log.length + c.g.land.length < 4 → c.g.chain = none →
       ∃ (t : State) (win : Landing), exec (.landing w) s = .next t ∧
         t = { s with groups := t.groups, parts := (s.countIssued c.p.id).parts } ∧ (∀ j, j ≠ c.gi → t.groups[j]? = s.groups[j]?) ∧
         (let x : Ctx := { landing := true, ctl := c.g.ctl, deferred := none }
          let k : Ctrl := { c.g.ctrl with rptIdx := BitVec.ofNat 6 c.e.rpt }
          t.groups[c.gi]? = some { c.g with land := win :: c.g.land, ctxs := x :: c.g.ctxs, ctrl := k, ctl := Control.single c.g.ctrl.landBase c.g.ctl.live, regs := c.g.regs.loseLatches }) ∧
         win.word = w ∧ win.ref = c.e.pc ∧ win.mask = c.e.active ∧ win.packet = packetBits w c.hs ∧ win.staged = [] ∧
         (let f := packetFields w c.hs
          CapturesIf c f.d win.d ∧ CapturesIf c f.a win.a ∧ CapturesIf c f.b win.b ∧ CapturesIf c f.c win.c) ∧
         (let gd := w.extractLsb' 24 2
          let guard : Option (Bool × BitVec 3) :=
            if formatOf w ∉ [.V, .U, .M, .A] ∨ w.extractLsb' 26 6 = 0x1B then none
            else if gd = 1 then some (false, 0)
            else if gd = 2 then some (true, 0)
            else if gd = 3 then c.hs.grd
            else none
          ∀ l, l < 32 → win.gmask.getLsbD l = (c.e.active.getLsbD l && match guard with
            | some (neg, n) => (c.g.regs.guard n).getLsbD l != neg
            | none => true)) ∧
         win.hint1 = c.e.hints.getD 0 0 ∧ win.hint2 = c.e.hints.getD 1 0) ∧
     (c.t.hdr.landing = false ∨ c.p.handlerOk c.g.ctrl.landBase = false →
       exec (.landing w) s = .next (s.trap c w .undefinedWord 0 0 0)) ∧
     (c.t.hdr.landing = true → c.p.handlerOk c.g.ctrl.landBase = true → 2 ≤ c.g.land.length →
       exec (.landing w) s = .next (s.trap c w .landingDepth 0 0 0))) ∧
  (∀ (s : State) (c : Cx) (win : Landing) (lands : List Landing), s.cx? = some c → c.g.land = win :: lands →
     (∀ (w : BitVec 3) (h : Bool) (v : VReg), c.check (.rdx 0 w h v) = .go →
       ∃ t r, exec (.rdx 0 w h v) s = .next t ∧ WordDone s t c r c.g.ctrl ∧ r = { c.g.regs with v := r.v } ∧
         (∀ l, l < 32 →
           Lanes.at (r.vreg v.toNat) l =
             (if c.e.active.getLsbD l then loWord (win.window c.g.land.length w.toNat) else Lanes.at (c.g.regs.vreg v.toNat) l) ∧
           Lanes.at (r.vreg (v.toNat + 1)) l =
             (if c.e.active.getLsbD l then hiWord (win.window c.g.land.length w.toNat) else Lanes.at (c.g.regs.vreg (v.toNat + 1)) l)) ∧
         ∀ n, n ≠ v.toNat → n ≠ v.toNat + 1 → r.vreg n = c.g.regs.vreg n) ∧
     (∀ (f w : BitVec 3) (h : Bool) (v : VReg) (x : Lanes Word), f ≠ 0 → c.check (.rdx f w h v) = .go →
       c.readField win f.toNat h = .ok x →
       ∃ t r, exec (.rdx f w h v) s = .next t ∧ WordDone s t c r c.g.ctrl ∧ r = { c.g.regs with v := r.v } ∧
         (∀ l, l < 32 → Lanes.at (r.vreg v.toNat) l =
           if c.e.active.getLsbD l then Lanes.at x l else Lanes.at (c.g.regs.vreg v.toNat) l) ∧
         ∀ n, n ≠ v.toNat → r.vreg n = c.g.regs.vreg n) ∧
     (∀ (f w : BitVec 3) (h : Bool) (v : VReg) (vec : Bool) (n : Nat), c.check (.wrx f w h v) = .go →
       (win.field f.toNat).present = true → fieldReg (win.field f.toNat).code h = some (vec, n) → c.fieldRegOk (vec, n) = true →
       ∃ t vals, exec (.wrx f w h v) s = .next t ∧
         (let mask := if vec then c.e.active &&& win.mask else allLanes
          OnlyGroup s t c { Group.retireWord c.k c.repeats { c.g with land := win.stage f.toNat h mask vals :: lands } with age := s.ageAfter c }) ∧
         (vec = false → vals = Lanes.all (Lanes.at (c.g.regs.vreg v.toNat) ((LaneMask.lowest win.mask).getD 0))) ∧
         (vec = true → vals = c.g.regs.vreg v.toNat)) ∧
     (∀ (x : Ctx) (rest : List Ctx) (e : Entry), c.check .emuret = .go → c.g.ctxs = x :: rest → x.landing = true →
       x.ctl.get x.ctl.cur = some e →
       ∃ (t : State) (table : Control), exec .emuret s = .next (t.unpin c.p.id) ∧
         (let e' : Entry := { e with pc := win.ref.add 4, active := win.mask &&& e.owned, hints := [], rpt := 0, wait := .ready, grant := none }
          table = x.ctl.put x.ctl.cur (some e')) ∧
         t = { s with groups := t.groups, parts := (s.countEmulated c.p.id).parts } ∧ (∀ j, j ≠ c.gi → t.groups[j]? = s.groups[j]?) ∧
         (let regs := (win.ordered.foldl win.apply c.g.regs).loseLatches
          let g' : Group := { c.g with land := lands, ctxs := rest, ctl := (table.settle settleFuel false).1, regs := regs, retire := c.g.retire + 2, age := s.ageAfter c }
          t.groups[c.gi]? = some (Group.wake (fun w => w == .logFull) g'))))

/-- R151, R152, R154, R395, R434: taking a trap. The frame of 64 bytes and the latches go to the save slot at FRAME, committed at p;
CAUSE takes the cause's code and RPTIDX the repeat; the table is frozen and one strand with every lane that has not exited starts
at TRAPBASE with the latches lost. Where TRAPBASE names no handler the group parks with class 0; a trap in a trap handler parks it
with class 1 and writes no frame. INTEGRITY parks it with class 3 in every case, and the partition is held (that it writes no frame in
a trap handler is the model's choice, log 54). RIGHTS counts in the partition's counter.

R152: the bytes of a frame: the cause at 0, the flags at 1, the repeat at 2, the landing depth at 3, the code reference at 8, the
faulting address at 0x10, the faulting lanes at 0x18, the former active set at 0x1C, the word at 0x20, its hints at 0x24 and 0x28,
and the detail at 0x2C. -/
def Obligations.TrapEntry : Prop :=
  (∀ (s : State) (gi : Nat) (g : Group) (p : Part) (i : TrapInfo), s.groups[gi]? = some g →
     let counted := if i.cause = .rights then s.updPart p.id fun q =>
       { q with counters := { q.counters with rightsTraps := q.counters.rightsTraps + 1 } } else s
     (g.inTrap = true → i.cause = .integrity → s.takeTrap gi p i = (s.park gi 3).beginHold p.id 2) ∧
     (g.inTrap = true → i.cause ≠ .integrity → s.takeTrap gi p i = counted.park gi 1) ∧
     (g.inTrap = false →
       let saved := counted.frameWrite gi p g.ctrl.frame.toNat (frameBytes g i ++ latchBytes g.regs)
       ∃ (t : State) (g1 g2 : Group), saved.groups[gi]? = some g1 ∧
         (let x : Ctx := { landing := false, ctl := g1.ctl, deferred := i.deferred }
          let k : Ctrl := { g1.ctrl with cause := BitVec.ofNat 8 i.cause.code, rptIdx := BitVec.ofNat 6 i.rpt }
          g2 = { g1 with ctrl := k, ctxs := x :: g1.ctxs, ctl := Control.single g.ctrl.trapBase g1.ctl.live, regs := g1.regs.loseLatches }) ∧
         t = { saved with groups := t.groups } ∧ t.groups[gi]? = some g2 ∧ (∀ j, j ≠ gi → t.groups[j]? = saved.groups[j]?) ∧
         g1.ctl = g.ctl ∧ g1.regs = g.regs ∧ g1.ctrl = g.ctrl ∧
         s.takeTrap gi p i = if i.cause = .integrity then (t.park gi 3).beginHold p.id 2
           else if p.handlerOk g.ctrl.trapBase then t else t.park gi 0)) ∧
  (∀ (g : Group) (i : TrapInfo),
     let f := frameBytes g i
     f.length = 64 ∧ fieldAt f 0 1 = i.cause.code ∧ fieldAt f 2 1 = i.rpt % 256 ∧ fieldAt f 3 1 = g.land.length % 256 ∧
     fieldAt f 8 4 = i.ref.off.toNat ∧ fieldAt f 12 4 = i.ref.obj.toNat ∧ fieldAt f 0x10 8 = i.addr.toNat ∧
     fieldAt f 0x18 4 = i.lanes.toNat ∧ fieldAt f 0x1C 4 = i.former.toNat ∧ fieldAt f 0x20 4 = i.word.toNat ∧
     fieldAt f 0x24 4 = i.hint1.toNat ∧ fieldAt f 0x28 4 = i.hint2.toNat ∧ fieldAt f 0x2C 4 = i.detail.toNat ∧
     (∀ j, 4 ≤ j → j < 8 → f[j]? = some 0) ∧ (∀ j, 0x30 ≤ j → j < 64 → f[j]? = some 0) ∧
     ∃ flags, fieldAt f 1 1 = flags ∧ flags < 128 ∧ (∀ j : Fin 4, flags.testBit j.val = g.regs.bOk[j]) ∧
       flags.testBit 4 = !g.land.isEmpty ∧ flags.testBit 5 = g.region.isSome ∧ flags.testBit 6 = i.deferred.isSome)

/-- R186, R187: TRAP raises SOFTWARE with its code (zero-extended, or the IMM hints' value) and resumes at the next word. TRET in a
trap handler, with a frame that reads and whose reference is live, reloads the latches, restores the frozen table with the frame's
reference and active set (within the owned lanes), and sets RPTIDX. TRET with no trap being handled raises BAD_HANDLE. -/
def Obligations.TrapWords : Prop :=
  ∀ (s : State) (c : Cx), s.cx? = some c →
    (∀ code : BitVec 20, c.check (.trap code) = .go →
      ∃ i : TrapInfo, exec (.trap code) s = .next ((s.countIssued c.p.id).takeTrap c.gi c.p i) ∧
        i.cause = .software ∧ i.ref = c.e.pc.add 4 ∧ i.former = c.e.active ∧ i.word = wordOfInstr (.trap code) ∧
        i.addr = 0 ∧ i.lanes = 0 ∧ i.rpt = 0 ∧ i.deferred = none ∧ (c.hs.imms = [] → i.detail = code.zeroExtend 32)) ∧
    (c.check .tret = .go → c.g.ctxs = [] → exec .tret s = .next (s.trap c (wordOfInstr .tret) .badHandle 0 0 0)) ∧
    (c.check .tret = .go → ∀ (x : Ctx) (rest : List Ctx) (slot : List Byte) (e : Entry), c.g.ctxs = x :: rest → x.landing = false →
      x.deferred = none → s.returnSlot c.who = .ok slot → x.ctl.get x.ctl.cur = some e →
      ∃ t g2, exec .tret s = .next t ∧ t.groups[c.gi]? = some g2 ∧ (∀ j, j ≠ c.gi → t.groups[j]? = s.groups[j]?) ∧
        t.mem = s.mem ∧ t.hist = s.hist ∧ t.teams = s.teams ∧
        (let dst := CodeRef.ofBits (BitVec.ofNat 64 (fieldAt slot 8 8))
         let e' : Entry := { e with pc := dst, active := BitVec.ofNat 32 (fieldAt slot 0x1C 4) &&& e.owned, hints := [], rpt := fieldAt slot 2 1 % 64, wait := .ready, grant := none, drawn := if dst == e.first then e.drawn else none, appended := if dst == e.first then e.appended else [], turned := if dst == e.first then e.turned else [] }
         let table := x.ctl.put x.ctl.cur (some e')
         let regs := (c.g.regs.reloadLatches slot).fusedIf (table.settle settleFuel false).2
         let k : Ctrl := { c.g.ctrl with rptIdx := BitVec.ofNat 6 (fieldAt slot 2 1) }
         let g' : Group := { c.g with ctl := (table.settle settleFuel false).1, ctxs := rest, regs := regs, ctrl := k, retire := c.g.retire + 1, age := s.ageAfter c }
         g2 = Group.wake (fun w => w == .fault || w == .logFull) g'))

/-- R73 to R79: a hint word (IMM, GRD, SRC3, MOD, REP, SCHED, LIVE) that is well formed, of a kind that does not stand yet (IMM may stand twice), with less than two pending,
waits for the word after it: it counts as issued and changes nothing but its strand; else it lands. -/
def Obligations.HintResults : Prop :=
  ∀ (s : State) (c : Cx) (i : Instr) (kind : Nat), s.cx? = some c → i.hintKind = some kind →
    let clash := c.e.hints.any fun w => match decode w with
      | .ok j => j.hintKind == some kind && kind != 0
      | .error _ => false
    (i.wf = true → c.e.hints.length < 2 → clash = false → ∃ t, exec i s = .next t ∧
      t = { s with groups := t.groups, parts := (s.countIssued c.p.id).parts } ∧ (∀ j, j ≠ c.gi → t.groups[j]? = s.groups[j]?) ∧
      (let e' : Entry := { c.e with hints := c.e.hints ++ [wordOfInstr i], pc := c.e.pc.add 4 }
       t.groups[c.gi]? = some { c.g with ctl := c.g.ctl.put c.k (some e') })) ∧
    (i.wf = false ∨ 2 ≤ c.e.hints.length ∨ clash = true → exec i s = .next (s.land c (wordOfInstr i)))

/-! ### Memory -/

/-- R89, R276: the register words of a loaded value: n8 and n16 zero-extended, i8 and i16 sign-extended, the rest in words of four
bytes, the lowest address in the lowest bits.

R250, R261, R273, R276, R277, R279, R280: a load whose lanes pass the checks of R274 completes: its registers take, in the lanes of
act, the words of the bytes that each lane reads, and every other register keeps its value. LD and SLD read what is visible to the group;
LDS reads the team's scratchpad; LDP reads the group's private words, interleaved by lane, of lines that L1 holds, or whole lines brought
to it in ascending order. Nothing is stored. -/
def Obligations.LoadResults : Prop :=
  (∀ b : Fin 16 → Byte,
     let w0 := b 3 ++ b 2 ++ b 1 ++ b 0
     let w1 := b 7 ++ b 6 ++ b 5 ++ b 4
     loadWords .n8 [b 0] = [(b 0).zeroExtend 32] ∧ loadWords .i8 [b 0] = [(b 0).signExtend 32] ∧
     loadWords .n16 [b 0, b 1] = [(b 1 ++ b 0).zeroExtend 32] ∧ loadWords .i16 [b 0, b 1] = [(b 1 ++ b 0).signExtend 32] ∧
     loadWords .word (List.ofFn b) = [w0] ∧ loadWords .double (List.ofFn b) = [w0, w1] ∧
     loadWords .quad (List.ofFn b) = [w0, w1, b 11 ++ b 10 ++ b 9 ++ b 8, b 15 ++ b 14 ++ b 13 ++ b 12]) ∧
  (∀ (s : State) (c : Cx) (xs : List Piece), s.cx? = some c →
     (∀ (f : MForm) (o : Operands), c.check (.ld f) = .go → f.d.toNat + sizeRegs f.size ≤ 128 →
       Through o c (c.act f.gd) f.tb f.x (c.hs.offset (sizeBytes f.size) f.imm) →
       Clears s c .load o (sizeAlign f.size) (sizeBytes f.size) c.who.loadErrors xs →
       Whole s c none (globalSpans c.p .load o (sizeBytes f.size)) (c.act f.gd) xs →
       ∃ t r, exec (.ld f) s = .next t ∧ AccessDone s t c r (s.mayWrite xs) ∧
         LoadWritten c.g.regs r f.d (sizeRegs f.size) (c.act f.gd) fun l => loadWords f.size (s.readPieces c.who xs l)) ∧
     (∀ (d : SReg) (tb : BitVec 3) (x : Src) (imm : BitVec 3) (o : Operands), c.check (.sld d tb x imm) = .go →
       Through o c 1 tb x (c.hs.offset 4 imm) → Clears s c .load o 4 4 c.who.loadErrors xs →
       ∃ t r, exec (.sld d tb x imm) s = .next t ∧ AccessDone s t c r (s.mayWrite xs) ∧
         r.sreg d.val = (loadWords .word (s.readPieces c.who xs 0)).headD 0 ∧ (∀ n, n ≠ d.val → r.sreg n = c.g.regs.sreg n) ∧
         TbKept c.g.regs r ∧ r = { c.g.regs with s := r.s, tb := r.tb }) ∧
     (∀ f : LForm, c.check (.lds f) = .go → f.d.toNat + sizeRegs f.size ≤ 128 →
       let off : Nat → Int := fun l => ((c.src f.x l).toNat : Int) + c.hs.offset (sizeBytes f.size) f.imm
       (∀ l, l < 32 → (c.act f.gd).getLsbD l = true →
         0 ≤ off l ∧ off l + sizeBytes f.size ≤ c.t.hdr.scratch ∧ off l % (sizeAlign f.size : Int) = 0) →
       let grans := ascending ((LaneMask.lanes (c.act f.gd)).flatMap fun l => spadGrans (off l).toNat (sizeBytes f.size))
       ∃ t r, exec (.lds f) s = .next t ∧ AccessDone s t c r false ∧
         LoadWritten c.g.regs r f.d (sizeRegs f.size) (c.act f.gd) fun l =>
           loadWords f.size (c.t.spadRead (c.g.spadReader c.gi grans) s.free (off l).toNat (sizeBytes f.size))) ∧
     (∀ f : LForm, c.check (.ldp f) = .go → f.d.toNat + sizeRegs f.size ≤ 128 →
       let words := sizeBytes f.size / 4
       let index : Nat → Int := fun l => ((c.src f.x l).toNat : Int) + c.hs.offset words f.imm
       let spans := (LaneMask.lanes (c.act f.gd)).map fun l => ({ lane := l, runs := (List.range words).map fun (j : Nat) =>
         ((c.t.privBase c.g.id : Int) + ((index l + j) * 32 + l) * 4, 4) } : Span)
       let sites := s.sitesOf c.t.hall
       let u := (s.usedWalks c.p.id sites xs).loadPrivLines c.who (pieceLines c.p.id xs)
       let gets := fun (r : Regs) (byte : Nat → Byte) => LoadWritten c.g.regs r f.d (sizeRegs f.size) (c.act f.gd) fun l =>
         loadWords f.size ((xs.filter fun x => x.lane == l).flatMap fun x => (List.range x.len).map fun i => byte (x.key + i))
       let listed := fun (cells : List (Nat × Byte)) (a : Nat) => ((cells.find? fun y => y.1 == a).map Prod.snd).getD 0
       (∀ l, l < 32 → (c.act f.gd).getLsbD l = true →
         0 ≤ index l ∧ index l + words ≤ c.who.privLimit ∧ index l % (words : Int) = 0) →
       s.reach c.p sites .load false spans = .ok xs → c.who.privLoadErrors spans s xs = none →
       Whole s c (some c.gi) spans (c.act f.gd) xs →
       ((∀ x ∈ xs, s.holdsL1 c.t.hall (lineOf x.key) (some c.gi) = true ∧ 0 < x.len ∧ x.key % 128 + x.len ≤ 128) →
         ∃ t r, exec (.ldp f) s = .next t ∧ AccessDone s t c r false ∧ gets r (listed c.g.priv)) ∧
       ∃ t r g, exec (.ldp f) s = .next t ∧ u.1.groups[c.gi]? = some g ∧ WordDone u.1.spend t { c with g := g } r g.ctrl ∧
         g.ctrl = c.g.ctrl ∧ gets r (listed u.2)))

/-- R41, R43, R46, R273, R278: ST without .nt, within the group's quota, places each lane's bytes in the phase store buffer: the group
then reads each stored byte back, the higher lane's where two lanes write one byte; every other byte reads as before, memory and
the commits stay, and no register changes.

R43, R44, R54, R56, R184, R278: ST past the quota first commits the group's earlier stores at p and counts a phase; ST.nt leaves the
phase store buffer and every other pending store as they were, its bytes pending until they are performed, and closes an open region; with the
header's flag one opens at what follows it. -/
def Obligations.StoreResults : Prop :=
  (∀ (s : State) (c : Cx) (f : MForm) (o : Operands) (xs : List Piece), s.cx? = some c → c.check (.st f) = .go →
     Through o c (c.act f.gd) f.tb f.x (c.hs.offset (sizeBytes f.size) f.imm) →
     let bytes := storeBytes f.size (c.g.regs.run f.d.toNat (sizeRegs f.size))
     Clears s c .store o (sizeAlign f.size) (sizeBytes f.size) (fun spans => c.who.storeErrors spans bytes) xs →
     let cells := storeCells xs bytes
     c.hs.modh.any ModForm.nt = false → c.g.overQuota c.t.hdr.quota (ownStores false xs bytes) = false →
     ∃ t r st, exec (.st f) s = .next t ∧ TbKept c.g.regs r ∧ r = { c.g.regs with tb := r.tb } ∧
       AccessOnly s t c { c.accessed s r with stores := st } false ∧
       t.mem = s.mem ∧ t.hist = s.hist ∧
       (∀ a, (∀ b, (a, b) ∉ cells) → st.find? (fun o => o.key == a) = c.g.stores.find? fun o => o.key == a) ∧
       ∀ a b, (cells.reverse.find? fun x => x.1 == a) = some (a, b) → ownByte st a = some b) ∧
  (∀ (s : State) (c : Cx) (f : MForm) (o : Operands) (xs : List Piece), s.cx? = some c → c.check (.st f) = .go →
     Through o c (c.act f.gd) f.tb f.x (c.hs.offset (sizeBytes f.size) f.imm) →
     let bytes := storeBytes f.size (c.g.regs.run f.d.toNat (sizeRegs f.size))
     Clears s c .store o (sizeAlign f.size) (sizeBytes f.size) (fun spans => c.who.storeErrors spans bytes) xs →
     let cells := storeCells xs bytes
     let u := s.usedWalks c.p.id (s.sitesOf c.t.hall) xs
     (c.hs.modh.any ModForm.nt = false → c.g.overQuota c.t.hdr.quota (ownStores false xs bytes) = true →
       ∃ t g, exec (.st f) s = .next t ∧ t.mem = (u.commitGroup c.gi .p).mem ∧ t.hist = (u.commitGroup c.gi .p).hist ∧
         t.groups[c.gi]? = some g ∧ g.ctrl = { c.g.ctrl with phaseCnt := c.g.ctrl.phaseCnt + 1 } ∧
         g.retire = c.g.retire + 1 ∧ g.regs.v = c.g.regs.v ∧ g.regs.s = c.g.regs.s ∧
         ∀ a b, (cells.reverse.find? fun x => x.1 == a) = some (a, b) → ownByte g.stores a = some b) ∧
     (c.hs.modh.any ModForm.nt = true →
       ∃ t g, exec (.st f) s = .next t ∧ t.mem = s.mem ∧ t.hist = s.hist ∧ t.groups[c.gi]? = some g ∧
         g.retire = c.g.retire + 1 ∧ g.regs.v = c.g.regs.v ∧ g.regs.s = c.g.regs.s ∧ g.ctrl = c.g.ctrl ∧
         (let stays := fun o : OwnStore => !o.nt || !cells.any fun x => x.1 == o.key
          g.stores.filter stays = (c.g.stores.filter stays).map fun o => { o with inRegion := false }) ∧
         (c.t.hdr.regions = false ∨ c.g.mayOpen = false → g.region = none) ∧
         (c.t.hdr.regions = true → c.g.mayOpen = true → ∃ r, g.region = some r ∧ r.pc = c.following.1 ∧ r.rpt = c.following.2 ∧
           r.regs.v = c.g.regs.v ∧ r.regs.s = c.g.regs.s ∧ r.ctrl = c.g.ctrl ∧ r.active = c.e.active ∧ r.retire = c.g.retire + 1) ∧
         (∀ a b, (cells.reverse.find? fun x => x.1 == a) = some (a, b) →
           ∃ o ∈ g.stores, o.key = a ∧ o.val = b ∧ o.unperformed = true) ∧
         ∀ a, .ntStorePerformed c.gi (granOf a) .g ∈ t.events ∨ ∀ b, (a, b) ∉ cells))

/-- R246, R249, R251, R273, R279, R280, R302: STS and STP whose lanes pass the checks of R274. STS stores each lane's bytes into the team's
scratchpad and nowhere else; STP stores into the group's private lines in L1, which no other party reads: into lines that L1 holds,
or into each line in ascending order as it comes there. Where lanes write one byte the higher lane's stays. -/
def Obligations.LocalStoreResults : Prop :=
  ∀ (s : State) (c : Cx) (f : LForm), s.cx? = some c →
    (c.check (.sts f) = .go → c.t.spad.wf = true →
      let off : Nat → Int := fun l => ((c.src f.x l).toNat : Int) + c.hs.offset (sizeBytes f.size) f.imm
      let bytes := storeBytes f.size (c.g.regs.run f.d.toNat (sizeRegs f.size))
      let cells := (LaneMask.lanes (c.act f.gd)).flatMap fun l => (List.range (sizeBytes f.size)).map fun i => ((off l).toNat + i, (bytes l).getD i 0)
      (∀ l, l < 32 → (c.act f.gd).getLsbD l = true →
        0 ≤ off l ∧ off l + sizeBytes f.size ≤ c.t.hdr.scratch ∧ off l % (sizeAlign f.size : Int) = 0) →
      ∃ t u team, exec (.sts f) s = .next t ∧ WordDone u t c c.g.regs c.g.ctrl ∧
        u = { s with teams := u.teams, seq := u.seq } ∧ u.teams[c.g.team]? = some team ∧
        (∀ j, j ≠ c.g.team → u.teams[j]? = s.teams[j]?) ∧
        team = { c.t with spad := team.spad, spadHist := team.spadHist } ∧ team.spad.wf = true ∧
        (∀ a, (∀ b, (a, b) ∉ cells) → team.spad.read a = c.t.spad.read a) ∧
        ∀ a b, (cells.reverse.find? fun x => x.1 == a) = some (a, b) → team.spad.read a = b) ∧
    (∀ xs, c.check (.stp f) = .go →
      let words := sizeBytes f.size / 4
      let index : Nat → Int := fun l => ((c.src f.x l).toNat : Int) + c.hs.offset words f.imm
      let spans := (LaneMask.lanes (c.act f.gd)).map fun l => ({ lane := l, runs := (List.range words).map fun (j : Nat) =>
        ((c.t.privBase c.g.id : Int) + ((index l + j) * 32 + l) * 4, 4) } : Span)
      let bytes := storeBytes f.size (c.g.regs.run f.d.toNat (sizeRegs f.size))
      let cells := storeCells xs bytes
      let sites := s.sitesOf c.t.hall
      let u := (pieceLines c.p.id xs).foldl (fun s x => s.storePrivLine c.t.hall c.gi x.2 x.1 cells) (s.usedWalks c.p.id sites xs)
      (∀ l, l < 32 → (c.act f.gd).getLsbD l = true →
        0 ≤ index l ∧ index l + words ≤ c.who.privLimit ∧ index l % (words : Int) = 0) →
      s.reach c.p sites .store false spans = .ok xs → c.who.privStoreErrors spans bytes s xs = none →
      ((∀ x ∈ xs, s.holdsL1 c.t.hall (lineOf x.key) (some c.gi) = true ∧ 0 < x.len ∧ x.key % 128 + x.len ≤ 128) →
        (c.g.priv.map Prod.fst).Pairwise (· < ·) →
        ∃ t priv, exec (.stp f) s = .next t ∧ AccessOnly s t c { c.accessed s c.g.regs with priv := priv } false ∧
          (priv.map Prod.fst).Pairwise (· < ·) ∧
          (∀ a, (∀ b, (a, b) ∉ cells) → (priv.find? fun x => x.1 == a) = c.g.priv.find? fun x => x.1 == a) ∧
          ∀ a b, (cells.reverse.find? fun x => x.1 == a) = some (a, b) → (priv.find? fun x => x.1 == a) = some (a, b)) ∧
      ∃ t g, exec (.stp f) s = .next t ∧ u.groups[c.gi]? = some g ∧ WordDone u t { c with g := g } g.regs g.ctrl ∧
        g.regs = c.g.regs ∧ g.ctrl = c.g.ctrl)

/-- R249, R266, R273, R274: where an access fails. The bound of a local access comes first, then alignment, each with every
failing lane and the lowest one's address; a page fault of LD or ST with room in the operand log defers the access: a log entry with its lanes
and operands, while the group goes on, no byte of memory and no pending store changes, and the word counts as retired (that it does so when it
is deferred is the model's choice, log 41 and 22). -/
def Obligations.AccessFailures : Prop :=
  ∀ (s : State) (c : Cx), s.cx? = some c →
    let lowest := fun (bad : LaneMask) (l : Nat) => l < 32 ∧ bad.getLsbD l = true ∧ ∀ k, k < l → bad.getLsbD k = false
    (∀ (f : MForm) (bad : LaneMask) (l : Nat), lowest bad l →
      let addr := c.laneAddr f.tb f.x (c.hs.offset (sizeBytes f.size) f.imm)
      (∀ k, k < 32 → bad.getLsbD k = ((c.act f.gd).getLsbD k && addr k % (sizeAlign f.size : Int) != 0)) →
      (c.check (.ld f) = .go →
        exec (.ld f) s = .next (s.trap c (wordOfInstr (.ld f)) .align 0 (BitVec.ofInt 64 (addr l)) bad)) ∧
      (c.check (.st f) = .go →
        exec (.st f) s = .next (s.trap c (wordOfInstr (.st f)) .align 0 (BitVec.ofInt 64 (addr l)) bad))) ∧
    (∀ (f : LForm) (bad : LaneMask) (l : Nat), lowest bad l →
      let off : Nat → Int := fun l => ((c.src f.x l).toNat : Int) + c.hs.offset (sizeBytes f.size) f.imm
      (∀ k, k < 32 → bad.getLsbD k =
        ((c.act f.gd).getLsbD k && (off k < 0 || (c.t.hdr.scratch : Int) < off k + sizeBytes f.size))) →
      (c.check (.lds f) = .go →
        exec (.lds f) s = .next (s.trap c (wordOfInstr (.lds f)) .scratchBound 0 (BitVec.ofInt 64 (off l)) bad)) ∧
      (c.check (.sts f) = .go →
        exec (.sts f) s = .next (s.trap c (wordOfInstr (.sts f)) .scratchBound 0 (BitVec.ofInt 64 (off l)) bad))) ∧
    (∀ (f : LForm) (bad : LaneMask) (l : Nat), lowest bad l →
      let off : Nat → Int := fun l => ((c.src f.x l).toNat : Int) + c.hs.offset (sizeBytes f.size) f.imm
      (∀ k, k < 32 → (c.act f.gd).getLsbD k = true → 0 ≤ off k ∧ off k + sizeBytes f.size ≤ c.t.hdr.scratch) →
      (∀ k, k < 32 → bad.getLsbD k = ((c.act f.gd).getLsbD k && off k % (sizeAlign f.size : Int) != 0)) →
      (c.check (.lds f) = .go →
        exec (.lds f) s = .next (s.trap c (wordOfInstr (.lds f)) .align 0 (BitVec.ofInt 64 (off l)) bad)) ∧
      (c.check (.sts f) = .go →
        exec (.sts f) s = .next (s.trap c (wordOfInstr (.sts f)) .align 0 (BitVec.ofInt 64 (off l)) bad))) ∧
    (∀ (f : LForm) (bad : LaneMask) (l : Nat), lowest bad l → 4 ≤ sizeBytes f.size →
      let words := sizeBytes f.size / 4
      let index : Nat → Int := fun l => ((c.src f.x l).toNat : Int) + c.hs.offset words f.imm
      (∀ k, k < 32 → bad.getLsbD k =
        ((c.act f.gd).getLsbD k && (index k < 0 || (c.who.privLimit : Int) < index k + words))) →
      let a := BitVec.ofInt 64 ((c.t.privBase c.g.id : Int) + (index l * 32 + l) * 4)
      (c.check (.ldp f) = .go → exec (.ldp f) s = .next (s.trap c (wordOfInstr (.ldp f)) .stackLimit 0 a bad)) ∧
      (c.check (.stp f) = .go → exec (.stp f) s = .next (s.trap c (wordOfInstr (.stp f)) .stackLimit 0 a bad))) ∧
    (∀ (f : LForm) (bad : LaneMask) (l : Nat), lowest bad l → 4 ≤ sizeBytes f.size →
      let words := sizeBytes f.size / 4
      let index : Nat → Int := fun l => ((c.src f.x l).toNat : Int) + c.hs.offset words f.imm
      (∀ k, k < 32 → (c.act f.gd).getLsbD k = true → 0 ≤ index k ∧ index k + words ≤ c.who.privLimit) →
      (∀ k, k < 32 → bad.getLsbD k = ((c.act f.gd).getLsbD k && index k % (words : Int) != 0)) →
      let a := BitVec.ofInt 64 ((c.t.privBase c.g.id : Int) + (index l * 32 + l) * 4)
      (c.check (.ldp f) = .go → exec (.ldp f) s = .next (s.trap c (wordOfInstr (.ldp f)) .align 0 a bad)) ∧
      (c.check (.stp f) = .go → exec (.stp f) s = .next (s.trap c (wordOfInstr (.stp f)) .align 0 a bad))) ∧
    (∀ (f : MForm) (o : Operands) (fs : List PageFault) (a : DWord) (m : LaneMask), c.check (.st f) = .go → c.g.log.length + c.g.land.length < 4 →
      Through o c (c.act f.gd) f.tb f.x (c.hs.offset (sizeBytes f.size) f.imm) →
      (∀ l, l < 32 → (c.act f.gd).getLsbD l = true → ((o.tb.base.toNat : Int) + o.offset l) % (sizeAlign f.size : Int) = 0) →
      s.reach c.p (s.sitesOf c.t.hall) .store true (globalSpans c.p .store o (sizeBytes f.size)) = .page fs a m →
      let closed : LogEntry → LogEntry := fun l => if c.hs.modh.any ModForm.nt then { l with inRegion := false } else l
      ∃ t g l, exec (.st f) s = .next t ∧ t.groups[c.gi]? = some g ∧ g.log = c.g.log.map closed ++ [l] ∧ g.retire = c.g.retire + 1 ∧
        g.regs.v = c.g.regs.v ∧ t.mem = s.mem ∧ t.hist = s.hist ∧ g.stores.map (fun o => (o.key, o.val)) = c.g.stores.map (fun o => (o.key, o.val)) ∧
        l.instr = .st f ∧ l.mask = c.e.active ∧ l.ops.act = c.act f.gd ∧ l.ops.data = c.g.regs.run f.d.toNat (sizeRegs f.size) ∧
        l.addr = a ∧ l.lanes = m ∧ l.faults.map FaultRef.va = fs.map PageFault.va) ∧
    ∀ (f : MForm) (o : Operands) (fs : List PageFault) (a : DWord) (m : LaneMask), c.check (.ld f) = .go → c.g.log.length + c.g.land.length < 4 →
      Through o c (c.act f.gd) f.tb f.x (c.hs.offset (sizeBytes f.size) f.imm) →
      (∀ l, l < 32 → (c.act f.gd).getLsbD l = true → ((o.tb.base.toNat : Int) + o.offset l) % (sizeAlign f.size : Int) = 0) →
      s.reach c.p (s.sitesOf c.t.hall) .load true (globalSpans c.p .load o (sizeBytes f.size)) = .page fs a m →
      ∃ t g l, exec (.ld f) s = .next t ∧ t.groups[c.gi]? = some g ∧ g.log = c.g.log ++ [l] ∧ g.retire = c.g.retire + 1 ∧
        g.regs.v = c.g.regs.v ∧ l.instr = .ld f ∧ l.mask = c.e.active ∧ l.ops.act = c.act f.gd ∧ l.addr = a ∧ l.lanes = m ∧
        l.faults.map FaultRef.va = fs.map PageFault.va

/-- R49, R56, R77, R281, R282: the atomics. Where the lanes' addresses pass the checks of R274 and no rerun orders atomics, the word
completes: with .rel it first commits at its scope, then each lane of act performs its operation in ascending order, and the
destination takes in each lane what that lane's operation read (ATOM.STORE writes no register). `atomLanes` runs the lanes, one aligned piece
each; the strand table is the word's own unless a strand of the group sleeps in WAITW, which the atomic may wake.
The second part states one lane's operation.

R49, R281: the operation of one lane at a home whose granule the group buffers no store of, in a page that is not counted: it reads the
old value, stores the new one as one commit at its scope that is atomic, and changes no other byte; ATOM.LOAD stores none, and its place is
noted for the group's own later reads (R282). The hall's L1 keeps no copy of the line (R282). -/
def Obligations.AtomicResults : Prop :=
  (∀ (s : State) (c : Cx) (i : Instr) (op : AtomOp) (f : AForm) (o : Operands) (xs : List Piece), s.cx? = some c →
     (i, op) ∈ [(Instr.atomSwap f, AtomOp.swap), (.atomAdd f, .add), (.atomAnd f, .and), (.atomOr f, .or), (.atomXor f, .xor),
       (.atomMin f, .min), (.atomMax f, .max), (.atomNmin f, .nmin), (.atomNmax f, .nmax), (.atomCas f, .cas),
       (.atomFadd f, .fadd), (.atomLoad f, .load), (.atomStore f, .store)] →
     c.check i = .go → f.d.toNat + (if f.wide then 2 else 1) ≤ 128 → c.p.replay.ctl = 0 →
     let n := if f.wide then 8 else 4
     Through o c (c.act f.gd) f.tb f.x (c.hs.imm 0 0) →
     Clears s c (if op = .load then .atomLoad else .atomic) o n n (c.who.atomErrors c.hs.atomScope) xs → (xs.map Piece.lane).Nodup →
     let reg := fun (j l : Nat) => (Lanes.at (c.g.regs.vreg (f.d.toNat + j)) l).toNat
     let val := fun (j l : Nat) => if f.wide then reg (2 * j) l + 2 ^ 32 * reg (2 * j + 1) l else reg j l
     let u := s.usedWalks c.p.id (s.sitesOf c.t.hall) xs
     let u1 := if c.hs.rel then u.commitGroup c.gi c.hs.atomScope else u
     let run := u1.atomLanes c.who op f.wide c.hs.atomScope c.hs.acq (xs.map fun x => (x.lane, x, val 0 x.lane, val 1 x.lane))
     ∃ t g r fused, exec i s = .next t ∧ t.mem = run.1.mem ∧ t.hist = run.1.hist ∧ t.groups[c.gi]? = some g ∧
       g.retire = c.g.retire + 1 ∧ g.ctrl = c.g.ctrl ∧ g.regs = r.fusedIf fused ∧
       (c.g.anyEntry (fun e => e.wait == .watch) = false → g.ctl = c.tableAfter.1 ∧ fused = c.tableAfter.2) ∧
       LoadWritten c.g.regs r f.d (if op = .store then 0 else if f.wide then 2 else 1) (c.act f.gd) fun l =>
         let old := ((run.2.find? fun x => x.1 == l).map Prod.snd).getD 0
         [BitVec.ofNat 32 old, BitVec.ofNat 32 (old / 2 ^ 32)]) ∧
  (∀ (s : State) (w : Who) (g : Group) (op : AtomOp) (wide : Bool) (sc : Scope) (acq : Bool) (p : Piece) (v e : Nat),
     let key := p.key
     s.groups[w.gi]? = some g → (∀ o ∈ g.stores, granOf o.key ≠ granOf key) → p.cnt = false → s.plainMemory → s.mem.wf = true →
     let n := if wide then 8 else 4
     key % n = 0 → v < 2 ^ (8 * n) → e < 2 ^ (8 * n) →
     let r := s.atomLane w op wide sc acq p v e
     let old := s.mem.num key n
     let o : BitVec (8 * n) := BitVec.ofNat _ old
     let x : BitVec (8 * n) := BitVec.ofNat _ v
     let gives := fun y : BitVec (8 * n) => r.1.mem.num key n = y.toNat
     r.2 = old ∧ (∀ h ∈ r.1.halls[w.t.hall]?, ∀ l ∈ h.l1, l.line = key / 128 → l.owner ≠ none) ∧ (∀ a, a < key ∨ key + n ≤ a → r.1.mem.read a = s.mem.read a) ∧
     r.1.seq = s.seq + 1 ∧
     (∃ k, r.1.hist = k :: s.hist ∧ k.gran = granOf key ∧ k.atomic = true ∧ k.seq = s.seq ∧ k.party = s.partyOf w.gi ∧
       k.scope = (if op = .load then .g else sc) ∧ (op = .load → ∀ b ∈ k.bytes, b = none)) ∧
     (op = .load → r.1.mem = s.mem) ∧
     (op = .swap ∨ op = .store → gives x) ∧ (op = .add → gives (o + x)) ∧ (op = .and → gives (o &&& x)) ∧
     (op = .or → gives (o ||| x)) ∧ (op = .xor → gives (o ^^^ x)) ∧
     (op = .min → gives (if x.slt o then x else o)) ∧ (op = .max → gives (if o.slt x then x else o)) ∧
     (op = .nmin → gives (if x < o then x else o)) ∧ (op = .nmax → gives (if o < x then x else o)) ∧
     (op = .cas → gives (if old = e then x else o)) ∧
     (op = .fadd → r.1.mem.num key n =
       let fmt := if wide then Fmt.fp64 else Fmt.fp32
       (fmt.round .rne 0 (Ext.add false (fmt.decode old) (fmt.decode v)).1).code % 2 ^ (8 * n)))

/-- R54, R56, R285 to R288, R292: the phase words complete. COMMIT.s at h or wider and DRAIN close an open region; FENCE at h or wider
notes its place; WAITW goes on, beginning at y, where no watch is armed, one has fired, a save is asked for or a save woke it, and waits
otherwise. CommitAndRead states what a COMMIT does, and the second part what a BEGIN does.

R45, R46, R247, R286: BEGIN.g does nothing. At h, p or y it takes a place of the scope order, from which the group's reads at
that scope and narrower ones are matched; at p or y the hall also drops its global L1 lines, and keeps the private ones. No memory and no
commit changes. -/
def Obligations.PhaseWordResults : Prop :=
  (∀ (s : State) (c : Cx) (sc : Scope), s.cx? = some c →
     (c.check (.commitAt sc) = .go → exec (.commitAt sc) s =
       .next (if sc = .g then s.retire c else ((s.commitGroup c.gi sc).closeRegion c).retire c)) ∧
     (c.check (.beginAt sc) = .go → exec (.beginAt sc) s = .next ((s.beginGroup c.gi sc).retire c)) ∧
     (c.check (.fence sc) = .go → ∃ t, exec (.fence sc) s = .next t ∧ OnlyGroup s t c { c.g with
       regs := c.g.regs.fusedIf c.tableAfter.2, ctl := c.tableAfter.1, retire := c.g.retire + 1, age := s.ageAfter c,
       fence := if sc = .g then c.g.fence else s.seq }) ∧
     (c.check (.drain sc) = .go → exec (.drain sc) s = .next (((s.drainGroup c.gi sc).closeRegion c).retire c)) ∧
     (c.check .waitw = .go →
       (c.g.watch = [] ∨ c.g.ctrl.preq = true ∨ c.e.grant = some .woken ∨ (∃ w ∈ c.g.watch, w.fired = true) →
         exec .waitw s = .next (((s.updGroup c.gi fun g => { g with watch := g.watch.map fun w => { w with fired := false } }).beginGroup
           c.gi .y).retire c)) ∧
       (c.g.watch ≠ [] → c.g.ctrl.preq = false → c.e.grant ≠ some .woken → (∀ w ∈ c.g.watch, w.fired = false) → exec .waitw s = .next (s.holdWord c .watch)))) ∧
  (∀ (s : State) (gi : Nat) (g : Group) (sc : Scope), s.groups[gi]? = some g →
     let t := s.beginGroup gi sc
     t.mem = s.mem ∧ t.hist = s.hist ∧ t.teams = s.teams ∧ (sc = .g → t = s) ∧
     (sc ≠ .g → t.seq = s.seq + 1 ∧ (∀ j, j ≠ gi → t.groups[j]? = s.groups[j]?) ∧
       ∃ st, t.groups[gi]? = some { g with
         stores := st, beginH := s.seq + 1, beginP := if sc = .h then g.beginP else s.seq + 1,
         beginY := if sc = .y then s.seq + 1 else g.beginY }) ∧
     (sc = .p ∨ sc = .y → ∀ team h, s.teamOf g = some team → s.halls[team.hall]? = some h →
       t.halls = s.halls.set team.hall { h with l1 := h.l1.filter fun l => l.owner.isSome }) ∧
     (sc = .h → t.halls = s.halls))

/-- R38, R40, R41, R269: a COMMIT at h, p or y, where no write is tracked or protected, makes every plain store of the group that has
not been committed at that scope one commit at one place of the scope order. At p and y it reaches the home, whose other bytes
keep their values; at h the home keeps all of them. Of the group nothing else changes but what a watch of its own on those bytes wakes.

R39, R40, R46, R48, R419: what a read of bytes returns, where no sector is sealed. An operator's HOIST reads what stands at the system
home. For every other reader the group's own store to a byte, where rule 1 applies, stands before all else. A granule without commits reads as memory holds it. Where the newest visible commit is matched,
its bytes are read; where none is matched, the granule is one of its versions. -/
def Obligations.CommitAndRead : Prop :=
  (∀ (s : State) (gi : Nat) (g : Group) (sc : Scope), s.groups[gi]? = some g → sc ≠ .g → s.plainMemory → s.mem.wf = true →
     let t := s.commitGroup gi sc
     let sent := fun (a : Nat) (o : OwnStore) => o.key == a && !o.nt && (match o.level with
       | none => true
       | some l => l.rank < sc.rank)
     t.seq = s.seq + 1 ∧ (sc = .h → t.mem = s.mem) ∧
     (sc ≠ .h → ∀ a, t.mem.read a = match g.stores.find? (sent a) with
       | some o => if o.level = some .p then s.mem.read a else o.val
       | none => s.mem.read a) ∧
     (∃ new, t.hist = new ++ s.hist ∧ (∀ k ∈ new, k.scope = sc ∧ k.party = s.partyOf gi ∧ k.seq = s.seq ∧ k.atHome = (sc != .h)) ∧
       ∀ o ∈ g.stores, sent o.key o = true → ∃ k ∈ new, k.gran = granOf o.key) ∧
     (∃ g1 st w, (g1 = g ∨ g1 = g.mapEntries Entry.rouse) ∧ t.groups[gi]? = some { g1 with stores := st, watch := w } ∧
       ∀ o ∈ st, sent o.key o = false) ∧
     t.teams = s.teams ∧ t.parts = s.parts) ∧
  (∀ (s : State) (r : Reader) (own : List OwnStore) (n key : Nat), s.homes.seals = [] →
     let vis := s.hist.filter fun k => k.gran == granOf key && k.visible r
     (r.sysHome = true → s.readSpan r own n key 1 = [s.homes.sysMem.read key]) ∧ (r.sysHome = false →
     (∀ b, ownByte own key = some b → s.readSpan r own n key 1 = [b]) ∧
     (ownByte own key = none → vis = [] → s.readSpan r own n key 1 = [s.mem.read key]) ∧
     (∀ k rest b, ownByte own key = none → vis = k :: rest → k.matched r = true → k.bytes[key % 16]? = some (some b) →
       (∀ k' ∈ vis, k'.prior.length = 16) → s.readSpan r own n key 1 = [b]) ∧
     (∀ v, ownByte own key = none → s.readSpan r own n key 1 = [v] → (∀ k' ∈ vis, k'.prior.length = 16) →
       v = s.mem.read key ∨ (∃ k ∈ vis, k.bytes[key % 16]? = some (some v)) ∨ ∃ k ∈ vis, k.prior[key % 16]? = some v)))

/-- R55, R181, R255, R260, R284, R289 to R291, R293: the other memory words complete. TBSET leaves its base, the limit cut at the
page's end, and the page's bits; KTIE ties a knot to the home of its address; STEP adds to the partition's L2 step counter;
PFETCH changes no register, and no byte where no page that it reads is counted; WATCH arms its line; DISCARD drops the group's buffered
stores of its lines, whose granules come to hold the value they held or the one last written back, and leaves every other byte. -/
def Obligations.MemoryWordResults : Prop :=
  ∀ (s : State) (c : Cx), s.cx? = some c →
    let sites := s.sitesOf c.t.hall
    (∀ (tb : BitVec 3) (p l : SReg) (x : Piece) (y : Xlate), c.check (.tbset tb p l) = .go →
      let base := c.g.regs.spair p.val
      s.reach c.p sites .load false (oneSpan base.toNat 1) = .ok [x] → x.found = .hit y →
      ∃ t r, exec (.tbset tb p l) s = .next t ∧ AccessDone s t c r false ∧ r = { c.g.regs with tb := r.tb } ∧
        (∀ i : BitVec 3, i ≠ tb → r.tbReg i = c.g.regs.tbReg i) ∧
        r.tbReg tb = { base := base, limit := BitVec.ofNat 32 (min (c.g.regs.sreg l.val).toNat (y.va + y.bytes + y.more - base.toNat)),
                       wr := y.w1 && y.w2, dsc := y.dsc, shr := y.shr, frame := some y }) ∧
    (∀ (k : BitVec 8) (r : SReg) (x : Piece) (kn : Knot), c.check (.ktie k r) = .go → c.t.knots[k.toNat]? = some kn →
      let a := (c.g.regs.spair r.val).toNat
      a % 4 = 0 → s.reach c.p sites .load false (oneSpan a 4) = .ok [x] →
      ∃ t u, exec (.ktie k r) s = .next t ∧ AccessDone u t c c.g.regs false ∧ u = { s with teams := u.teams } ∧
        (∀ j, j ≠ c.g.team → u.teams[j]? = s.teams[j]?) ∧
        (let kn' : Knot := { kn with tie := some x.key }
         u.teams[c.g.team]? = some { c.t with knots := c.t.knots.set k.toNat kn' })) ∧
    (∀ x, c.check (.stepCounter x) = .go →
      ∃ u, Passes (exec (.stepCounter x) s) u c ∧
        u = s.updPart c.p.id fun q => { q with xlat := { q.xlat with l2step := q.xlat.l2step + c.sop x } }) ∧
    (∀ tb x, c.check (.pfetch tb x) = .go →
      let reads := (LaneMask.lanes c.e.active).filterMap fun l =>
        s.prefetchable c.p sites ((c.g.regs.tbReg tb).base.toNat + (c.src x l).toNat)
      ∃ t, exec (.pfetch tb x) s = .next t ∧ AccessDone s t c c.g.regs (s.mayWrite [] || reads.any Xlate.cnt)) ∧
    (∀ (tb : BitVec 3) (o : SReg) (x : Piece), c.check (.watch tb o) = .go →
      let a : Int := ((c.g.regs.tbReg tb).base.toNat : Int) + (c.g.regs.sreg o.val).toNat
      s.reach c.p sites .load true (oneSpan a 1) = .ok [x] → keyClass x.key = 0 →
      ∃ t ws, exec (.watch tb o) s = .next t ∧
        AccessOnly s t c { c.accessed s c.g.regs with watch := ws } false ∧
        (∃ w ∈ ws, w.line = x.key / 128) ∧ (c.g.watch.length ≤ 8 → ws.length ≤ 8) ∧
        ((∀ w ∈ c.g.watch, w.line ≠ x.key / 128) → c.g.watch.length < 8 →
          ws = c.g.watch ++ [{ line := x.key / 128, fired := false }])) ∧
    (∀ (tb : BitVec 3) (o n : SReg) (xs : List Piece), c.check (.discard tb o n) = .go → s.homes.seals = [] → s.mem.wf = true →
      let count := (c.g.regs.sreg n.val).toNat
      let start : Int := ((c.g.regs.tbReg tb).base.toNat : Int) + (c.g.regs.sreg o.val).toNat
      let spans := if count = 0 then [] else oneSpan start (128 * count)
      start % 128 = 0 → (count = 0 ∨ start + 128 * count ≤ classBase) → s.reach c.p sites .store true spans = .ok xs →
      (∀ x ∈ spans.flatMap (s.pieces c.p sites .store true), x.noDiscard c.p sites = false) →
      let lines := xs.flatMap fun x => (List.range (x.len / 128)).map fun i => lineOf (x.key + 128 * i)
      ∃ t g, exec (.discard tb o n) s = .next t ∧ t.groups[c.gi]? = some g ∧ g.retire = c.g.retire + 1 ∧ g.regs.v = c.g.regs.v ∧
        (∀ q ∈ g.stores, lineOf q.key ∉ lines ∨ q.nt = true) ∧
        (∀ q ∈ c.g.stores, lineOf q.key ∉ lines ∨ q.nt = true → ∃ q' ∈ g.stores, q'.key = q.key ∧ q'.val = q.val) ∧
        (∀ a, lineOf a ∉ lines → t.mem.read a = s.mem.read a) ∧
        ∀ gran, gran / 8 ∈ lines → t.mem.readN (16 * gran) 16 = s.mem.readN (16 * gran) 16 ∨
          t.mem.readN (16 * gran) 16 = s.homes.backing.readN (16 * gran) 16)

/-! ### The matrix engine -/

/-- R329 to R332, R339, R345, R355 to R359: the MATCTL words of a group of one strand with all lanes. A word on a slot on which another group
of the team runs a chain waits for it (R345); else ZERO binds a slot to a tile of zeros;
DRAIN writes a float slot's cells over the tile, adds an integer slot's counts and cells to it modulo 2^32, and unbinds the slot;
FOLD adds the counts and keeps the cells; ACCRD and ACCWR read and write a row of cells; ACCLD and ACCST copy a tile from and to
scratchpad; GALST stores the counts. Other slots, tiles, registers and all memory stay.

R329: a matrix word of a group with more than one strand, or with a lane that is not active, raises ILLEGAL_CONVERGENCE. -/
def Obligations.MatrixWordResults : Prop :=
  (∀ (s : State) (c : Cx) (z : BitVec 2), s.cx? = some c → c.collective = true → c.t.tiles.wf = true → c.t.spad.wf = true →
     let x := c.t.slot z.toNat
     let alone : Prop := s.slotTaken c.t c.gi z = false
     let cell := fun (y : Slot) (n : Nat) => y.cells.toList.getD n 0
     let count := fun (y : Slot) (n : Nat) => y.counts.toList.getD n 0
     let keeps := fun (team : Team) => team = { c.t with tiles := team.tiles, slots := team.slots } ∧
       ∀ w : BitVec 2, w ≠ z → team.slot w.toNat = c.t.slot w.toNat
     let outside := fun (team : Team) (a n : Nat) => ∀ b, b < a ∨ a + n ≤ b → team.tiles.read b = c.t.tiles.read b
     (∀ tile : BitVec 8, c.check (.zero z tile) = .go → alone →
       ∃ team, TeamDone (exec (.zero z tile) s) s c team ∧ keeps team ∧ outside team (4096 * tile.toNat) 4096 ∧
         (∀ i, i < 4096 → team.tiles.read (4096 * tile.toNat + i) = 0) ∧
         team.slot z.toNat = { bound := some (tile.toNat, .opened), cells := Vector.replicate 1024 0, counts := Vector.replicate 1024 0 }) ∧
     (c.check (.drainSlot z) = .go → alone →
       (x.bound = none → exec (.drainSlot z) s = .next (s.trap c (wordOfInstr (.drainSlot z)) .badHandle (z.zeroExtend 32) 0 0)) ∧
       ∀ tile k, x.bound = some (tile, k) →
         ∃ team, TeamDone (exec (.drainSlot z) s) s c team ∧ keeps team ∧ (team.slot z.toNat).bound = none ∧
           (k = .opened → team.tiles = c.t.tiles) ∧
           (k = .fp32 → outside team (4096 * tile) 4096 ∧
             ∀ n, n < 1024 → team.tiles.num (4096 * tile + 4 * n) 4 = (cell x n).toNat % 2 ^ 32) ∧
           (k = .fp64 → outside team (4096 * tile) 8192 ∧
             ∀ n, n < 1024 → team.tiles.num (4096 * tile + 8 * n) 8 = (cell x n).toNat) ∧
           (k = .integer → outside team (4096 * tile) 4096 ∧ ∀ n, n < 1024 →
             (team.tiles.num (4096 * tile + 4 * n) 4 : Int) =
               (c.t.tiles.num (4096 * tile + 4 * n) 4 + count x n * 2 ^ 22 + ((cell x n).extractLsb' 0 22).toInt) % 2 ^ 32)) ∧
     (c.check (.fold z) = .go → alone → ∀ tile, x.bound = some (tile, .integer) →
       ∃ team, TeamDone (exec (.fold z) s) s c team ∧ keeps team ∧ outside team (4096 * tile) 4096 ∧
         (team.slot z.toNat).bound = x.bound ∧ (team.slot z.toNat).cells = x.cells ∧
         (∀ n, n < 1024 → count (team.slot z.toNat) n = 0) ∧ ∀ n, n < 1024 →
           (team.tiles.num (4096 * tile + 4 * n) 4 : Int) = (c.t.tiles.num (4096 * tile + 4 * n) 4 + count x n * 2 ^ 22) % 2 ^ 32) ∧
     (∀ (v : VReg) (row : BitVec 5), c.check (.accrd z v row) = .go → alone → ∀ tile k, x.bound = some (tile, k) →
       (k = .fp64 → v.toNat % 2 = 0 ∧ v.toNat + 2 ≤ c.budget ∧ v.toNat + 2 ≤ 128) →
       ∃ t r, exec (.accrd z v row) s = .next t ∧ WordDone s t c r c.g.ctrl ∧ r = { c.g.regs with v := r.v } ∧
         (∀ n, n ≠ v.toNat → ¬ (k = .fp64 ∧ n = v.toNat + 1) → r.vreg n = c.g.regs.vreg n) ∧
         ∀ j, j < 32 → let y := cell x (32 * row.toNat + j)
           Lanes.at (r.vreg v.toNat) j = (match k with
             | .opened => 0
             | .integer => (y.extractLsb' 0 22).signExtend 32
             | _ => y.extractLsb' 0 32) ∧
           (k = .fp64 → Lanes.at (r.vreg (v.toNat + 1)) j = y.extractLsb' 32 32)) ∧
     (∀ (v : VReg) (row : BitVec 5), c.check (.accwr z v row) = .go → alone → ∀ tile k, x.bound = some (tile, k) → k ≠ .opened →
       (k = .fp64 → v.toNat % 2 = 0 ∧ v.toNat + 2 ≤ c.budget) →
       ∃ team, TeamDone (exec (.accwr z v row) s) s c team ∧ keeps team ∧ team.tiles = c.t.tiles ∧
         (team.slot z.toNat).bound = x.bound ∧ (team.slot z.toNat).counts = x.counts ∧ ∀ n, n < 1024 →
           let lo := Lanes.at (c.g.regs.vreg v.toNat) (n % 32)
           cell (team.slot z.toNat) n = if n / 32 = row.toNat then (match k with
             | .integer => (lo.extractLsb' 0 22).zeroExtend 64
             | .fp64 => Lanes.at (c.g.regs.vreg (v.toNat + 1)) (n % 32) ++ lo
             | _ => lo.zeroExtend 64) else cell x n) ∧
     (∀ (tile : BitVec 8) (r : SReg), c.check (.accld tile r) = .go →
       let off := (c.g.regs.sreg r.val).toNat
       off % 64 = 0 → off + 4096 ≤ c.t.hdr.scratch →
       ∃ team, TeamDone (exec (.accld tile r) s) s c team ∧ team = { c.t with tiles := team.tiles } ∧
         outside team (4096 * tile.toNat) 4096 ∧ ∀ i, i < 4096 →
           team.tiles.read (4096 * tile.toNat + i) = (c.t.spadRead (c.g.spadReader c.gi (spadGrans off 4096)) s.free off 4096).getD i 0) ∧
     (∀ (tile : BitVec 8) (r : SReg), c.check (.accst tile r) = .go →
       let off := (c.g.regs.sreg r.val).toNat
       off % 64 = 0 → off + 4096 ≤ c.t.hdr.scratch →
       ∃ team, TeamDone (exec (.accst tile r) s) s c team ∧ team = { c.t with spad := team.spad, spadHist := team.spadHist } ∧
         (∀ a, a < off ∨ off + 4096 ≤ a → team.spad.read a = c.t.spad.read a) ∧ ∀ i, i < 4096 →
           team.spad.read (off + i) = c.t.tiles.read (4096 * tile.toNat + i)) ∧
     (∀ r : SReg, c.check (.galst z r) = .go → alone → ∀ tile, x.bound = some (tile, .integer) →
       let off := (c.g.regs.sreg r.val).toNat
       off % 64 = 0 → off + 1024 ≤ c.t.hdr.scratch →
       ∃ team, TeamDone (exec (.galst z r) s) s c team ∧ team = { c.t with spad := team.spad, spadHist := team.spadHist } ∧
         (∀ a, a < off ∨ off + 1024 ≤ a → team.spad.read a = c.t.spad.read a) ∧ ∀ n, n < 1024 →
           team.spad.read (off + n) = BitVec.ofInt 8 (count x n)) ∧
     ∀ (i : Instr) (tile : BitVec 8) (v : VReg) (row : BitVec 5) (r : SReg),
       i ∈ [Instr.zero z tile, .drainSlot z, .fold z, .accrd z v row, .accwr z v row, .galst z r] → c.check i = .go →
       s.slotTaken c.t c.gi z = true → exec i s = .next (s.holdWord c .chain)) ∧
  (∀ (s : State) (c : Cx) (i : Instr) (z : BitVec 2) (tile : BitVec 8) (v : VReg) (row : BitVec 5) (r : SReg) (f : MmaForm),
     s.cx? = some c → c.check i = .go →
     i ∈ [Instr.zero z tile, .drainSlot z, .fold z, .accrd z v row, .accwr z v row, .accld tile r, .accst tile r, .galst z r, .mma f] →
     c.e.active ≠ allLanes ∨ c.e.owned ≠ allLanes ∨ (∃ k e, k ≠ c.k ∧ c.g.ctl.get k = some e ∧ e.kind = .strand) →
     exec i s = .next (s.trap c (wordOfInstr i) .illegalConvergence 0 0 0))

/-- R326, R331, R337, R342, R344, R345, R349, R352, R354: MMA, its fetches and its beats. An MMA that its slot refuses raises BAD_HANDLE; one
without a live step retires and leaves RPTIDX 0; one whose live steps pass their checks starts a chain, beside which the strand goes on from then
on or from any later event of it: when is timing, a free value (the model's choice, log 40). What a step reads outside scratchpad is
fetched before its beat. A beat of an integer format adds the exact sum of products to each cell and keeps it within 22 bits; then
the chain goes on, or after its last step it ends, and the MMA retires if it has not. -/
def Obligations.MmaResults : Prop :=
  (∀ (s : State) (c : Cx) (f : MmaForm), s.cx? = some c → c.check (.mma f) = .go → c.collective = true → s.slotTaken c.t c.gi f.slot = false →
    let ch := c.chain s f
    let ch1 := { ch with reads := s.captureSpad c.who ch }
    (slotRefuses c.t f = true →
      exec (.mma f) s = .next (s.trap c (wordOfInstr (.mma f)) .badHandle (f.slot.zeroExtend 32) 0 0)) ∧
    (slotRefuses c.t f = false → ch.steps = [] →
      let k : Ctrl := { c.g.ctrl with rptIdx := 0 }
      ∃ t g, exec (.mma f) s = .next t ∧ OnlyGroup s t c g ∧ g.chain = c.g.chain ∧ g.ctrl = k ∧ g.retire = c.g.retire + 1 ∧
        g.regs.v = c.g.regs.v ∧ g.regs.s = c.g.regs.s) ∧
    (∀ ch2, slotRefuses c.t f = false → ch.steps ≠ [] → s.startChain c.who ch1 = .run ch2 →
      ∃ t g e, exec (.mma f) s = .next t ∧ t.groups[c.gi]? = some g ∧ ch2.steps = ch.steps ∧ .matrixBeat c.gi ∈ t.events ∧
        t.mem = s.mem ∧ t.teams = s.teams ∧ g.regs.v = c.g.regs.v ∧ g.regs.s = c.g.regs.s ∧ TbKept c.g.regs g.regs ∧
        ((g.chain = some ch2 ∧ g.ctl.get c.k = some e ∧ e.wait = .chain ∧ g.retire = c.g.retire) ∨
          (g.chain = some { ch2 with strand := none } ∧ g.retire = c.g.retire + 1 ∧ g.ctrl = { c.g.ctrl with rptIdx := 0 })))) ∧
  ∀ (s : State) (gi : Nat) (w : Who) (ch : Chain) (k : Nat) (rest : List Nat) (tile : Nat) (kind : SlotKind),
    s.who? gi = some w → w.g.chain = some ch → ch.steps = k :: rest →
    (w.t.slot ch.form.slot.toNat).bound = some (tile, kind) →
    (ch.unread k ≠ [] → s.beatReady w ch = true → s.stepError w ch k = none →
      let f := s.fetchStep w ch k
      exec (.matrixBeat gi) s = .next (f.1.runChain w f.2) ∧ f.2.steps = ch.steps ∧ f.1.teams = s.teams ∧
        (s.tracks = false → (∀ x ∈ ch.unread k, x.cnt = false) → f.1.mem = s.mem ∧ f.1.hist = s.hist) ∧
        ∀ r ∈ ch.reads, r.step = k → r.bytes = [] → ∃ r' ∈ f.2.reads, r'.step = k ∧ r'.operand = r.operand ∧
          r'.bytes = r.runs.flatMap fun x => s.readSpan { ch.reader w with shr := x.shr } [] s.free x.key x.len) ∧
    (ch.unread k = [] → ∀ s1, s.beatStep w ch tile k = .done s1 →
      (rest ≠ [] → ∃ t g ch', exec (.matrixBeat gi) s = .next t ∧ t.groups[gi]? = some g ∧ t.mem = s1.mem ∧ t.teams = s1.teams ∧
        g.chain = some ch' ∧ { ch' with strand := ch.strand } = { ch with steps := rest } ∧
        (ch'.strand = ch.strand ∨ ch'.strand = none ∧ g.retire = w.g.retire + 1) ∧ .matrixBeat gi ∈ t.events) ∧
      (∀ st e, rest = [] → ch.strand = some st → w.g.ctl.get st = some e →
        ∃ t g, exec (.matrixBeat gi) s = .next t ∧ t.groups[gi]? = some g ∧ t.mem = s1.mem ∧ t.teams = s1.teams ∧
          g.chain = none ∧ g.ctrl.rptIdx = 0 ∧ g.retire = w.g.retire + 1) ∧
      (rest = [] → ch.strand = none → ∃ t g, exec (.matrixBeat gi) s = .next t ∧ t.groups[gi]? = some g ∧ t.mem = s1.mem ∧ t.teams = s1.teams ∧
        g.chain = none ∧ g.retire = w.g.retire ∧
        g.log = match ch.log with
          | some id => w.g.log.filter fun l => l.id != id
          | none => w.g.log)) ∧
    (mmaKind ch.form.fmt = .integer → w.t.hdr.carryTrap = false →
      let row := fun n => intElems ch.form.fmt (opRow (ch.operandBytes k 0) n)
      let col := fun n => intElems ch.form.fmt (opRow (ch.operandBytes k 1) n)
      let dot := fun n : Nat => ((row (n / 32)).zip (col (n % 32))).foldl (fun t x => t + x.1 * x.2) 0
      (∀ n, n < 1024 → -(2 ^ 20) ≤ dot n ∧ dot n ≤ 2 ^ 20) →
      ∃ s1 team, s.beatStep w ch tile k = .done s1 ∧ s1.teams[w.g.team]? = some team ∧ s1.mem = s.mem ∧ ∀ n, n < 1024 →
        let old := (((w.t.slot ch.form.slot.toNat).cells.toList.getD n 0).extractLsb' 0 22).toInt
        (((team.slot ch.form.slot.toNat).cells.toList.getD n 0).extractLsb' 0 22).toInt =
          if 2 ^ 21 ≤ old + dot n then old + dot n - 2 ^ 22
          else if old + dot n < -(2 ^ 21) then old + dot n + 2 ^ 22 else old + dot n)

/-! ### Engine commands -/

/-- R23, R25, R305, R306, R321: an engine word, whose engine's queue has room, commits at the engine's scope and queues its command:
the record of the pair, the knot, the engine of the hall or of the partition's mask; the strand table is the word's own unless a strand of
the group sleeps in WAITW, which the commit may wake. With a full queue the word waits.

R51, R52, R310: a sector of a command is a commit of its own. ENGINE_SECTOR_COMMIT performs one of the pending sectors, where no
write is tracked or protected: in global memory the bytes the sector has, and no other, change. After the last the knot's decrement
is due. -/
def Obligations.EngineWordResults : Prop :=
  (∀ (s : State) (c : Cx) (i : Instr) (e : BitVec 5) (k : BitVec 8) (r : SReg), s.cx? = some c → c.check i = .go →
     i ∈ [Instr.stair k r, .stairg k r, .hoist e k r, .braid e k r, .cmpr e k r, .dcmp e k r] →
     let en := c.engine i
     let room := match en with
       | .stair _ => 64 | .hoist _ => 16 | .braid _ => 16 | .cmpr _ => 8
     let scope : Scope := match en with
       | .stair _ => .p | .hoist _ => .y | .braid _ => .y | .cmpr _ => .p
     (i = .stair k r ∨ i = .stairg k r → en = .stair c.t.hall) ∧
     (s.queued en < room → ∃ t g cmd, exec i s = .next t ∧ t.cmds = s.cmds ++ [cmd] ∧
       cmd.instr = i ∧ cmd.engine = en ∧ cmd.knot = k.toNat ∧ cmd.record = c.g.regs.spair r.val ∧ cmd.ref = c.e.pc ∧ cmd.phase = .queued ∧
       cmd.team = c.g.team ∧ cmd.part = c.p.id ∧ cmd.pending = [] ∧ cmd.status = 0 ∧ (∀ d ∈ s.cmds, d.order < cmd.order) ∧
       runEvent i s.cmds.length ∈ t.events ∧ t.mem = (s.commitGroup c.gi scope).mem ∧ t.hist = (s.commitGroup c.gi scope).hist ∧
       t.teams = s.teams ∧ t.groups[c.gi]? = some g ∧ g.retire = c.g.retire + 1 ∧ g.regs.v = c.g.regs.v ∧
       (c.g.anyEntry (fun e => e.wait == .watch) = false → g.ctl = c.tableAfter.1) ∧
       g.regs.s = c.g.regs.s ∧ g.ctrl = c.g.ctrl) ∧
     (room ≤ s.queued en → exec i s = .next (s.holdWord c .engineQueue))) ∧
  (∀ (s : State) (ci : Nat) (j : Job), s.job? ci = some j → j.c.pending ≠ [] → s.plainMemory → s.mem.wf = true →
     (∀ w ∈ j.c.pending, w.bytes.length = 32 ∧ w.addr % 32 = 0) →
     ∃ t w c, exec (.engineSectorCommit ci) s = .next t ∧ w ∈ j.c.pending ∧ t.cmds[ci]? = some c ∧ c.pending = j.c.pending.erase w ∧
       (c.pending = [] → c.phase = .decrement ∧ .knotDecrement ci ∈ t.events) ∧
       (c.pending ≠ [] → .engineSectorCommit ci ∈ t.events) ∧
       (w.space ≠ 0 → t.mem = s.mem ∧ t.hist = s.hist) ∧
       (w.space = 0 → (∃ new, t.hist = new ++ s.hist ∧ ∀ k ∈ new, k.scope = j.c.engine.scope ∧ k.sector = true ∧ k.seq = s.seq) ∧
         ∀ a, t.mem.read a =
           if w.addr ≤ a ∧ a < w.addr + 32 then ((w.bytes.getD (a - w.addr) none).getD (s.mem.read a)) else s.mem.read a) ∧
       (w.space = 1 → t.teams = (s.writeSector j w).teams))

/-- R307, R311 to R315, R320, R321: a command that may start, whose record and data raise no error, comes to know the sectors it
writes: a copy's elements in order (STAIR, STAIRG, HOIST), the compressed or decoded frame and its length (CMPR, DCMP). Bytes that decode to
nothing, and an output beyond the capacity, end a command with DATA.

R313 to R315: the elements of a copy. A STAIR of one dimension copies element i from src + i × its source stride to dst + i × its
destination stride; a STAIRG copies row n of 16-byte elements from the row that its index names, and zeros for an index of all
ones; a record with a reserved field raises RECORD. -/
def Obligations.EngineRuns : Prop :=
  (∀ (s : State) (ci : Nat) (j : Job), s.job? ci = some j → s.mayStart ci = true →
     let u := s.begins j
     let copied := fun (e : Instr) (p : CopyPlan) => ∀ r, j.checkBounds p = .ok () →
       u.copyElems j p p.elems { read := [], writes := [], stop := none } = r → r.stop = none →
       ∃ t, exec e s = .next t ∧ Writing t ci r.writes ∧ (r.read.any Piece.cnt = false → s.tracks = false → t.mem = s.mem ∧ t.hist = s.hist)
     let squeezed := fun (e : Instr) (levels : Nat → Bool) (f : CmprRecord → List Byte → Option (List Byte)) =>
       ∀ rec_ r bytes xs, u.readRecord j 0 64 = .ok rec_ → j.checkCmpr rec_ levels = .ok r → u.engRead j r.src r.len = .ok (bytes, xs) →
         (∀ out ws ws2, f r bytes = some out → out.length ≤ r.cap → u.engPut j [] 0 r.dst out = .ok ws →
           u.engPut j ws 0 r.result (natLe 8 out.length) = .ok ws2 → ∃ t, exec e s = .next t ∧ Writing t ci ws2) ∧
         (f r bytes = none ∨ (∃ out, f r bytes = some out ∧ r.cap < out.length) →
           ∃ t, exec e s = .next t ∧ Failing t ci 12 (BitVec.ofNat 64 r.src))
     (∀ h rest p, u.readRecord j 0 32 = .ok h → fieldAt h 0 1 = 1 → 1 ≤ fieldAt h 1 1 → fieldAt h 1 1 ≤ 10 →
       u.readRecord j 32 (24 * fieldAt h 1 1) = .ok rest → j.stairPlan (h ++ rest) = .ok p → copied (.stairExecute ci) p) ∧
     (∀ rec_ g idx, u.readRecord j 0 64 = .ok rec_ → j.checkGather rec_ = .ok g →
       j.checkBounds (g.plan (List.replicate g.rows (2 ^ (8 * g.idx) - 1))) = .ok () → u.readIndices j g = .ok idx →
       (∀ n ∈ idx, n < g.bound ∨ n = 2 ^ (8 * g.idx) - 1) → copied (.stairgExecute ci) (g.plan idx)) ∧
     (∀ rec_ p, u.readRecord j 0 64 = .ok rec_ → j.hoistPlan rec_ = .ok p → copied (.hoistExecute ci) p) ∧
     squeezed (.cmprExecute ci) (fun l => 1 ≤ l && l ≤ 19) (fun r bytes => some (zstdFrame r.level bytes)) ∧
     squeezed (.dcmpExecute ci) (fun l => l == 0) (fun _ bytes => zstdDecode bytes)) ∧
  ((∀ (src dst : Int) (d : Dim), dimElems src dst [d] = (List.range d.extent).map fun (i : Nat) => (src + i * d.src, dst + i * d.dst)) ∧
   (∀ (src dst : Int) (ds : List Dim), ds ≠ [] → (dimElems src dst ds).length = (ds.map Dim.extent).prod) ∧
   (∀ (src dst : Int) (d0 d1 : Dim) (i k : Nat), i < d0.extent → k < d1.extent →
     (dimElems src dst [d0, d1])[k * d0.extent + i]? = some (src + i * d0.src + k * d1.src, dst + i * d0.dst + k * d1.dst)) ∧
   (∀ (g : Gather) (idx : List Nat) (n i x : Nat), g.check = false → idx[n]? = some x → i < g.row / 16 →
     (g.plan idx).elems[n * (g.row / 16) + i]? =
       some (if x = 2 ^ (8 * g.idx) - 1 then none else some (g.src + x * g.srcPitch + i * 16), g.dst + n * g.dstPitch + i * 16)) ∧
   ∀ (j : Job) (rec_ : List Byte),
     (5 < fieldAt rec_ 2 1 ∨ fieldAt rec_ 3 1 % 4 = 3 ∨ fieldAt rec_ 3 1 / 4 % 4 = 3 ∨ 16 ≤ fieldAt rec_ 3 1 ∨ 4 ≤ fieldAt rec_ 4 1 →
       j.stairPlan rec_ = .error (.fail 1 j.c.record)) ∧
     (fieldAt rec_ 0 1 ≠ 3 ∨ fieldAt rec_ 0x18 8 % 16 ≠ 0 ∨ 2 ^ 40 < fieldAt rec_ 0x18 8 → j.hoistPlan rec_ = .error (.fail 1 j.c.record)) ∧
     (fieldAt rec_ 0 1 ≠ 2 ∨ fieldAt rec_ 4 4 < 16 ∨ 65536 < fieldAt rec_ 0x30 4 → j.checkGather rec_ = .error (.fail 1 j.c.record)))

/-- R317: what a rank's destination receives, of the sources of all ranks: ALL_REDUCE folds every rank's element in ascending rank,
REDUCE_SCATTER its own part's, ALL_GATHER places the ranks' elements in order, BROADCAST gives the root's, ALL_TO_ALL exchanges.

R27, R306, R307, R317, R319: the other events of commands. ENGINE_ENQUEUE lets the words that wait for a queue issue again; a
braid command whose ranks lie in this package matches when all its mates are there and agree, else all end with MISMATCH; a
matched one reads its source, and writes once every source is read; a timeout ends a command with PEER and aborts the mates it has reached, and an abort ends one with PEER; KNOT_DECREMENT
ends the command and decrements its knot. -/
def Obligations.CommandEvents : Prop :=
  (∀ (b : BraidInfo) (r : Nat) (src : Nat → Nat → Nat) (i : Nat), 0 < b.ranks →
     let fold := fun e : Nat => ((List.range (b.ranks - 1)).map fun k => src (k + 1) e).foldl (reduceTwo b.typ b.red) (src 0 e)
     (b.op = 0 → braidElem b r src i = fold i) ∧ (b.op = 1 → braidElem b r src i = fold (r * b.count + i)) ∧
     (b.op = 2 → braidElem b r src i = src (i / b.count) (i % b.count)) ∧ (b.op = 3 → braidElem b r src i = src b.root i) ∧
     (b.op = 4 → braidElem b r src i = src (i / b.count) (r * b.count + i % b.count)) ∧
     (∀ a x : Nat, a < 2 ^ 32 → x < 2 ^ 32 →
       reduceTwo 0 0 a x = (BitVec.ofNat 32 a + BitVec.ofNat 32 x).toNat ∧
       reduceTwo 0 1 a x = (if (BitVec.ofNat 32 x).slt (BitVec.ofNat 32 a) then x else a) ∧
       reduceTwo 0 2 a x = (if (BitVec.ofNat 32 a).slt (BitVec.ofNat 32 x) then x else a) ∧
       reduceTwo 1 1 a x = min a x ∧ reduceTwo 1 2 a x = max a x)) ∧
  (∀ (s : State) (ci : Nat),
     (∀ g, s.groups[ci]? = some g → ∃ t g', exec (.engineEnqueue ci) s = .next t ∧ t.groups[ci]? = some g' ∧
       t = { s with groups := t.groups } ∧ ∀ k e, g.ctl.get k = some e → ∃ e', g'.ctl.get k = some e' ∧
         e'.wait = (if e.wait = .engineQueue then .ready else e.wait) ∧ e'.pc = e.pc ∧ e'.active = e.active) ∧
     ∀ j, s.job? ci = some j →
       (j.c.phase = .decrement → ∃ t c, exec (.knotDecrement ci) s = .next t ∧ t.cmds[ci]? = some c ∧ c.phase = .done ∧
         let u := s.decrement j.c.team j.c.knot j.c.engine.scope j.c.status j.c.addr (j.c.passes ci s.seq)
         t.teams = u.teams ∧ t.groups = u.groups ∧ t.mem = s.mem) ∧
       ∀ b, j.c.braid = some b →
         (j.c.phase = .running → j.c.matched = false → b.here.length = b.ranks →
           let ms := s.braidMates b
           (∀ k ∈ b.here, ∃ m ∈ ms, m.2.rank = k.1) →
           ((∀ m ∈ ms, m.2.agrees b = true) → ∃ t, exec (.braidMatch ci) s = .next t ∧ t.mem = s.mem ∧ ∀ m ∈ ms,
             .braidExecute m.1 ∈ t.events ∧ ∃ c, t.cmds[m.1]? = some c ∧ c.matched = true) ∧
           ((∃ m ∈ ms, m.2.agrees b = false) → exec (.braidMatch ci) s = .next (s.endBraids 11 ms))) ∧
         (j.c.phase = .running → j.c.matched = true →
           (∀ bytes xs, j.c.data = none → s.engRead j b.source (typeBytes b.typ * b.srcCount) = .ok (bytes, xs) →
             ∃ t c, exec (.braidExecute ci) s = .next t ∧ t.cmds[ci]? = some c ∧ c.data = some bytes ∧ c.phase = .running) ∧
           (∀ d ws, j.c.data = some d → (∀ m ∈ s.braidPeers b, ∃ c, s.cmds[m.1]? = some c ∧ c.data ≠ none) →
             b.here.length ≤ (s.braidPeers b).length →
             let ms := (s.braidPeers b).filterMap fun m => ((s.cmds[m.1]?).bind Cmd.data).map fun d => (m.2, d)
             s.engPut j [] 0 b.dest (braidOutput b ms j.c.remote) = .ok ws →
             ∃ t, exec (.braidExecute ci) s = .next t ∧ Writing t ci ws ∧ t.mem = s.mem)) ∧
         (j.c.matched = false → j.c.phase = .running →
           ∃ t, exec (.braidTimeout ci) s = .next t ∧ Failing t ci 10 (BitVec.ofNat 64 b.desc) ∧
             ∀ m ∈ s.braidMates b, m.1 ≠ ci → .braidAbort m.1 ∈ t.events) ∧
         (j.c.phase = .running ∨ (∃ n st f, j.c.phase = .waitFault n st f) →
           ∃ t, exec (.braidAbort ci) s = .next t ∧ Failing t ci 10 (BitVec.ofNat 64 b.desc)))

/-! ### System words -/

/-- R122 to R129, R133, R134: PUBLISH, BIND and UNBIND. A PUBLISH whose image is read ends with the first failing check's status, or
adds a held code object of the image's code and headers under the next number. A BIND whose object passes, and an UNBIND, change
the slot's state, generation and target at its home, and no other byte; a slot of a reserved state gives BAD_SLOT (7). An UNBIND
of slot address zero gives up the object's hold. PUBLISH closes an open region before its BEGIN where its commit carries a store of it (R56).
An atomic at the slot of a group whose grid is neither recorded nor rerun waits for no turn. -/
def Obligations.PublishBindResults : Prop :=
  ∀ (s : State) (c : Cx) (d a b : SReg), s.cx? = some c →
    (∀ w img u, c.check (.publish d a b) = .go → d.val + 1 < 48 →
      let s1 := s.commitGroup c.gi .p
      let s2 := (if c.g.carriesRegion .p then (s1.endRegion c).unpin c.p.id else s1).beginGroup c.gi .p
      s2.who? c.gi = some w → w.p.id = c.p.id → Fetches s2 w 64 (c.g.regs.spair a.val).toNat (c.g.regs.sreg b.val).toNat img u →
      let st := w.p.publishStatus img
      ∃ t g p, exec (.publish d a b) s = .next t ∧ t.groups[c.gi]? = some g ∧ g.retire = c.g.retire + 1 ∧
        g.regs.sreg d.val = BitVec.ofNat 32 st ∧ g.regs.sreg (d.val + 1) = (if st = 0 then BitVec.ofNat 32 w.p.nextObj else 0) ∧
        t.part? c.p.id = some p ∧ (st ≠ 0 → p.objects = w.p.objects) ∧
        (st = 0 → ∃ o, p.objects = w.p.objects ++ [o] ∧ o.id = BitVec.ofNat 32 w.p.nextObj ∧ o.code = img.drop (codeStart (fieldAt img 4 2)) ∧
          o.headers = imageHeaders img ∧ o.auth = w.p.cfg.tag ∧ o.hold = true ∧ o.binds = 0 ∧ o.digest = sha512 img)) ∧
    (∀ i ref x xs, c.check i = .go → c.p.replay.ctl = 0 →
      (i = .bindSlot d a b ∧ ref = some (CodeRef.ofBits (pairOf (c.g.regs.sreg b.val) (c.g.regs.sreg (b.val + 1)))) ∧
        (∀ r, ref = some r → c.p.bindStatus r = 0) ∨
        (i = .unbind d a b ∨ i = .unbindReleaseHold d a b) ∧ ref = none ∧ c.g.regs.spair a.val ≠ 0) →
      let va := (c.g.regs.spair a.val).toNat
      let u := s.commitGroup c.gi .y
      va % 32 = 0 → u.reach c.p (s.sitesOf c.t.hall) .atomic false (oneSpan va 32) = .ok (x :: xs) →
      c.who.atomErrors .y (oneSpan va 32) u (x :: xs) = none →
      u.plainMemory → u.mem.wf = true → x.key % 32 = 0 → (∀ g, u.groups[c.gi]? = some g → ∀ o ∈ g.stores, granOf o.key ≠ granOf x.key) →
      (2 < u.mem.num x.key 4 → ∃ t, StatusDone (exec i s) c d 7 t ∧ t.mem = u.mem) ∧
      (u.mem.num x.key 4 ≤ 2 → ∃ t, StatusDone (exec i s) c d 0 t ∧
        t.mem.num x.key 4 = (if ref.isSome then 2 else 0) ∧ t.mem.num (x.key + 4) 4 = (u.mem.num (x.key + 4) 4 + 1) % 2 ^ 32 ∧
        t.mem.num (x.key + 8) 8 = (match ref with
          | some r => r.bits.toNat
          | none => u.mem.num (x.key + 16) 8) ∧
        ∀ k, k < x.key ∨ x.key + 16 ≤ k → t.mem.read k = u.mem.read k)) ∧
    (∀ st, c.check (.bindSlot d a b) = .go →
      c.p.bindStatus (CodeRef.ofBits (pairOf (c.g.regs.sreg b.val) (c.g.regs.sreg (b.val + 1)))) = st → st ≠ 0 →
      ∃ t, StatusDone (exec (.bindSlot d a b) s) c d (BitVec.ofNat 32 st) t ∧ t.mem = (s.commitGroup c.gi .y).mem) ∧
    ∀ i, i = .unbind d a b ∨ i = .unbindReleaseHold d a b → c.check i = .go → c.g.regs.spair a.val = 0 →
      let st := c.p.objectStatus (c.g.regs.sreg (b.val + 1))
      ∃ t, StatusDone (exec i s) c d (BitVec.ofNat 32 st) t ∧ t.mem = s.mem ∧
        (st = 0 → ∀ p o, t.part? c.p.id = some p → o ∈ p.objects → o.id = c.g.regs.sreg (b.val + 1) → o.hold = false)

/-- R368 to R374: LAUNCH and LQUERY. A LAUNCH whose record, dependences and header are read gives RECORD (1) for a record that breaks a
rule, REPLAY_REFUSED (4), NEVER_FITS (3) or QUEUE_FULL (2), or queues a grid of the record's fields and gives 0. LQUERY counts the queued
grids and the saved teams of a queue, and answers all ones for a queue that does not exist. That a LAUNCH during a hold gives NEVER_FITS
(R436) only after the tests of the record and of replay, and that a knot dependence names one of the foyer's own knots, are the model's
choice (log 37). -/
def Obligations.LaunchResults : Prop :=
  ∀ (s : State) (c : Cx) (d a : SReg), s.cx? = some c →
    (∀ rec_ tail u1 u2 u3 h keys, c.check (.launch d a) = .go →
      let va := (c.g.regs.spair a.val).toNat
      let n := fieldAt rec_ 0x0E 1
      let ref := CodeRef.ofBits (BitVec.ofNat 64 (fieldAt rec_ 0 8))
      let ds := (List.range n).map fun i => bytesAt tail (16 * i) 16
      va % 64 = 0 → Fetches (s.commitGroup c.gi .y) c.who 1 va 64 rec_ u1 → Fetches u1 c.who 1 (va + 64) (16 * n) tail u2 →
      c.p.launchHeader ref = some h → (∀ k, u2.depKeys c.who ds k = k u3 keys) →
      let sound := recordOk h rec_ = true ∧ fieldAt rec_ 0x0D 1 < c.t.hdr.knots ∧ n ≤ 16 ∧ fieldAt rec_ 0x0F 1 ≤ 1 ∧
        (∀ x ∈ ds, depOk c.t.hdr x = true) ∧ ∀ k ∈ keys, k ≠ none
      let queue := fieldAt rec_ 0x0C 1
      let waiting := (u3.grids.filter fun g => g.part == c.p.id && g.queue == queue && g.queued).length
      (¬ sound → ∃ t, StatusDone (exec (.launch d a) s) c d 1 t ∧ t.grids = u3.grids) ∧
      (sound → fieldAt rec_ 0x0F 1 = 1 → h.replay = false → ∃ t, StatusDone (exec (.launch d a) s) c d 4 t ∧ t.grids = u3.grids) ∧
      (sound → (fieldAt rec_ 0x0F 1 = 1 → h.replay = true) →
        (c.p.cc.holdState ≠ 0 ∨ u3.everFits c.p h = false → ∃ t, StatusDone (exec (.launch d a) s) c d 3 t ∧ t.grids = u3.grids) ∧
        (c.p.cc.holdState = 0 → u3.everFits c.p h = true →
          (64 ≤ waiting → ∃ t, StatusDone (exec (.launch d a) s) c d 2 t ∧ t.grids = u3.grids) ∧
          (waiting < 64 → c.p.replay.ctl = 0 → ∃ t g, StatusDone (exec (.launch d a) s) c d 0 t ∧ t.grids = u3.grids ++ [g] ∧ g.part = c.p.id ∧ g.ref = ref ∧
            g.hdr = h ∧ g.teams = fieldAt rec_ 8 4 + 1 ∧ g.queue = queue ∧ g.knot = fieldAt rec_ 0x0D 1 ∧
            g.args = BitVec.ofNat 64 (fieldAt rec_ 0x10 8) ∧ g.privArea = fieldAt rec_ 0x18 8 ∧ g.frames = fieldAt rec_ 0x20 4 ∧
            g.saveArea = fieldAt rec_ 0x28 8 ∧ g.queued = true ∧ g.nextTeam = 0 ∧ g.foyerTeam = c.g.team ∧
            g.deps.length = min ds.length keys.length)))) ∧
    (c.check (.lquery d a) = .go → c.p.replay.ctl = 0 → d.val + 1 < 48 →
      let q := (c.g.regs.sreg a.val).toNat
      let word := fun n : Nat => if 7 < q then (0xFFFFFFFF : Word) else BitVec.ofNat 32 n
      ∃ t r, exec (.lquery d a) s = .next t ∧ WordDone s t c r c.g.ctrl ∧ r = { c.g.regs with s := r.s } ∧
        r.sreg d.val = word (s.grids.countP fun g => g.part == c.p.id && g.queue == q && g.queued) ∧
        r.sreg (d.val + 1) = word (s.savedOf c.p.id q).length ∧ ∀ n, n ≠ d.val → n ≠ d.val + 1 → r.sreg n = c.g.regs.sreg n)

/-- R386, R387, R401 to R403: PREEMPT, PCANCEL, PLACE and CNTRD. PREEMPT refuses a bad operand (1), a partition that does not exist
(2), a hall it does not hold (3) and a second PREEMPT (4), and else requests the saves of the teams it names; PCANCEL withdraws it
and gives the number of teams saved; PLACE replaces the partition's halls when its checks pass; CNTRD reads a counter, or all
ones for one that does not exist. Which operands of PREEMPT are bad, the order of its tests, and that it replaces a completed PREEMPT
are the model's choice (log 16); that a CNTRD of class 0 by an operator raises RIGHTS whatever its other fields hold is too (log 37). -/
def Obligations.MonitorResults : Prop :=
  ∀ (s : State) (c : Cx) (d a b : SReg), s.cx? = some c →
    (c.check (.preempt d a b) = .go →
      let args := preemptArgs (c.g.regs.sreg a.val) (c.g.regs.sreg b.val) c.t.hdr.knots
      (args = none → ScalarDone (exec (.preempt d a b) s) s c d 1) ∧
      ∀ x, args = some x →
        (s.part? x.part = none → ScalarDone (exec (.preempt d a b) s) s c d 2) ∧
        ∀ p, s.part? x.part = some p →
          (x.hall ≠ 0x1FF ∧ p.halls.length ≤ x.hall → ScalarDone (exec (.preempt d a b) s) s c d 3) ∧
          (x.hall = 0x1FF ∨ x.hall < p.halls.length →
            ((∃ y, p.sched.preempt = some y ∧ y.completed = false) → ScalarDone (exec (.preempt d a b) s) s c d 4) ∧
            ((∀ y, p.sched.preempt = some y → y.completed = true) →
              let halls := if x.hall = 0x1FF then p.halls else [p.halls.getD x.hall 0]
              ∃ t q y, StatusDone (exec (.preempt d a b) s) c d 0 t ∧ t.part? x.part = some q ∧ q.sched.preempt = some y ∧
                y.kind = x.kind ∧ y.knotTeam = c.g.team ∧ y.knot = x.knot ∧ y.teams = s.preemptTeams x halls ∧ (∀ h ∈ halls, h ∈ y.halls) ∧
                ∀ ti ∈ y.teams, ∃ team, t.teams[ti]? = some team ∧ team.requested = true ∧ team.byPreempt = true))) ∧
    (c.check (.pcancel d a) = .go →
      let pid := (c.g.regs.sreg a.val).toNat % 128
      ((∀ p, s.part? pid = some p → p.sched.preempt = none) → ScalarDone (exec (.pcancel d a) s) s c d 0xFFFFFFFF) ∧
      ∀ p x, s.part? pid = some p → p.sched.preempt = some x →
        ∃ t q, StatusDone (exec (.pcancel d a) s) c d (BitVec.ofNat 32 (s.savedBy x)) t ∧ t.part? pid = some q ∧ q.sched.preempt = none ∧
          ∀ h ∈ x.halls, h ∈ p.halls → ∀ y, t.halls[h]? = some y → y.closed = false) ∧
    (∀ mask u, c.check (.place d a b) = .go → Fetches s c.who 8 (c.g.regs.spair b.val).toNat 40 mask u →
      let v := c.g.regs.sreg a.val
      let st := u.placeStatus v mask
      ∃ t, StatusDone (exec (.place d a b) s) c d (BitVec.ofNat 32 st) t ∧ (st ≠ 0 → t.halls = u.halls) ∧
        (st = 0 → ∃ p q, u.part? v.toNat = some p ∧ t.part? v.toNat = some q ∧ q.halls = maskHalls mask ∧
          (∀ h ∈ p.halls, h ∉ maskHalls mask → ∀ y, t.halls[h]? = some y → y.l1 = [] ∧ y.pool = []) ∧
          q.ctxState = if p.ctxState = 2 ∧ maskHalls mask ≠ [] then 1 else p.ctxState)) ∧
    (c.check (.cntrd d a) = .go → c.p.replay.ctl = 0 →
      let x := (c.g.regs.sreg a.val).toNat
      let cls := x / 256 % 16
      let idx := x / 65536 % 256
      (c.p.cfg.tag = .operator → cls = 0 → exec (.cntrd d a) s = .next (s.trap c (wordOfInstr (.cntrd d a)) .rights 0 0 0)) ∧
      (c.p.cfg.tag ≠ .operator ∨ cls ≠ 0 →
        let id := if c.p.cfg.tag = .owner then c.p.id else x % 128
        let zero := x / 128 % 2 = 0 ∧ x / 4096 % 16 = 0 ∧ x / 2 ^ 24 = 0 ∧ (c.p.cfg.tag = .owner → x % 128 = 0)
        let found := fun v : DWord => ScalarPairDone (exec (.cntrd d a) s) s c d v
        (¬ zero → found (BitVec.allOnes 64)) ∧ (s.part? id = none → found (BitVec.allOnes 64)) ∧
        ∀ q, zero → s.part? id = some q →
          let k := q.counters
          (cls = 0 → idx = 0 → found k.retired) ∧ (cls = 0 → idx = 1 → found k.issued) ∧ (cls = 0 → idx = 2 → found k.admitted) ∧
          (cls = 0 → idx = 3 → found k.released) ∧ (cls = 1 → idx = 0 → found k.consumed) ∧ (cls = 1 → idx = 1 → found k.granted) ∧
          (cls = 2 → ∀ n : Fin 7, idx = n.val → found k.steps[n]) ∧ (cls = 3 → idx = 0 → found k.refusedReads) ∧
          (cls = 3 → idx = 1 → found k.rightsTraps) ∧ (cls = 4 → idx = 0 → found k.saves) ∧ (cls = 4 → idx = 1 → found k.forcedSaves) ∧
          (4 < cls → found (BitVec.allOnes 64)) ∧ (7 ≤ idx → found (BitVec.allOnes 64))))

/-- R399, R400: EXPORT, IMPORT and SEAL, whose descriptors are read. Each check gives its own status and changes nothing else. An
EXPORT whose checks pass stores the sealed state and puts the partition in state 4; an IMPORT opens its object, installs what it
holds in a partition of state 0, which enters state 2, and uses up its key; a SEAL stores a sealed object. That a hold is tested before the
key, NO_KEY for a key that is not LIVE, AUTHORITY for another partition's, VERSION for a payload the device cannot read, and that an unused
source or destination must be zero, are the model's choice (log 18). -/
def Obligations.SealedResults : Prop :=
  ∀ (s : State) (c : Cx) (d a : SReg) (bs : List Byte) (u : State), s.cx? = some c →
    let va := (c.g.regs.spair a.val).toNat
    let x := descriptorOf bs
    Fetches (s.commitGroup c.gi .y) c.who 64 va 64 bs u →
    let ends := fun (i : Instr) (v : State) (st : Nat) =>
      ∃ t, StatusDone (exec i s) c d (BitVec.ofNat 32 st) t ∧ t.mem = v.mem ∧ t.keys = v.keys ∧ t.teams = v.teams ∧ t.objectSerial = v.objectSerial
    (c.check (.exportCtx d a) = .go →
      (x.ok = false ∨ x.source ≠ 0 → ends (.exportCtx d a) u 1) ∧
      (x.ok = true → x.source = 0 →
        (u.part? x.part = none → ends (.exportCtx d a) u 2) ∧
        ∀ p, u.part? x.part = some p →
          (p.cc.holdState ≠ 0 → ends (.exportCtx d a) u 3) ∧
          (∀ e, p.cc.holdState = 0 → u.keyFor x.slot p.id 3 = .error e → ends (.exportCtx d a) u e) ∧
          ∀ k, p.cc.holdState = 0 → u.keyFor x.slot p.id 3 = .ok k →
            (p.ctxState ≠ 2 ∨ u.partRuns p.id = true → ends (.exportCtx d a) u 3) ∧
            (p.ctxState = 2 → u.partRuns p.id = false →
              let obj := sealObject k u.objectSerial (Config.packContext (u.snapshot p))
              (x.cap < obj.length → ends (.exportCtx d a) u 8) ∧
              (obj.length ≤ x.cap → ∀ u1 u2, Stores u c.who (x.dest + 64) (obj.drop 64) u1 → Stores u1 c.who x.dest (obj.take 64) u2 →
                ∃ t q, StatusDone (exec (.exportCtx d a) s) c d 0 t ∧ t.mem = u2.mem ∧ t.objectSerial = u2.objectSerial + 1 ∧
                  t.part? p.id = some q ∧ q.ctxState = 4)))) ∧
    (c.check (.importCtx d a) = .go →
      (x.ok = false ∨ x.dest ≠ 0 → ends (.importCtx d a) u 1) ∧
      (x.ok = true → x.dest = 0 →
        (u.part? x.part = none → ends (.importCtx d a) u 2) ∧
        ∀ p obj v k, u.part? x.part = some p → Fetches u c.who 1 x.source x.srcLen obj v →
          (p.ctxState ≠ 0 ∨ v.holdsContext p = true → ends (.importCtx d a) v 3) ∧
          (p.ctxState = 0 → v.holdsContext p = false → v.keys[x.slot]? = some k →
            (k.kind ≠ 3 ∨ k.part ≠ some p.id ∨ k.state ≠ 1 ∧ k.state ≠ 2 ∨ k.keyId.toNat ≠ fieldAt obj 8 8 → ends (.importCtx d a) v 4) ∧
            (k.kind = 3 → k.part = some p.id → k.keyId.toNat = fieldAt obj 8 8 →
              (k.state = 2 → ends (.importCtx d a) v 5) ∧
              (k.state = 1 → match openObject k obj with
                | .error e => ends (.importCtx d a) v e
                | .ok payload => match Config.unpackContext payload with
                  | none => ends (.importCtx d a) v 7
                  | some snap => ∃ t q k', StatusDone (exec (.importCtx d a) s) c d 0 t ∧ t.part? p.id = some q ∧ q.ctxState = 2 ∧
                      q.objects = snap.objects.map (CodeObject.imported (snap.groups.map Prod.fst)
                        (renumber (snap.groups.map Prod.fst) v.groups.length)) ∧ q.xlat.s1root = snap.s1root ∧ t.keys[x.slot]? = some k' ∧ k'.state = 2 ∧ t.mem = v.mem))))) ∧
    (c.check (.seal d a) = .go →
      (x.ok = false ∨ x.part ≠ 0 ∨ 65536 < x.srcLen → ends (.seal d a) u 1) ∧
      (x.ok = true → x.part = 0 → x.srcLen ≤ 65536 →
        (∀ e, u.keyFor x.slot c.p.id 4 = .error e → ends (.seal d a) u e) ∧
        ∀ k bytes v, u.keyFor x.slot c.p.id 4 = .ok k → Fetches u c.who 1 x.source x.srcLen bytes v →
          let obj := sealObject k v.objectSerial bytes
          (x.cap < obj.length → ends (.seal d a) v 8) ∧
          (obj.length ≤ x.cap → ∀ u1 u2, Stores v c.who (x.dest + 64) (obj.drop 64) u1 → Stores u1 c.who x.dest (obj.take 64) u2 →
            ∃ t, StatusDone (exec (.seal d a) s) c d 0 t ∧ t.mem = u2.mem ∧ t.objectSerial = u2.objectSerial + 1)))

/-! ### Faults and translation -/

/-- R148, R265, R266: data that a strand misses arrive in its lanes; a fault entry is written when its queue has room and waits
otherwise; a RESOLVE answers the pending entry of its serial, and is ignored when there is none; a replay whose access passes
writes its registers, and those that a region opened since holds (R184), and frees its log entry, and one that was resolved by action 1 raises
PAGE; in a rerun one whose further lanes wait for their turns stays. That the replay counts no retirement, the access having retired when it
was deferred, is the model's choice (log 41, log 22). -/
def Obligations.FaultEvents : Prop :=
  ∀ s : State,
    (∀ gi g k d, s.groups[gi]? = some g → g.ctl.missing.head? = some k → (g.ctl.get k).bind Entry.missData = some d →
      (d.writes.map Prod.fst).Nodup → ∃ (t : State) (g' : Group), exec (.missDataArrival gi) s = .next t ∧ t.mem = s.mem ∧ t.groups[gi]? = some g' ∧
        (∀ j, j ≠ gi → t.groups[j]? = s.groups[j]?) ∧ g'.regs.s = g.regs.s ∧
        (let arrived := g.ctl.put k ((g.ctl.get k).map fun e => { e with wait := .ready, missData := none })
         g'.ctl = ((Group.wake (fun w => w == .lateWrite) { g with ctl := arrived }).ctl.settle settleFuel false).1) ∧
        (∀ w ∈ d.writes, ∀ l, l < 32 → Lanes.at (g'.regs.vreg w.1.toNat) l =
          if d.mask.getLsbD l then Lanes.at w.2 l else Lanes.at (g.regs.vreg w.1.toNat) l) ∧
        ∀ n, (∀ w ∈ d.writes, w.1.toNat ≠ n) → g'.regs.vreg n = g.regs.vreg n) ∧
    (∀ p stage2 q, s.part? p = some q →
      ((q.fq stage2).room = false → exec (.faultEntryWrite p stage2) s = .next s) ∧
      ∀ e rest key, (q.fq stage2).room = true → (q.fq stage2).waiting = e :: rest → s.faultSlot q stage2 = some key → s.plainMemory →
        s.mem.wf = true → ∃ (t : State) (q' : Part), exec (.faultEntryWrite p stage2) s = .next t ∧ t.part? p = some q' ∧
          (q'.fq stage2).head = (q.fq stage2).head + 1 ∧ (q'.fq stage2).waiting = rest ∧ (q'.fq stage2).tail = (q.fq stage2).tail ∧
          ∀ a, t.mem.read a = if key ≤ a ∧ a < key + 32 then e.bytes.getD (a - key) 0 else s.mem.read a) ∧
    (∀ p stage2 v q, s.part? p = some q → (stage2 = false → q.vfOpen true = true) →
      let e := if stage2 then Instr.xlatFq2Resolve p v else .xlatFq1Resolve p v
      let named := fun n : Nat => n % 2 ^ 32 == v.toNat % 2 ^ 32
      ((q.fq stage2).pending.find? named = none → exec e s = .next s) ∧
      ∀ n, (q.fq stage2).pending.find? named = some n → ∃ (t : State) (q' : Part), exec e s = .next t ∧ t.mem = s.mem ∧ t.part? p = some q' ∧
        (q'.fq stage2).pending = (q.fq stage2).pending.filter (· != n) ∧
        ∀ gi g, gi ∈ s.contextGroups p → s.groups[gi]? = some g → g.log ≠ [] → .faultReplay gi ∈ t.events ∧
          t.groups[gi]? = some { g with log := g.log.map fun l =>
            { l with faults := l.faults.map fun f => if f.stage2 = stage2 ∧ f.serial = n ∧ f.action = none then { f with action := some (v.getLsbD 32) } else f } }) ∧
    ∀ gi w l, s.who? gi = some w → w.g.resolved = some l → w.mayReplay = true → s.replayWaits w = false →
      (∀ stage, l.raised = some stage →
        exec (.faultReplay gi) s = .next (s.deferTrap w l .page (BitVec.ofNat 32 stage) l.addr l.lanes)) ∧
      ∀ d, l.raised = none → l.ops.chain = none → s.replayAcc w l = .done d →
        ∃ t : State, exec (.faultReplay gi) s = .next t ∧ t.mem = d.st.mem ∧ t.hist = d.st.hist ∧ t.parts = d.st.parts ∧
          ∀ g0 g, d.st.groups[gi]? = some g0 → t.groups[gi]? = some g → g.retire = g0.retire ∧
            match d.more with
            | some got => .faultReplay gi ∈ t.events ∧ g.regs = g0.regs ∧
                g.log = g0.log.map fun x => if x.id = l.id then { x with turned := got } else x
            | none =>
              let plain := fun x : LogEntry => { x with before := none }
              g.log.map plain = (g0.log.filter fun x => x.id != l.id).map plain ∧
              g.regs.v = (Regs.writeLanes d.mask g0.regs d.writes).v ∧ g.region.isSome = g0.region.isSome ∧
              ∀ r, g.region = some r → (∀ x ∈ g0.log, x.id = l.id → x.inRegion = false) → ∀ n ∈ (logWrites l).1, r.regs.vreg n = g.regs.vreg n

/-- R253, R258, R262 to R264: a free walker starts the queued walk that has waited longest among the partitions below their quotas;
a walk that ends installs its translation in the TLBs that wait for it, or leaves its fault for the access; an invalidation drops every translation that it
names, from the TLBs and the hidden frames, recalls at stage 2 the leases of its pages, and its count rises once the accesses that used them are
complete and those leases acknowledged; a load of the
eviction schedule takes the table's entries. That an invalidation of stage 2 recalls leases, and waits until each has been acknowledged, is the
model's choice (log 33).

R270, R271: leases. A target grants the region asked for, unless it moves pages of it; a source with room waits, and one whose leases, with
those that it has asked for, number 4,096 gives one up. A grant is held where there is room, and brings the translation that waits for it; a
denial is a stage-2 fault of reason 3; a recall drops every translation under the lease, and its acknowledgement, sent once the accesses are
complete, ends the lease; a release gives it up when no access under it is outstanding; a lease that is not acknowledged in time is noticed. That
a target which moves pages answers no request, and that the outside names the package of a request and of a notice, are the model's choice
(log 33). -/
def Obligations.TranslationEvents : Prop :=
  (∀ s : State, (∀ p ∈ s.parts, s.part? p.id = some p) →
     (∀ p, s.walkersBusy < 64 → s.walkNext = some p → ∃ (t : State) (q : Part), exec .walkStart s = .next t ∧ t.mem = s.mem ∧ t.part? p.id = some q ∧
       q.xlat.walkers = p.xlat.walkers + 1 ∧ q.xlat.queuedWalks = p.xlat.queuedWalks.tail ∧ .walkComplete ∈ t.events ∧ p ∈ s.parts ∧
       p.xlat.queuedWalks ≠ [] ∧ ∀ x ∈ s.parts, x.xlat.queuedWalks ≠ [] → x.xlat.walkers < x.xlat.quota.toNat →
         p.xlat.walkers < p.xlat.quota.toNat ∧ p.xlat.oldest.getD 0 ≤ x.xlat.oldest.getD 0) ∧
     (s.runningWalks ≠ [] → ∃ y ∈ s.runningWalks, ∃ (t : State) (q : Part), exec .walkComplete s = .next t ∧ t.mem = s.mem ∧
       t.part? y.1.id = some q ∧
       match s.translate (s.unreadable y.1) y.1 (4096 * y.2) with
       | .ok x =>
         if keyClass (x.at (4096 * y.2)) = 2 ∧ s.leased y.1.id (leaseRegion (x.at (4096 * y.2))) = false then
           .leaseReq y.1.id (leaseRegion (x.at (4096 * y.2))) ∈ t.events
         else (∀ site ∈ y.1.xlat.sitesFor y.2, ∃ e ∈ q.xlat.tlb, e.site = site ∧ e.x = x.leasePart (4096 * y.2)) ∧ ∀ w ∈ q.xlat.walks, w.page ≠ y.2
       | .error r => (y.2, r) ∈ q.xlat.verdicts ∧ q.xlat.tlb = y.1.xlat.tlb ∧ ∀ w ∈ q.xlat.walks, w.page ≠ y.2) ∧
     (∀ p v q stage2, s.part? p = some q → (stage2 = false → q.vfOpen true = true) →
       let drop := invalDrops stage2 v
       let due := fun x : PartXlat => if stage2 then x.inval2Due else x.inval1Due
       let done := fun x : PartXlat => if stage2 then x.invDone2 else x.invDone1
       (∃ (t : State) (q' : Part), exec (if stage2 then .xlatInval2 p v else .xlatInval1 p v) s = .next t ∧ t.mem = s.mem ∧ t.part? p = some q' ∧
         q'.xlat.tlb = q.xlat.tlb.filter (fun e => !drop e.x) ∧ due q'.xlat = due q.xlat + 1 ∧ done q'.xlat = done q.xlat ∧
         .invalidationComplete p stage2 ∈ t.events ∧
         ∀ gi g x, gi ∈ s.contextGroups p → t.groups[gi]? = some g → ∀ b : BitVec 3, (g.regs.tbReg b).frame = some x → drop x = false) ∧
       (∃ t : State, exec (if stage2 then .xlatInval2 p v else .xlatInval1 p v) s = .next t ∧ ∀ gi g, gi ∈ s.contextGroups p → t.groups[gi]? = some g →
         (∀ l ∈ g.log, l.ops.tb.frame.any drop = false ∧ ∀ ch, l.ops.chain = some ch → ch.tba.frame.any drop = false ∧ ch.tbb.frame.any drop = false) ∧
         ∀ o ∈ g.stores, drop o.xlate = true → OwnStore.carried .p o = true → o.stale = true) ∧
       (∃ t : State, exec (.xlatInval2 p v) s = .next t ∧ ∀ l ∈ t.leasesGranted, l.part = p → invalMeets v l.region = true → l.recalled = true) ∧
       (4 ≤ v.toNat % 16 → ∀ x, drop x = true) ∧
       (∃ (t : State) (q' : Part), exec (if stage2 then .xlatS2root p v else .xlatS1root p v) s = .next t ∧ t.mem = s.mem ∧ t.part? p = some q' ∧
         (if stage2 then q'.xlat.s2root else q'.xlat.s1root) = v ∧ q'.xlat.tlb = [] ∧ due q'.xlat = due q.xlat + 1 ∧
         .invalidationComplete p stage2 ∈ t.events) ∧
       let waits := s.accessesRun p = true ∨ (stage2 = true ∧ ∃ l ∈ s.leasesGranted, l.part = p ∧ l.recalled = true)
       (waits → exec (.invalidationComplete p stage2) s = .next s) ∧
       (¬ waits → due q.xlat ≠ 0 → ∃ (t : State) (q' : Part), exec (.invalidationComplete p stage2) s = .next t ∧ t.mem = s.mem ∧
         t.part? p = some q' ∧ due q'.xlat + 1 = due q.xlat ∧ done q'.xlat = done q.xlat + 1)) ∧
     ∀ p q bs, s.part? p = some q → q.vfOpen true = true →
       let n := min q.xlat.keepCount.toNat 4096
       s.readVa q s.ownerReader [] s.free q.xlat.keepBase.toNat (16 * n) = some bs →
       ∃ (t : State) (q' : Part), exec (.l2schedLoad p) s = .next t ∧ t.mem = s.mem ∧ t.homes = s.homes ∧ t.part? p = some q' ∧
         ∀ k, k ∈ q'.xlat.keeps ↔ ∃ i, i < n ∧ k.start = fieldAt (bytesAt bs (16 * i) 16) 0 8 ∧ k.lines = fieldAt (bytesAt bs (16 * i) 16) 8 4 ∧
           k.step = BitVec.ofNat 32 (fieldAt (bytesAt bs (16 * i) 16) 12 4) ∧ k.start % 128 = 0 ∧ k.start < 2 ^ 57 ∧ 1 ≤ k.lines) ∧
  (∀ (s : State) (p region : Nat),
     let walks := s.leaseWalks p region
     let same := fun l : Lease => l.part = p ∧ l.region = region
     let still := (∀ l ∈ s.leasesGranted, same l → l.recalled = false) ∧ ∀ q, s.part? p = some q → q.xlat.inval2Due = 0
     (walks = [] → still → ∃ t : State, exec (.leaseReq p region) s = .next t ∧ t.mem = s.mem ∧ t.leasesHeld = s.leasesHeld ∧
       ∃ l ∈ t.leasesGranted, same l ∧ l.package = s.inbox.index) ∧
     (walks = [] → ¬ still → exec (.leaseReq p region) s = .next s) ∧
     let others := s.leasesHeld.filter fun l => l.part != p || l.region != region
     let wanted := s.leasesAsked.filter fun x => x != (p, region)
     (walks ≠ [] → others.length + wanted.length < 4096 → exec (.leaseReq p region) s = .next s) ∧
     (walks ≠ [] → 4096 ≤ others.length + wanted.length → s.leasesHeld ≠ [] → ∃ t : State, exec (.leaseReq p region) s = .next t ∧ t.leasesHeld = s.leasesHeld ∧
       .leaseReq p region ∈ t.events ∧ ∃ l ∈ s.leasesHeld, .leaseRelease l.part l.region ∈ t.events) ∧
     (walks = [] ∨ 4096 ≤ others.length → exec (.leaseGrant p region) s = .next s) ∧
     (walks ≠ [] → others.length < 4096 → ∃ t : State, exec (.leaseGrant p region) s = .next t ∧ t.mem = s.mem ∧
       (∃ l ∈ t.leasesHeld, same l ∧ l.recalled = false) ∧ t.leasesHeld.length = others.length + 1 ∧
       ∀ page q x, walks = [page] → s.part? p = some q → s.translate (s.unreadable q) q (4096 * page) = .ok x →
         leaseRegion (x.at (4096 * page)) = region → ∃ q' : Part, t.part? p = some q' ∧ (∀ w ∈ q'.xlat.walks, w.page ≠ page) ∧
           ∀ site ∈ q.xlat.sitesFor page, ∃ e ∈ q'.xlat.tlb, e.site = site ∧ e.x = x.leasePart (4096 * page)) ∧
     (∃ t : State, exec (.leaseDeny p region) s = .next t ∧ t.mem = s.mem ∧ ∀ q, t.part? p = some q → ∀ page ∈ walks,
       ∃ guest ro, (page, { result := .page true 3 guest false, readOnly := ro }) ∈ q.xlat.verdicts) ∧
     (∃ t : State, exec (.leaseRecall p region) s = .next t ∧ t.mem = s.mem ∧ (∀ l ∈ t.leasesHeld ++ t.leasesGranted, same l → l.recalled = true) ∧
       (s.leased p region = true → .leaseAck p region ∈ t.events ∧ ∀ q, t.part? p = some q → ∀ e ∈ q.xlat.tlb,
         ¬ (keyClass e.x.key = 2 ∧ leaseRegion e.x.key ≤ region ∧ region ≤ leaseRegion (e.x.key + e.x.bytes - 1)))) ∧
     (∃ t : State, exec (.leaseAck p region) s = .next t ∧ t.mem = s.mem ∧ (∀ l, l ∈ t.leasesGranted ↔ l ∈ s.leasesGranted ∧ ¬ (same l ∧ l.package = s.inbox.index ∧ l.recalled = true)) ∧
       (s.accessesRun p = true → t.leasesHeld = s.leasesHeld) ∧
       (s.accessesRun p = false → ∀ l, l ∈ t.leasesHeld ↔ l ∈ s.leasesHeld ∧ ¬ (same l ∧ l.recalled = true))) ∧
     (∃ t : State, exec (.leaseRelease p region) s = .next t ∧ t.mem = s.mem ∧ (∀ l, l ∈ t.leasesGranted ↔ l ∈ s.leasesGranted ∧ ¬ (same l ∧ l.package = s.inbox.index)) ∧
       (s.leaseBusy p region = true → t.leasesHeld = s.leasesHeld) ∧ (s.leaseBusy p region = false → ∀ l, l ∈ t.leasesHeld ↔ l ∈ s.leasesHeld ∧ ¬ same l)) ∧
     ((∃ l ∈ s.leasesGranted, same l ∧ l.recalled = true) → exec (.leaseTimeout p region) s =
       .next { s with mgmt := { s.mgmt with notices := s.mgmt.notices ++ [s.inbox.index] } }))

/-! ### Scheduling -/

/-- R30, R110, R144, R177, R367, R372, R375, R377 to R379, R415: a queue's next team, one that saves were requested for before the others (R382), is admitted on the hall
that passes and holds the fewest teams, its groups at the first word with their first registers; a saved team goes on, where its save
frame holds what its save wrote (log 34); a foyer starts from a launch
record that passes; a group whose last lane has exited ends, and a finished team gives up what it holds; a strand becomes
overdue; a window of the lost-locality detector moves the allowed count, and an epoch the request limits. The model's choices: which of its
latest word's misses a window takes in (log 8), the over bits that the outside gives (log 33), a start of the foyer that is ignored while the
partition is held or resets (log 29), and one that waits for room on hall 0 (log 52). -/
def Obligations.AdmissionEvents : Prop :=
  ∀ s : State,
    (∀ p q o hall, s.part? p = some q → s.nextAdmit q = some (o, hall) →
      (s.foyerBack q = none → q.halls.Pairwise (· < ·) → ∃ before after, ((s.offers p).filter q.sched.waitsFor ++ (s.offers p).filter fun x => !q.sched.waitsFor x) = before ++ o :: after ∧ (∀ x ∈ before, s.passing q x = []) ∧
        hall ∈ s.passing q o ∧ ∀ h ∈ s.passing q o, s.teamCount hall < s.teamCount h ∨ s.teamCount hall = s.teamCount h ∧ hall ≤ h) ∧
      (∀ n g, o = .fresh n → s.grids[n]? = some g → ∃ (t : State) (team : Team) (q' : Part), exec (.teamAdmit p) s = .next t ∧
        t.teams[s.teams.length]? = some team ∧ team.hall = hall ∧ team.part = g.part ∧ team.teamId = g.nextTeam ∧ team.phase = .resident ∧
        team.spad = [] ∧ team.tiles = [] ∧ team.groups.length = g.hdr.groupCount ∧ t.part? p = some q' ∧
        q'.counters.admitted = q.counters.admitted + 1 ∧ (∃ g', t.grids[n]? = some g' ∧ g'.nextTeam = g.nextTeam + 1) ∧
        ∀ id, id < g.hdr.groupCount → ∃ x, t.groups[s.groups.length + id]? = some x ∧ x.id = id ∧ x.team = s.teams.length ∧
          x.regs = firstRegs g.hdr g.args (BitVec.ofNat 32 g.teams) ∧ x.ctl = Control.single { g.ref with off := g.ref.off + 0x40 } allLanes) ∧
      (∀ ti team, o = .saved ti → s.teams[ti]? = some team → team.held = [] → s.holdsPrivate = false → (∀ c ∈ s.hist, c.seq < s.seq) →
        let kept := fun (va n id : Nat) => ∀ bs, s.readVa q (s.frameReader { team with hall := hall }) [] s.free va n = some bs → bs = keptBytes id n
        kept (team.saveFrame + team.hdr.recordAt team.hdr.groupCount) 8192 team.kept →
        (∀ gi ∈ team.groups, ∀ g, s.groups[gi]? = some g → kept (team.slotAddr g.id + saveSlotBytes) (8192 - saveSlotBytes) g.kept) → ∃ (t : State) (team' : Team), exec (.teamAdmit p) s = .next t ∧
        t.teams[ti]? = some team' ∧ team'.hall = hall ∧ team'.phase = .resident ∧ team'.requested = false ∧ team'.knots = team.knots ∧
        ∀ gi ∈ team.groups, ∀ g, s.groups[gi]? = some g → g.saved ≠ none → ∃ g', t.groups[gi]? = some g' ∧ g'.saved = none ∧ g'.ctl = g.ctl ∧
          g'.regs.s = g.regs.s)) ∧
    (∀ p v q, s.part? p = some q →
      (s.mayStartFoyer q = false → exec (.schedFoyerrec p v) s = .next s) ∧
      ∀ rec_ hall, q.vfOpen true = true → s.mayStartFoyer q = true → q.halls.head? = some hall →
        s.readVa q { party := .outside, beginH := s.seq, beginP := s.seq, beginY := s.seq, sysHome := false } [] s.free v.toNat 64 = some rec_ →
        (q.foyerPlan rec_ = none ∨ v.toNat % 64 ≠ 0 → exec (.schedFoyerrec p v) s = .next s.spend) ∧
        ∀ x, q.foyerPlan rec_ = some x → v.toNat % 64 = 0 → ∃ (t : State) (team : Team) (q' : Part), exec (.schedFoyerrec p v) s = .next t ∧ t.part? p = some q' ∧
          q'.sched.foyerState = 1 ∧ q'.ctxState = 1 ∧ q'.sched.foyerTeam = some s.teams.length ∧ t.teams[s.teams.length]? = some team ∧
          team.foyer = true ∧ team.hall = hall ∧ team.hdr = x.hdr ∧ team.hdr.pgroups = 0 ∧ team.hdr.cgroups = 1) ∧
    (∀ ti team q, s.teams[ti]? = some team → s.part? team.part = some q → s.teamFinished ti = true →
      ∃ (t : State) (team' : Team) (q' : Part), exec (.teamRelease ti) s = .next t ∧ t.teams[ti]? = some team' ∧ team'.phase = .released ∧
        team'.spad = [] ∧ team'.tiles = [] ∧ t.part? team.part = some q' ∧ q'.counters.released = q.counters.released + 1 ∧
        q'.sched.foyerState = (if team.foyer then 3 else q.sched.foyerState) ∧
        ∀ n g, team.grid = some n → s.grids[n]? = some g → ∃ g', t.grids[n]? = some g' ∧ g'.released = g.released ++ [team.teamId] ∧
          g'.done = decide (g.teams ≤ g.released.length + 1)) ∧
    (∀ gi g, s.groups[gi]? = some g → g.phase = .running → g.saved = none → g.ctl.live = 0 → g.activeLog = [] → g.chain = none →
      ∃ (t : State) (g' : Group), exec (.groupExitComplete gi) s = .next t ∧ t.groups[gi]? = some g' ∧ g'.phase = .exited ∧ g'.stores = [] ∧ g'.log = [] ∧
        g'.watch = [] ∧ g'.priv = [] ∧ ∃ new, t.hist = new ++ ((s.updGroup gi Group.endRegion).commitGroup gi .y).hist) ∧
    (∀ gi k g e, s.groups[gi]? = some g → s.canRun g = true → k < 8 → g.ctl.get (Fin.ofNat 8 k) = some e → e.overdue = none → e.kind = .strand →
      (e.wait = .ready ∨ e.wait = .watch ∧ (g.ctrl.preq = true ∨ ∃ w ∈ g.watch, w.fired = true)) →
      ∃ (t : State) (g' : Group), exec (.strandOverdue gi k) s = .next t ∧ t = { s with groups := t.groups } ∧ t.groups[gi]? = some g' ∧
        g'.ctl.get (Fin.ofNat 8 k) = some { e with overdue := some s.nextOverdue } ∧ g' = { g with ctl := g'.ctl }) ∧
    (∀ h hits x, s.halls[h]? = some x → ∃ (t : State), exec (.lldWindowEnd h hits) s = .next t ∧ t = { s with halls := t.halls } ∧
      (let found := max (min x.lostWas x.lost) (min hits x.lost)
       t.halls[h]? = some { x with allowed := if s.lldThresh h < found then max 4 (x.allowed - 1) else min 64 (x.allowed + 1)
                                   lost := x.lost - found, lostWas := 0 }) ∧
      ∀ j, j ≠ h → t.halls[j]? = s.halls[j]?) ∧
    ∃ t : State, exec .bwEpoch s = .next t ∧ t = { s with halls := t.halls } ∧ ∀ n x, s.halls[n]? = some x → ∃ y, t.halls[n]? = some y ∧
      y = { x with limits := y.limits } ∧ ∀ team ∈ s.teams, team.phase = .resident → team.hall = n → ∀ k, k < 12 →
        let old := x.limit team.part k
        let new := y.limit team.part k
        0 < old.num → old.num ≤ old.den → (new.num : Rat) / new.den =
          if (fieldAt s.inbox.bytes (2 * team.part) 2).testBit k then max (1 / 64) ((old.num : Rat) / old.den / 2)
          else min 1 ((old.num : Rat) / old.den + 1 / 64)

/-- R381, R382, R395, R396: the scheduler asks teams to save for one that waits; a deadline ends in a quiescent save, a discard, which
restarts the region, or a forced save; a team whose groups are saved gives up its hall; one that is not saved in time parks
with class 2; the owner kills the team of a parked group or lets the group go on, from the frame of
the trap it was handling; a notice is written when the queue has room. That a group without a frame goes on where it stood, and the classes
that a group parks again with, are the model's choice (log 35). -/
def Obligations.SaveEvents : Prop :=
  ∀ s : State,
    (∀ p q x, s.part? p = some q → s.autoTarget q = some x → ∃ (t : State) (q' : Part), exec (.autoPreempt p) s = .next t ∧
      t.part? p = some q' ∧ x ∈ q'.sched.autoWait ∧ ∀ ti ∈ x.teams, ∀ team, s.teams[ti]? = some team →
        team.hall = x.hall ∧ (∀ need prio, s.offerNeeds x.offer = some need → need.2.2 = prio → team.prio + q.sched.prioGap.toNat ≤ prio) ∧
        (∃ team', t.teams[ti]? = some team' ∧ team'.requested = true ∧ team'.byAuto = true) ∧
        ∀ gi ∈ team.groups, ∀ g, t.groups[gi]? = some g → g.ctrl.preq = true ∨ g.saved ≠ none ∨ g.phase = .exited) ∧
    (∀ gi g team q, s.groups[gi]? = some g → s.teamOf g = some team → s.part? team.part = some q → team.phase = .resident → g.ctrl.preq = true →
      g.unsaved = true → g.whole = true → g.quiet = true ∨ g.outstanding = false →
      let k : SaveKind := if g.quiet then .quiescent else if g.region ≠ none ∧ g.ctxs = [] then .discard else .forced
      ∃ (t : State) (g' : Group) (q' : Part), exec (.deadlineExpiry gi) s = .next t ∧ t.groups[gi]? = some g' ∧ g'.saved = some k ∧ g'.ctrl.preq = false ∧
        t.part? team.part = some q' ∧ q'.sched.forced = q.sched.forced + (if k = .forced then 1 else 0) ∧
        ∀ r, k = .discard → g.region = some r → g'.retire = r.retire ∧ (g'.ctl.get 0).map Entry.pc = some r.pc ∧ g'.ctl.used = 1 ∧ g'.regs.s = r.regs.s) ∧
    (∀ ti team q, s.teams[ti]? = some team → s.part? team.part = some q → team.phase = .resident → s.allSaved team = true → s.stairRuns ti = false →
      ∃ (t : State) (team' : Team) (q' : Part), exec (.teamSaveComplete ti) s = .next t ∧ t.teams[ti]? = some team' ∧ team'.phase = .saved ∧
        team'.requested = false ∧ t.part? team.part = some q' ∧ q'.sched.saves = q.sched.saves + 1 ∧
        q'.sched.foyerState = (if team.foyer then 4 else q.sched.foyerState) ∧
        ∀ c ∈ t.cmds, c.team = ti → (∃ h, c.engine = .stair h) → c.phase ≠ .queued) ∧
    (∀ ti team q, s.teams[ti]? = some team → s.part? team.part = some q → team.phase = .resident →
      (∀ gi ∈ team.groups, ∀ g, s.groups[gi]? = some g → g.team = ti) → (∃ gi ∈ team.groups, ∃ g, s.groups[gi]? = some g ∧ g.late = true ∧ g.unsaved = true) →
      ∃ t : State, exec (.wedgeTimeout ti) s = .next t ∧ ∀ gi ∈ team.groups, ∀ g, s.groups[gi]? = some g → g.unsaved = true → g.phase = .running →
        ∃ g' n, t.groups[gi]? = some g' ∧ g'.phase = .parked n 2) ∧
    (∀ p serial gi cls w, s.parkedGroup p serial = some (gi, cls) → s.who? gi = some w → w.p.id = p → w.p.vfOpen true = true →
      (∀ team, s.teams[w.g.team]? = some team → ∃ (t : State) (team' : Team), exec (.ownParkactKill p serial) s = .next t ∧
        t.teams[w.g.team]? = some team' ∧ team'.killed = true ∧ ∀ gj ∈ team.groups, ∀ g, t.groups[gj]? = some g → g.phase = .exited) ∧
      ((∀ x ∈ w.g.ctxs, x.landing = true) → ∃ t : State, exec (.ownParkactResume p serial) s = .next t ∧
        t.groups[gi]? = some { w.g with phase := .running } ∧ t.mem = s.mem) ∧
      ∀ ls x rest, w.g.ctxs = ls ++ x :: rest → (∀ y ∈ ls, y.landing = true) → x.landing = false →
        (∀ cause, s.returnSlot w = .error cause → exec (.ownParkactResume p serial) s =
          .next (if cause = .integrity then (s.park gi 3).beginHold p 2 else s.park gi 1)) ∧
        ∀ slot, s.returnSlot w = .ok slot → exec (.ownParkactResume p serial) s =
          .next ((((s.unpark w).updGroup gi fun g => { g with land := g.land.drop ls.length }).endTrap w slot x rest).unpin p)) ∧
    (∀ p serial, s.parkedGroup p serial = none → exec (.ownParkactKill p serial) s = .next s ∧ exec (.ownParkactResume p serial) s = .next s) ∧
    ∀ note rest, s.mgmt.parkWaiting = note :: rest →
      (s.mgmt.parkRoom = false → exec .parkNotice s = .next s) ∧
      (s.mgmt.parkRoom = true → s.plainMemory → s.mem.wf = true →
        let slot := s.mgmt.parkQBase.toNat + 16 * (s.mgmt.parkQHead.toNat % s.mgmt.parkQSize.toNat)
        ∃ t : State, exec .parkNotice s = .next t ∧ t.mgmt.parkQHead = s.mgmt.parkQHead + 1 ∧ t.mgmt.parkWaiting = rest ∧
          ∀ a, t.mem.read a = if slot ≤ a ∧ a < slot + note.length then note.getD (a - slot) 0 else s.mem.read a)

/-- R54, R291, R433: writes that reach memory by themselves. An .nt store is performed at its home whenever the device chooses; a write of
the host or a peer changes the bytes it carries, and fires the watches on their lines; one into HBM itself changes whole sectors of what stands
there.

R275, R452: the rope links. No state shows a retried flit; a failed port is taken out of use; where no path reaches the target, the move that
comes next reads the range as poisoned, and no later one does; a write is dropped, so that its bytes are what stood there before it unless a
later write has been performed there, and the operator is told; a BRAID ends with PEER. That the outside says which access it was, and where the
notice stands, are the model's choice (log 33). -/
def Obligations.OutsideEvents : Prop :=
  (∀ s : State, s.plainMemory → s.mem.wf = true →
     (∀ gi n sc g, s.groups[gi]? = some g → ∃ (t : State) (g' : Group), exec (.ntStorePerformed gi n sc) s = .next t ∧ t.groups[gi]? = some g' ∧
       (∀ o ∈ g'.stores, granOf o.key = n → o.unperformed = false) ∧ g'.regs = g.regs ∧
       ∀ a, t.mem.read a = if granOf a = n then (((g.stores.find? fun o => o.unperformed && o.key == a).map OwnStore.val).getD (s.mem.read a))
         else s.mem.read a) ∧
     let key := outsideKey (s.inbox.kind.toNat % 4) s.inbox.addr
     let n := s.inbox.bytes.length
     (s.inbox.flag = true → keyClass key = 0 → s.homes.sysMem.wf = true → ∃ t : State, exec .hostWrite s = .next t ∧
       let start := key / 32 * 32
       ∀ a, t.homes.sysMem.read a = if start ≤ a ∧ a < start + n / 32 * 32 then s.inbox.bytes.getD (a - start) 0 else s.homes.sysMem.read a) ∧
     (s.inbox.flag = false ∨ keyClass key ≠ 0 → ∃ t : State, exec .hostWrite s = .next t ∧
       (∀ a, t.mem.read a = if key ≤ a ∧ a < key + n then s.inbox.bytes.getD (a - key) 0 else s.mem.read a) ∧
       ∀ (gi : Nat) (g : Group), s.groups[gi]? = some g → ∃ g' : Group, t.groups[gi]? = some g' ∧ g'.regs = g.regs ∧ g'.watch.length = g.watch.length ∧
         ∀ (i : Nat) x, g.watch[i]? = some x → ∃ y, g'.watch[i]? = some y ∧ y.line = x.line ∧
           y.fired = (x.fired || (List.range n).any fun b => (key + b) / 128 == x.line))) ∧
  (∀ s : State,
     let key := outsideKey 2 s.inbox.addr
     let named := fun a : Nat => ∃ i, i < s.inbox.count ∧ (key + i) / 16 = a / 16
     exec .flitRetry s = .next s ∧
     (s.inbox.index < 24 → ∃ t : State, exec .portFailover s = .next t ∧ t = { s with failedPorts := t.failedPorts } ∧
       ∀ n, n ∈ t.failedPorts ↔ n = s.inbox.index ∨ n ∈ s.failedPorts) ∧
     (s.inbox.kind = 0 → ∃ t : State, exec .ropeUnreachableTimeout s = .next t ∧ t = { s with timedOut := t.timedOut } ∧
       ∀ n, n ∈ t.timedOut ↔ ∃ i, i < s.inbox.count ∧ n = (key + i) / 16) ∧
     (∀ m, (s.toMove m).timedOut = [] ∧ ∀ n, n ∈ (s.toMove m).poisonNow ↔ n ∈ s.poison ∨ n ∈ s.timedOut) ∧
     (s.inbox.kind = 1 → s.mem.wf = true → ∃ t : State, exec .ropeUnreachableTimeout s = .next t ∧
       t.mgmt = { s.mgmt with notices := s.mgmt.notices ++ [s.inbox.index] } ∧ t.groups = s.groups ∧
       ∀ a, let dropped := s.hist.find? fun c => c.gran == a / 16 && c.atHome && c.seq == s.inbox.value.toNat
         (¬ named a ∨ dropped = none → t.mem.read a = s.mem.read a) ∧
         ∀ c, named a → dropped = some c →
           let carries := fun d : Commit => ((d.bytes[a % 16]?).join).isSome = true
           let later := fun d => d ∈ s.hist.takeWhile (fun d => d != c) ∧ d.gran = a / 16 ∧ d.atHome = true ∧ carries d
           (carries c ∧ (∀ d, ¬ later d) → t.mem.read a = c.prior.getD (a % 16) 0) ∧
           (¬ carries c ∨ (∃ d, later d) → t.mem.read a = s.mem.read a)) ∧
     ∀ j b, 1 < s.inbox.kind.toNat → s.job? s.inbox.count = some j → j.c.braid = some b →
       (j.c.phase = .running ∨ ∃ n st f, j.c.phase = .waitFault n st f) →
       exec .ropeUnreachableTimeout s = .next ((s.engFail j 10 (BitVec.ofNat 64 b.desc) []).abortMates j.ci b))

/-! ### Registers, partitions and energy -/

/-- R9, R10, R264, R393, R394, R407, R409: register accesses and inspections. A read that the authority's cell allows returns the
register, any other reads as zero, and the operator's of owner state is counted. A write that is allowed stores the value, at
the register's width, or sets going the event of its register, and any other changes nothing. A checked write is refused with a
result in PART_STATUS, or stored. An inspection reads as BUSY until it is complete. That HALLSEL and AGE_SEL beyond 303, REPLAY_RANGECOUNT and
L2SCHED_COUNT are stored as written is the model's choice (log 27); so are the reply of a refused read, and CONFLICT for a partition that does
not exist (log 26). -/
def Obligations.RegisterEvents : Prop :=
  ∀ s : State,
    let r := s.inbox.reg
    let v := s.inbox.value
    let pid := s.regPart r
    let cell := WinReg.cell r s.inbox.auth
    let result := fun (t : State) (st : BitVec 3) => t.mgmt.partStatus = st ∧ t.parts = s.parts ∧ t.mem = s.mem
    (s.inbox.kind = 1 → ∃ (t : State) (reply : Reply), exec .registerWrite s = .next t ∧ t.reply = some reply ∧ t.mem = s.mem ∧
      (cell.reads = true → s.regOpen r = true → reply.status = 0 ∧ t.parts = s.parts ∧ (r ≠ .ownResetrec → reply.data = natLe 8 (s.readReg pid r))) ∧
      (cell.reads = false → reply.status = 1 ∧ reply.data = List.replicate 8 0 ∧ (s.inbox.auth = .operator → WinReg.ownerState r = true →
        ∀ q, s.part? pid = some q → ∃ q', t.part? pid = some q' ∧ q'.counters.refusedReads = q.counters.refusedReads + 1))) ∧
    (s.inbox.kind ≠ 1 →
      (cell.writes = false → exec .registerWrite s = .next s) ∧
      (cell.writes = true → s.regOpen r = true →
        (WinReg.checked r = true → exec .registerWrite s = .next (s.due .partRegisterWrite)) ∧
        (WinReg.checked r = false → ∃ t : State, exec .registerWrite s = .next t ∧ t.mem = s.mem ∧ t.groups = s.groups ∧
          (∀ e, regEvent r pid v = some e → e ∈ t.events) ∧
          (∀ w, (r, w) ∈ [(WinReg.mgmtCtxsel, 7), (.mgmtParkqbase, 64), (.mgmtParkqtail, 32), (.mgmtHallsel, 9), (.mgmtResetrecbase, 64), (.ageSel, 9)] →
            t.readReg pid r = v.toNat % 2 ^ w) ∧
          (∀ w q, s.part? pid = some q → (r, w) ∈ [(WinReg.xlatFq1base, 64), (.xlatFq2base, 64), (.xlatFq1tail, 32), (.xlatFq2tail, 32),
              (.l2schedBase, 64), (.l2schedCount, 13), (.schedPriogap, 3), (.schedLldthresh, 16), (.ownKeysel, 7), (.replayLogbase, 64),
              (.replayLogsize, 32), (.replayLogtail, 32), (.replayRangebase, 64), (.replayRangecount, 5), (.ropePwbase, 64), (.ropePwcount, 13)] →
            t.readReg pid r = v.toNat % 2 ^ w) ∧
          (∀ q, s.part? pid = some q → r = .schedDeadline →
            t.readReg pid r = if 1000 ≤ v.toNat % 2 ^ 32 ∧ v.toNat % 2 ^ 32 ≤ 2 ^ 24 then v.toNat % 2 ^ 32 else s.readReg pid r) ∧
          (∀ q, s.part? pid = some q → r = .xlatFq1size ∨ r = .xlatFq2size →
            t.readReg pid r = if ∃ i, i < 9 ∧ v.toNat % 65536 = 2 ^ (i + 4) then v.toNat % 65536 else s.readReg pid r) ∧
          (r = .pwrCap → t.readReg pid r = if 1200 ≤ v.toNat % 4096 ∧ v.toNat % 4096 ≤ 2800 then v.toNat % 4096 else s.readReg pid r)))) ∧
    (s.inbox.auth = .operator → WinReg.checked r = true →
      (r = .ccKeysel → ∃ t : State, exec .partRegisterWrite s = .next t ∧ result t 0 ∧ t.mgmt.ccKeySel.toNat = v.toNat % 128) ∧
      (r ≠ .ccKeysel →
        (s.part? pid = none → ∃ t : State, exec .partRegisterWrite s = .next t ∧ result t 3) ∧
        ∀ q, s.part? pid = some q →
          let st := s.checkWrite q r v.toNat
          (st ≠ 0 → ∃ t : State, exec .partRegisterWrite s = .next t ∧ result t (BitVec.ofNat 3 st)) ∧
          (st = 0 → ∃ t : State, exec .partRegisterWrite s = .next t ∧ t.mgmt.partStatus = 0 ∧ t.mem = s.mem ∧
            ∀ w, (r, w) ∈ [(WinReg.xlatWalkquota, 7), (.partCodebase, 64), (.partCodesize, 11), (.partWaymask, 16), (.partSlicemask0, 32),
                (.partSlicemask1, 32), (.partSlicemask2, 32), (.partBwfloor, 16), (.partBwweight, 8), (.partHoistmask, 32), (.partBraidmask, 16),
                (.partCmprmask, 8), (.partEnfloor, 32), (.partEnweight, 8), (.partVfmin, 3), (.ccHbperiod, 8), (.ccHoldtime, 32), (.migCntbase, 64),
                (.migCntfirst, 64), (.migCntpages, 32), (.migThresh, 16), (.migNqbase, 64), (.migNqtail, 32), (.migTrkfirst, 64), (.migTrkpages, 32),
                (.migBmbase, 64), (.migFlushfirst, 64), (.migFlushpages, 32)] → t.readReg pid r = v.toNat % 2 ^ w) ∧
          (r = .xlatWalkquota → (v.toNat % 128 = 0 ∨ 64 < v.toNat % 128 → st = 1) ∧
            (1 ≤ v.toNat % 128 → v.toNat % 128 ≤ 64 → s.parts = [q] → st = 0)) ∧
          (r = .partBwfloor → 45000 < v.toNat % 65536 → st = 1) ∧ (r = .partBwweight → v.toNat % 256 = 0 → st = 1) ∧
          (r = .partCodebase → v.toNat % 65536 ≠ 0 → st = 1) ∧
          (r = .partCodebase → v.toNat % 65536 = 0 → q.cfg.codeSize.toNat ≤ 1024 → v.toNat + 65536 * q.cfg.codeSize.toNat ≤ 768 * 2 ^ 30 →
            q.ctxState ≠ 0 → st = 2))) ∧
    (s.inbox.auth ≠ .operator ∨ s.mgmt.inspStatus = 3 → exec .mgmtInspid s = .next s) ∧
    (s.inbox.auth = .operator → s.mgmt.inspStatus ≠ 3 →
      let id := s.mgmt.ctxSel.toNat
      ∃ (t : State) (st : BitVec 2) (x : DWord), exec .mgmtInspid s = .next t ∧ t.mgmt.inspStatus = 3 ∧ t.mgmt.inspData = 0 ∧ t.mem = s.mem ∧
        t.mgmt.inspResult = some (st, x) ∧ .inspectionComplete ∈ t.events ∧
        ((loWord v).toNat % 256 ≠ 0 → st = 1 ∧ x = 0 ∧ ∀ q, s.part? id = some q → ∃ q', t.part? id = some q' ∧
          q'.counters.refusedReads = q.counters.refusedReads + 1) ∧
        ((loWord v).toNat % 256 = 0 →
          (s.part? id = none ∨ 5 ≤ (loWord v).toNat / 256 → st = 2 ∧ x = 0) ∧
          ∀ q, s.part? id = some q → (q.ctxState ≠ 0 ∧ q.ctxState ≠ 4) → (loWord v).toNat / 256 < 5 → st = 0 ∧
            x = BitVec.ofNat 64 (match (loWord v).toNat / 256 with
              | 0 => q.ctxState.toNat
              | 1 => q.halls.length
              | 2 => s.grids.countP fun g => g.part == id && g.queued
              | 3 => s.teamsIn id .resident
              | _ => s.teamsIn id .saved))) ∧
    ∀ x, s.mgmt.inspResult = some x → ∃ t : State, exec .inspectionComplete s = .next t ∧ t.mgmt.inspStatus = x.1 ∧ t.mgmt.inspData = x.2 ∧
      t.parts = s.parts ∧ t.mem = s.mem

/-- R391, R393, R397, R398, R407 to R409, R416, R419, R421, R428: the operator creates and destroys partitions, assigns and frees key
slots, resets a partition (its groups end, its unstarted commands are cancelled, and once nothing is left its stores are
scrubbed, a record is kept, and the state is 0 again), flushes a range, once for each write of MIG_FLUSHGO, and turns the tracking of writes on
and off. CONFLICT for a number above 95 (log 27), a reset that is ignored, or refused with BUSY (log 29), and that no command of a destroyed
partition runs, with what becomes of the slots of one that resets (log 45), are the model's choice. -/
def Obligations.PartitionEvents : Prop :=
  ∀ s : State, s.inbox.auth = .operator →
    let v := s.inbox.value.toNat
    let id := s.mgmt.ctxSel.toNat
    let refused := fun (e : Instr) (st : BitVec 3) => exec e s = .next { s with mgmt := { s.mgmt with partStatus := st } }
    (createBits v = false → refused .partCreate 1 ∧ refused .partDestroy 1) ∧
    (createBits v = true → v % 4 = 3 ∨ 96 ≤ id ∨ s.part? id ≠ none → refused .partCreate 3) ∧
    (∀ tag, createBits v = true → tagOf (v % 4) = some tag → id < 96 → s.part? id = none →
      (tag ≠ .owner → (∃ q ∈ s.parts, q.cfg.tag = tag) ∨ v.testBit 8 = true → refused .partCreate 3) ∧
      (tag = .owner ∨ (∀ q ∈ s.parts, q.cfg.tag ≠ tag) ∧ v.testBit 8 = false →
        ∃ (t : State) (q : Part), exec .partCreate s = .next t ∧ t.parts = s.parts ++ [q] ∧ q.id = id ∧ q.halls = [] ∧ q.ctxState = 0 ∧ q.cfg.tag = tag ∧
          q.cfg.protect = v.testBit 8 ∧ q.objects = [] ∧ q.counters = Counters.fresh ∧ t.mgmt.partStatus = 0 ∧ t.mem = s.mem)) ∧
    (createBits v = true → s.part? id = none → refused .partDestroy 3) ∧
    (∀ q, createBits v = true → s.part? id = some q →
      (q.holdBusy = true → refused .partDestroy 2) ∧
      (q.holdBusy = false → (q.ctxState ≠ 0 ∧ q.ctxState ≠ 4) ∨ s.partRuns id = true → refused .partDestroy 3) ∧
      (q.holdBusy = false → q.ctxState = 0 ∨ q.ctxState = 4 → s.partRuns id = false → ∃ t : State, exec .partDestroy s = .next t ∧
        t.part? id = none ∧ t.mgmt.partStatus = 0 ∧ (∀ k ∈ t.keys, k.part ≠ some id) ∧ (∀ l ∈ t.homes.l2, l.part ≠ id) ∧
        ∀ h ∈ q.halls, ∀ x, t.halls[h]? = some x → x.l1 = [] ∧ x.pool = [])) ∧
    (∀ q, s.part? (v % 128) = some q →
      (q.ctxState = 5 → exec .mgmtReset s = .next s) ∧ (q.ctxState ≠ 5 → q.holdBusy = true → refused .mgmtReset 2) ∧
      (q.ctxState ≠ 5 → q.holdBusy = false → ∃ (t : State) (q' : Part), exec .mgmtReset s = .next t ∧ t.part? (v % 128) = some q' ∧ q'.ctxState = 5 ∧
        .resetComplete (v % 128) ∈ t.events ∧ (∀ c ∈ t.cmds, c.part = v % 128 → c.phase ≠ .queued) ∧
        (∀ g ∈ t.grids, g.part = v % 128 → g.queued = false) ∧ ∀ ti ∈ s.teamsOf (v % 128), ∀ team, s.teams[ti]? = some team →
          ∀ gi ∈ team.groups, ∀ g, t.groups[gi]? = some g → g.phase = .exited)) ∧
    (∀ p q x, s.part? p = some q → s.resetReady p = true → s.mgmt.resetDue.find? (fun x => x.1 == p) = some x →
      ∃ (t : State) (q' : Part) (rec_ : List Byte), exec (.resetComplete p) s = .next t ∧ t.part? p = some q' ∧ q'.ctxState = 0 ∧ q'.halls = q.halls ∧
        q'.objects = [] ∧ q'.nextObj = q.nextObj ∧ q'.counters = q.counters ∧ q'.sched.foyerState = 0 ∧ t.mgmt.resetDone = s.mgmt.resetDone + 1 ∧
        (∀ k ∈ t.keys, k.part = some p → k.state = 0 ∧ k.material = []) ∧ q'.own.resetSerial = q.own.resetSerial + 1 ∧
        q'.own.resetRecords = (rec_ :: q.own.resetRecords).take 16 ∧ rec_.length = 576 ∧ rec_.take 4 = [0x59, 0x52, 0x53, 0x54]) ∧
    (∀ k, s.keys[v % 128]? = some k →
      let to_ := v / 256 % 128
      (s.part? to_ = none ∨ (∃ p, k.part = some p ∧ p ≠ to_) → refused .ccSlotassign 3) ∧
      (s.part? to_ ≠ none → k.part = none ∨ k.part = some to_ → ∃ t : State, exec .ccSlotassign s = .next t ∧ t.mgmt.partStatus = 0 ∧
        t.keys[v % 128]? = some { k with part := some to_ } ∧ ∀ j, j ≠ v % 128 → t.keys[j]? = s.keys[j]?) ∧
      ((∃ p, k.part = some p ∧ (p ≠ to_ ∨ ∃ q, s.part? p = some q ∧ q.ctxState = 5)) ∨ k.state ≠ 0 → refused .ccSlotfree 3) ∧
      (k.part = none ∨ k.part = some to_ ∧ (∀ q, s.part? to_ = some q → q.ctxState ≠ 5) → k.state = 0 → ∃ t : State, exec .ccSlotfree s = .next t ∧ t.mgmt.partStatus = 0 ∧
        t.keys[v % 128]? = some KeySlot.reset ∧ ∀ j, j ≠ v % 128 → t.keys[j]? = s.keys[j]?)) ∧
    (s.part? id = none → refused .migFlushgo 3 ∧ refused .migTrackOn 3 ∧ refused .migTrackOff 3) ∧
    (∀ q, s.part? id = some q →
      (∃ (t : State) (q' : Part), exec .migFlushgo s = .next t ∧ t.part? id = some q' ∧ q'.mig.flushing = q.mig.flushing + 1 ∧ .migFlushComplete id ∈ t.events ∧
        t.mgmt.partStatus = 0 ∧ t.mem = s.mem) ∧
      ∀ on, ∃ (t : State) (q' : Part), exec (if on then .migTrackOn else .migTrackOff) s = .next t ∧ t.part? id = some q' ∧ q'.mig.track = on ∧
        q'.mig.bmBase = q.mig.bmBase ∧ t.mgmt.partStatus = 0 ∧ t.mem = s.mem) ∧
    ∀ p q, s.part? p = some q → s.flushReady q = true → ∃ (t : State) (q' : Part), exec (.migFlushComplete p) s = .next t ∧ t.part? p = some q' ∧
      q'.mig.flushing + 1 = q.mig.flushing ∧ (q'.mig.flushing ≠ 0 → .migFlushComplete p ∈ t.events) ∧ q'.mig.flushDone = q.mig.flushDone + 1 ∧ (∀ l ∈ t.homes.l2, s.flushes q (128 * l.line) 128 = false) ∧
      (∀ l ∈ t.homes.msc, s.flushes q (128 * l.line) 128 = false) ∧
      (s.plainMemory → s.mem.wf = true → s.homes.sysMem.wf = true → t.mem = s.mem ∧ t.hist = s.hist ∧
        ∀ l ∈ s.homes.l2, s.flushes q (128 * l.line) 128 = true → ∀ i, i < 4 → l.dirty.getLsbD i = true →
          t.homes.sysMem.readN (128 * l.line + 32 * i) 32 = s.mem.readN (128 * l.line + 32 * i) 32)

/-- R440 to R443, R445, R446, R448 to R450: each millisecond the account is refilled to at most ten refills and debited; each partition
is charged, is granted no more than it asks for and together no more than there is, and moves its operating point by at most one
step. The planner reads a hall's monitors; a re-plan sets each operating point's voltage to the lowest that keeps every guard band, and
retires a hall whose worst delay margin is negative; a spare of the die takes the number of a
retired hall that is empty, or the number is marked failed. The owner turns recording and replay on and off. The model's choices: the order of
refill, cap and debit, and what the operating point compares (log 31); a negative margin that retires, the search for a voltage, and the spare
that is taken (log 32); the rounding (log 55). -/
def Obligations.EnergyEvents : Prop :=
  ∀ s : State, (∀ p ∈ s.parts, s.part? p.id = some p) →
    (let refill := s.power.cap.toNat * 1000
    let r := s.inbox.reading
    let total := (((r.halls.map HallReading.total).sum) + r.sensors) / 1000000
    let charged := fun q : Part => chargedTo r q
    let unattributed := total - (s.parts.map charged).sum
    ∃ (t : State) (grants : List Nat), exec .energyRefill s = .next t ∧ t.mem = s.mem ∧
      t.power.balance = min (s.power.balance + refill) (10 * (refill : Int)) - total ∧
      t.power.unattr = s.power.unattr + BitVec.ofNat 64 unattributed ∧ grants.length = s.parts.length ∧ t.parts.length = s.parts.length ∧
      (grants.sum : Int) ≤ max 0 ((refill : Int) - unattributed + min t.power.balance 0) ∧
      ∀ i q, s.parts[i]? = some q → ∃ q', t.parts[i]? = some q' ∧ q'.energy.last = charged q ∧
        q'.counters.consumed = q.counters.consumed + BitVec.ofNat 64 (charged q) ∧ q'.energy.spent = 0 ∧
        q'.energy.allow = BitVec.ofNat 32 (grants.getD i 0 - q.energy.owed) ∧ q'.energy.owed = q.energy.owed - grants.getD i 0 ∧
        q'.counters.granted = q.counters.granted + BitVec.ofNat 64 (grants.getD i 0) ∧
        grants.getD i 0 ≤ charged q + s.waitingEnergy q ∧
        q'.energy.vfPoint = if q.energy.waited = true ∨ s.energyWaits q = true ∨ s.power.balance < 0 then
            (if q.energy.vfPoint ≤ q.energy.vfMin then q.energy.vfPoint else q.energy.vfPoint - 1)
          else if 4 * q.energy.spent < 3 * q.energy.allow.toNat ∧ q.energy.vfPoint ≠ 7 then q.energy.vfPoint + 1 else q.energy.vfPoint) ∧
    (let n := s.inbox.index
    let m := worstOf s.inbox.delays
    ∀ h, s.halls[n]? = some h →
      let due := s.inbox.flag = true ∨ (s.power.drift.toNat : Int) < h.plannedMargin.toInt - m.toInt
      ∃ (t : State) (x : Hall), exec .ageReplan s = .next t ∧ t.halls[n]? = some x ∧ x.margin = m ∧ x.phys = h.phys ∧
        x.delays = s.inbox.delays ∧ x.srams = s.inbox.srams ∧ (∀ y ∈ x.delays.toList, m.toInt ≤ y.toInt) ∧ m ∈ x.delays.toList ∧
        (¬ due → x.plans = h.plans ∧ x.retiring = h.retiring ∧ x.plannedMargin = h.plannedMargin ∧ x.volts = h.volts) ∧
        (due → x.plans = h.plans + 1 ∧ x.plannedMargin = m ∧
          (∀ k : Fin 8, ∃ v, x.volts[k] = BitVec.ofNat 32 v ∧ (∀ w, w < v → x.keepsBands k.val w = false) ∧
            (x.keepsBands k.val v = true ∧ v < Config.maxVolt ∨ v = Config.maxVolt)) ∧
          (0 ≤ m.toInt → x.retiring = h.retiring) ∧
          (m.toInt < 0 → h.retiring = false → h.failed = false → x.retiring = true ∧ t.power.retired = s.power.retired + 1 ∧
            .spareSubstitute n ∈ t.events ∧ ∀ (ti : Nat) (team : Team), s.teams[ti]? = some team → team.phase = .resident → team.hall = n →
              ∃ team' : Team, t.teams[ti]? = some team' ∧ team'.requested = true))) ∧
    (∀ n h, s.halls[n]? = some h → h.retiring = true → s.hallEmpty n = true →
      let spares := s.power.spares.toList.getD (h.phys / 80) []
      ∃ (t : State) (x : Hall), exec (.spareSubstitute n) s = .next t ∧ t.halls[n]? = some x ∧ x.retiring = false ∧ t.mem = s.mem ∧
        (spares = [] → x.failed = true ∧ x.phys = h.phys ∧ t.power.failed = s.power.failed + 1) ∧
        (spares ≠ [] → x.failed = h.failed ∧ x.phys ∈ spares ∧ x.l1 = [] ∧ t.power.failed = s.power.failed ∧
          t.power.spares = s.power.spares.setIfInBounds (h.phys / 80) (spares.erase x.phys))) ∧
    ∀ p q, s.inbox.part = some p → s.part? p = some q → s.inbox.auth = .owner → q.vfOpen s.inbox.onStream = true →
      let ends := fun (e : Instr) (ctl status : BitVec 2) (keeps : Prop) => ∃ (t : State) (q' : Part), exec e s = .next t ∧ t.part? p = some q' ∧ t.mem = s.mem ∧
        q'.replay.ctl = ctl ∧ (keeps → q'.replay = q.replay) ∧ (¬ keeps → q'.replay.status = status) ∧ q'.replay.logHead = q.replay.logHead
      ends .replayRecord 1 1 (q.replay.ctl = 1) ∧ ends .replayRerun 2 1 (q.replay.ctl = 2) ∧ ends .replayOff 0 0 False

/-! ### Sessions, keys and holds -/

/-- R426, R427, R429, R430, R439: the messages of an owner's session on slots of its partition. KEY_SET fills an EMPTY or USED slot,
and records the owner identity with the first memory slot; KEY_REVOKE erases a slot at once, a memory slot in two phases, and
answers BUSY in context state 1; KEY_QUERY tells kind, state and key id; KEY_PROG, K_SET_GO and K_SET_STOP program an IDE slot and
move the stream; a slot of another partition answers NO_SLOT; GET_MEASUREMENTS answers signed blocks. KIND for the kinds 0, 1 and above 4, BUSY for
a slot that is REVOKING, the statuses of KEY_PROG, that an erase waits for engine writes that the key would seal, and what a lost key leaves are
the model's choice (log 28). -/
def Obligations.KeyEvents : Prop :=
  ∀ s : State,
    let n := s.inbox.index
    let answers := fun (e : Instr) (st : Nat) (data : List Byte) => exec e s = .next { s with reply := some { status := st, data := data } }
    let replied := fun (t : State) (st : Nat) => ∃ r, t.reply = some r ∧ r.status = st
    (∃ (t : State) (r : Reply), exec .getMeasurements s = .next t ∧ t = { s with reply := some r } ∧ r.status = 0 ∧
      r.data = s.blocks ++ Config.deviceSign (s.inbox.nonce ++ s.blocks) ∧
      (s.inbox.part = none → s.blocks = Config.firmwareBlock 1 ++ Config.firmwareBlock 2 ++ Config.firmwareBlock 3)) ∧
    (s.sessionPart = none → ∀ e ∈ [Instr.keySet, .keyRevoke, .keyQuery, .keyProg, .kSetGo, .kSetStop], exec e s = .next s) ∧
    (∀ slot k, s.keys[slot]? = some k → k.state = 4 →
      ((∃ c ∈ s.cmds, k.part = some c.part ∧ c.phase = .writing) → exec (.revokeErase slot) s = .next s) ∧
      ((∀ c ∈ s.cmds, k.part = some c.part → c.phase ≠ .writing) → ∃ (t : State) (k' : KeySlot), exec (.revokeErase slot) s = .next t ∧ replied t 0 ∧
      t.keys[slot]? = some k' ∧ k'.state = 0 ∧ k'.material = [] ∧ k'.part = k.part ∧ (∀ q ∈ t.parts, q.cc.stream ≠ some slot) ∧
      ∀ x ∈ t.homes.seals, x.material ≠ k.material)) ∧
    ∀ p, s.sessionPart = some p →
      (∀ e ∈ [Instr.keySet, .keyRevoke, .keyQuery, .keyProg, .kSetGo, .kSetStop],
        (∀ k, s.keys[n]? = some k → k.part ≠ some p.id) → answers e 1 []) ∧
      ∀ k, s.keys[n]? = some k → k.part = some p.id →
        let filled := fun (e : Instr) (kind : BitVec 3) => ∃ t : State, exec e s = .next t ∧ t.mem = s.mem ∧ replied t 0 ∧
          t.keys[n]? = some { k with kind := kind, state := 1, keyId := s.inbox.keyId, material := s.inbox.bytes, used := false }
        let kind := s.inbox.kind
        (k.state ≠ 0 ∧ k.state ≠ 2 → answers .keySet 2 []) ∧
        (k.state = 0 ∨ k.state = 2 →
          (kind = 0 ∨ kind = 1 ∨ 4 < kind.toNat → answers .keySet 3 []) ∧
          (kind = 3 ∨ kind = 4 ∨ kind = 2 ∧ (p.cfg.protect = false ∨ s.otherMemory p.id n = false) → filled .keySet kind) ∧
          (kind = 2 → p.cfg.protect = false → s.part? p.id = some p → ∃ (t : State) (q : Part), exec .keySet s = .next t ∧ t.part? p.id = some q ∧
            q.cc.identity = (if p.cc.identity = none then p.cc.session.map sha512 else p.cc.identity))) ∧
        (k.kind = 2 → p.ctxState = 1 ∨ k.state = 4 → answers .keyRevoke 2 []) ∧
        (k.kind = 2 → p.ctxState ≠ 1 → k.state ≠ 4 → ∃ t : State, exec .keyRevoke s = .next t ∧ t.keys[n]? = some { k with state := 4 } ∧
          .revokeErase n ∈ t.events ∧ ∀ l ∈ t.homes.l2, ¬ (p.cfg.protect = true ∧ l.part = p.id ∧ l.way < 12)) ∧
        (k.kind ≠ 2 → ∃ (t : State) (k' : KeySlot), exec .keyRevoke s = .next t ∧ replied t 0 ∧ t.keys[n]? = some k' ∧ k'.state = 0 ∧ k'.material = [] ∧
          t.mem = s.mem ∧ ∀ q ∈ t.parts, q.cc.stream ≠ some n) ∧
        answers .keyQuery 0 (natLe 1 k.kind.toNat ++ natLe 1 k.state.toNat ++ natLe 8 k.keyId.toNat) ∧
        (k.state = 0 → filled .keyProg 1) ∧
        (k.state ≠ 0 → k.kind ≠ 1 ∨ k.state ≠ 1 ∨ p.cc.stream = some n → answers .keyProg 2 []) ∧
        (k.kind = 1 → k.state = 1 → ∃ (t : State), exec .kSetGo s = .next t ∧ replied t 0 ∧ ∀ q, t.part? p.id = some q → q.cc.stream = some n) ∧
        (k.kind ≠ 1 ∨ k.state ≠ 1 → answers .kSetGo 2 []) ∧
        (∃ (t : State), exec .kSetStop s = .next t ∧ replied t 0 ∧ ((∀ q, s.part? p.id = some q → q = p) → ∀ q, t.part? p.id = some q → q.cc.stream ≠ some n))

/-- R425, R435 to R438: sessions and holds. A missed heartbeat holds a protected partition, and ends an unprotected one's session; a
held partition's teams are asked to save, and once none is resident and its writes are performed its slots are suspended and its state is 3; the owner's chain,
and no other, resumes it to the state it had; the hold time's end is shown. That a heartbeat timeout needs a session, and when a hold is done
(log 29), and that a KEY_EXCHANGE which a hold refuses has ended the old session (log 28), are the model's choice. -/
def Obligations.HoldEvents : Prop :=
  ∀ s : State,
    let answers := fun (e : Instr) (st : Nat) (data : List Byte) => exec e s = .next { s with reply := some { status := st, data := data } }
    (s.inbox.part = none → (∃ t : State, exec .keyExchange s = .next t ∧ t.mgmt.operatorSession = some s.inbox.chain ∧ t.parts = s.parts) ∧
      (s.mgmt.operatorSession ≠ none → answers .heartbeat 0 []) ∧ (s.mgmt.operatorSession = none → exec .heartbeat s = .next s)) ∧
    (∀ id p, s.inbox.part = some id → s.part? id = some p →
      let owner := p.cc.identity = some (sha512 s.inbox.chain)
      (p.cc.session ≠ none → answers .heartbeat 0 []) ∧ (p.cc.session = none → exec .heartbeat s = .next s) ∧
      (p.cc.holdState = 0 ∨ owner → ∃ (t : State) (q : Part) (r : Reply), exec .keyExchange s = .next t ∧ t.part? id = some q ∧ t.mem = s.mem ∧
        q.cc.session = some s.inbox.chain ∧ q.own.nonce = s.inbox.nonce ∧ t.reply = some r ∧ r.status = 0 ∧ r.data = natLe 1 p.cc.hbPeriod.toNat ∧
        (p.cc.holdState = 1 → q.cc.holdState = 1 ∧ q.cc.resumeDue = true ∧ q.ctxState = p.ctxState) ∧
        (p.cc.holdState ≠ 0 → p.cc.holdState ≠ 1 → q.cc.holdState = 0 ∧ q.cc.holdCause = 0 ∧ q.ctxState = p.cc.before ∧
          ∀ (i : Nat) (k : KeySlot), s.keys[i]? = some k → k.part = some id → k.state = 3 → ∃ k' : KeySlot, t.keys[i]? = some k' ∧ k'.state = if k.used then 2 else 1)) ∧
      (p.cc.holdState ≠ 0 → ¬ owner → ∃ (t : State) (q : Part), exec .keyExchange s = .next t ∧ t.reply = some { status := 1, data := [] } ∧
        t.part? id = some q ∧ q.cc.session = none ∧ q.cc.holdState = p.cc.holdState ∧ q.cc.identity = p.cc.identity ∧ q.ctxState = p.ctxState ∧
        t.keys = s.keys ∧ t.mem = s.mem) ∧
      (p.cc.session ≠ none → p.cc.hbPeriod ≠ 0 →
        (p.cfg.protect = true → p.ctxState = 1 ∨ p.ctxState = 2 → p.cc.holdState = 0 → ∃ (t : State) (q : Part), exec .heartbeatTimeout s = .next t ∧
          t.part? id = some q ∧ q.cc.holdState = 1 ∧ q.cc.holdCause = 1 ∧ q.cc.before = p.ctxState ∧ q.ctxState = p.ctxState ∧ .holdComplete id ∈ t.events) ∧
        (p.cfg.protect = true → p.cc.holdState ≠ 0 → exec .heartbeatTimeout s = .next s) ∧
        (p.cfg.protect = false → ∃ (t : State) (q : Part), exec .heartbeatTimeout s = .next t ∧ t.part? id = some q ∧ q.cc.session = none ∧
          q.ctxState = p.ctxState ∧ ∀ k ∈ t.keys, k.part = some id → k.state ≠ 1 ∧ k.state ≠ 2)) ∧
      (p.cc.session = none ∨ p.cc.hbPeriod = 0 → exec .heartbeatTimeout s = .next s)) ∧
    (∀ id p, s.part? id = some p → p.cc.holdState = 1 →
      (s.residentTeams id = [] → s.writesDone id = false → ∃ t : State, exec (.holdComplete id) s = .next t ∧ t = { s with events := t.events } ∧
        .holdComplete id ∈ t.events) ∧
      (s.residentTeams id = [] → s.writesDone id = true → p.cc.resumeDue = false → ∃ (t : State) (q : Part), exec (.holdComplete id) s = .next t ∧ t.part? id = some q ∧
        q.ctxState = 3 ∧ q.cc.holdState = 2 ∧ q.cc.holdCount = p.cc.holdCount + 1 ∧ q.cc.stream = none ∧
        (∀ k ∈ t.keys, k.part = some id → k.state ≠ 1 ∧ k.state ≠ 2) ∧ ∀ l ∈ t.homes.l2, ¬ (p.cfg.protect = true ∧ l.part = id ∧ l.way < 12)) ∧
      (s.residentTeams id ≠ [] → ∃ t : State, exec (.holdComplete id) s = .next t ∧ .holdComplete id ∈ t.events ∧
        ∀ (ti : Nat) (team : Team), s.teams[ti]? = some team → team.part = id → team.phase = .resident →
          ∃ team' : Team, t.teams[ti]? = some team' ∧ team'.requested = true)) ∧
    ∀ id p, s.part? id = some p → ∃ (t : State) (q : Part), exec (.holdTimeExpiry id) s = .next t ∧ t.part? id = some q ∧ t.mem = s.mem ∧
      q.cc.holdState = (if p.cc.holdState = 2 then 3 else p.cc.holdState) ∧ q.ctxState = p.ctxState

/-! ### The whole machine -/

/-- R96, R97, R153: the checks of a word, in their order: a word that is no instruction here lands; rights raise RIGHTS, whose detail
is the tag (0 operator, 1 owner, 2 auditor) or 1 for a control register that SETC may not write; a register or handle beyond its
bound raises BAD_HANDLE with the value of a field that is; an invalid latch raises LATCH_LOST with its number (an APPEND between two
of its tiles has read its latches).

R10, R191, R218, R272, R304, R348, R368, R401 to R403: who may execute which word. The rights of a word depend on the tag of the
context's partition alone, and for LAUNCH on its being the foyer. -/
def Obligations.WordChecks : Prop :=
  (∀ (s : State) (c : Cx) (i : Instr), s.cx? = some c → (encode i).isSome = true → i.hintKind = none →
     let raises := fun (cause : Cause) (d : Word) => exec i s = .next (s.spend.trap c (wordOfInstr i) cause d 0 0)
     (c.classOk i = false → exec i s = .next (s.land c (wordOfInstr i))) ∧
     (c.classOk i = true →
       (∀ d, c.refused i = some d → raises .rights d) ∧
       (c.refused i = none → c.hs.rep = none →
         (c.badHandles i i ≠ [] → ∃ d ∈ c.badHandles i i, raises .badHandle d) ∧
         (c.badHandles i i = [] → c.e.appended = [] → c.lostLatches i.uses ≠ [] → ∃ d ∈ c.lostLatches i.uses, raises .latchLost d) ∧
         (c.check i = .go → c.badHandles i i = [] ∧ (c.e.appended = [] → c.lostLatches i.uses = []))))) ∧
  (∀ (c : Cx) (f : MmaForm) (z : BitVec 2) (t k : BitVec 8) (v : VReg) (row : BitVec 5) (e : BitVec 5) (a b d : SReg),
     let tag := c.p.cfg.tag
     let allowed := fun (is : List Instr) (ok : Prop) => ∀ i ∈ is, c.refused i = none ↔ ok
     allowed [.mma f, .zero z t, .drainSlot z, .fold z, .accrd z v row, .accwr z v row, .accld t a, .accst t a, .galst z a, .braid e k a,
       .cmpr e k a, .dcmp e k a, .lquery d a] (tag = .owner) ∧
     allowed [.stair k a, .stairg k a, .hoist e k a] (tag ≠ .auditor) ∧
     allowed [.launch d a] (tag = .owner ∧ c.t.foyer = true) ∧
     allowed [.preempt d a b, .pcancel d a, .place d a b, .exportCtx d a, .importCtx d a] (tag = .operator) ∧
     allowed [.seal d a] (tag ≠ .operator) ∧
     allowed [.publish d a b, .bindSlot d a b, .unbind d a b, .cntrd d a, .exit, .yield, .pyield, .tret, .waitw, .kquery k a, .ret a, .region] True)

/-- R14, R408, R427, R428, R440, R444, R447: the package after reset. No partition, team or group exists, so that nothing runs; halls
0 to 303 name the first 76 positions of each die, with four spares a die; no key slot holds a key; the cap is 2,800 W and the
balance ten refills of it; memory is in its canonical form and lists no byte. -/
def Obligations.ResetState : Prop :=
  let s := State.reset
  s.parts = [] ∧ s.teams = [] ∧ s.groups = [] ∧ s.grids = [] ∧ s.cmds = [] ∧ s.events = [] ∧ s.mem = [] ∧ s.mem.wf = true ∧ s.hist = [] ∧
    s.homes.l2 = [] ∧ s.homes.msc = [] ∧ s.homes.sysMem = [] ∧ s.homes.seals = [] ∧
    s.homes.sysMem.wf = true ∧ s.homes.backing.wf = true ∧
    s.halls.length = 304 ∧ (s.halls[0]?).map Hall.phys = some 0 ∧ (s.halls[75]?).map Hall.phys = some 75 ∧ (s.halls[76]?).map Hall.phys = some 80 ∧
    (s.halls[303]?).map Hall.phys = some 315 ∧ s.power.spares[3] = [316, 317, 318, 319] ∧ s.keys.length = 128 ∧ (∀ k ∈ s.keys, k.kind = 0 ∧ k.state = 0 ∧ k.part = none) ∧
    s.mgmt.ctxSel = 0 ∧ s.mgmt.parkQSize = 16 ∧ s.mgmt.inspStatus = 0 ∧ s.power.cap = 2800 ∧ s.power.balance = 28000000 ∧ s.power.drift = 5 ∧
    step s = .fault .idle

/-- R4, R58, R96, R119, R131, R167, R381 (the choice among the moves is the model's, log 8): one step. First the device does what it
does at once. An event that is chosen happens; a chosen strand executes the instruction its word decodes to; a word that is no
instruction lands; outside the code region ACCESS is raised; with no move left the machine stops as idle. -/
def Obligations.StepRuns : Prop :=
  ∀ (s : State),
    let u := s.settle
    (u.nextMove = none → step s = .fault .idle) ∧
    (∀ e, u.nextMove = some (.event e) → step s = exec e (u.toMove (.event e))) ∧
    ∀ r c, u.nextMove = some (.word r) → (u.toMove (.word r)).cx? = some c →
      (c.p.codeWord c.e.pc = none → step s = .next ((u.toMove (.word r)).trap c 0 .access 0 c.e.pc.bits 0)) ∧
      ∀ w, c.p.codeWord c.e.pc = some w →
        (∀ i, decode w = .ok i → c.t.hdr.compat = false → step s = exec i (u.toMove (.word r))) ∧
        (∀ i, decode w = .ok i → c.t.hdr.compat = true →
          step s = exec (if i.compatLands then .landing w else i) (u.toMove (.word r))) ∧
        ∀ e, decode w = .error e → step s = exec (.landing w) (u.toMove (.word r))

/-- A context answers every word with a next state, and an event always happens: no instruction stops the machine. -/
def Obligations.NothingStops : Prop :=
  ∀ (i : Instr) (s : State),
    (s.cx? ≠ none → ∃ t, exec i s = .next t) ∧ (encode i = none → (∀ w, i ≠ .landing w) → ∃ t, exec i s = .next t) ∧ (∀ r, exec i s ≠ .refused r) ∧
      (∀ f, exec i s = .fault f → f = .noGroup ∧ s.cx? = none)

/-! ### Words -/

/-- R58 to R95: a few words, written out from the tables of their fields, and what they decode to. -/
def Obligations.DecodedWords : Prop :=
  decode 0x04030102 = .ok (.iadd { gd := 0, wb := false, d := 3, a := .v 1, b := .v 2 }) ∧
  decode 0xA4180040 = .ok (.sli 6 64) ∧
  decode 0xC40000C0 = .ok (.tbset 0 0 6) ∧
  decode 0xB4808818 = .ok (.st { gd := 0, size := .word, d := 2, tb := 1, x := .v 3, imm := 0 }) ∧
  decode 0x780AF504 = .ok (.qpack .e4m3 { gd := 0, wb := false, d := 10, a := .v 4 }) ∧
  decode 0xAD400014 = .ok (.getc .cause 20) ∧
  decode 0xCC011000 = .ok (.zero 0 17) ∧
  decode 0xD4810600 = .ok (.exportCtx 4 6) ∧
  decode 0xAC000000 = .ok .exit ∧
  decode 0xFCC40000 = .ok (.modh { rnd := 0, sat := true, nt := false, bf := false, scope := 0, acq := false, rel := false }) ∧
  decode 0xB0E205A0 = .ok (.sld 8 0 (.special .zero) 0) ∧
  decode 0xAC900061 = .ok (.kinit 0 (.const 0x21))

/-- R96: words that are no instruction. Major 0x00 and majors 0x36 to 0x3E, and the codes that no table of a family defines, are
undefined; a hint of a kind that none is, an odd pair, and a reserved field that is not zero are invalid combinations.

R58 to R96: no bit of a word is dropped: a word that decodes is the word of a well-formed instruction. -/
def Obligations.RefusedWords : Prop :=
  (∀ w : Word,
     let f := fun (lo n : Nat) => (w.extractLsb' lo n).toNat
     (f 26 6 = 0 ∨ 0x36 ≤ f 26 6 ∧ f 26 6 ≤ 0x3E → decode w = .error .undefinedCode) ∧
     (f 26 6 = 0x1D → 0x0A ≤ f 8 8 ∧ f 8 8 ≤ 0x0F ∨ f 8 8 = 0x1F ∨ 0x24 ≤ f 8 8 ∧ f 8 8 ≤ 0x2F ∨ 0x32 ≤ f 8 8 → decode w = .error .undefinedCode) ∧
     (f 26 6 = 0x1E → f 12 4 = f 8 4 ∨ f 12 4 = 0xE ∨ f 12 4 ≠ 0xF ∧ 0xE ≤ f 8 4 → decode w = .error .undefinedCode) ∧
     (f 26 6 = 0x25 → 8 ≤ f 12 4 → decode w = .error .undefinedCode) ∧
     (f 26 6 = 0x28 → 0x1A ≤ f 20 6 → f 20 6 ≠ 0x20 → decode w = .error .undefinedCode) ∧
     (f 26 6 = 0x29 → f 24 2 = 3 → decode w = .error .undefinedCode) ∧
     (f 26 6 = 0x2B → 0x18 ≤ f 20 6 → decode w = .error .undefinedCode) ∧
     (f 26 6 = 0x30 → 0x0D ≤ f 19 5 → decode w = .error .undefinedCode) ∧
     (f 26 6 = 0x31 → 0x0A ≤ f 22 4 → decode w = .error .undefinedCode) ∧
     (f 26 6 = 0x32 → 8 ≤ f 22 4 → decode w = .error .undefinedCode) ∧
     (f 26 6 = 0x33 → 8 ≤ f 22 4 → decode w = .error .undefinedCode) ∧
     (f 26 6 = 0x34 → 7 ≤ f 22 4 → decode w = .error .undefinedCode) ∧
     (f 26 6 = 0x35 → 0x0C ≤ f 20 6 → decode w = .error .undefinedCode) ∧
     (f 26 6 = 0x3F → 6 ≤ f 22 4 → decode w = .error .invalidCombination) ∧
     (f 26 6 = 0x35 → f 0 2 ≠ 0 → f 20 6 ≤ 0x0B → decode w = .error .invalidCombination) ∧
     (f 26 6 = 0x18 → f 16 7 % 2 = 1 → decode w = .error .invalidCombination) ∧
     (f 26 6 = 0x2B → f 20 6 = 0 → f 0 20 ≠ 0 → decode w = .error .invalidCombination)) ∧
  (∀ (w : Word) (i : Instr), decode w = .ok i → i.wf = true ∧ encode i = some w ∧ decodeTableWord 32 w.toNat = some i)

/-- R58 to R95: decoding the word of a well-formed instruction gives the instruction back, with every operand, at every value. UNBIND
that releases a hold (R134) is a word of UNBIND. -/
def Obligations.EncodingRoundTrip : Prop :=
  ∀ (i : Instr) (w : Word), i.wf = true → encode i = some w →
    match i with
    | .unbindReleaseHold d a b => decode w = .ok (.unbind d a b)
    | _ => decode w = .ok i

/-! ### Memory -/

/-- R6, R46, R48: bytes of memory (its canonical form is the model's, log 3). A read after a write of the same byte gives the value written,
and every other byte stays; a write keeps the canonical form, in which memories that read alike are equal; bytes written are
read back in their order. -/
def Obligations.MemoryLaws : Prop :=
  ∀ m : Mem, m.wf = true →
    (∀ a b x, (m.write a x).wf = true ∧ (m.write a x).read b = if b = a then x else m.read b) ∧
    (∀ n : Mem, n.wf = true → (∀ a, m.read a = n.read a) → m = n) ∧
    (∀ a bs, (m.writeN a bs).wf = true ∧ (m.writeN a bs).readN a bs.length = bs) ∧
    (∀ a bs b, b < a ∨ a + bs.length ≤ b → (m.writeN a bs).read b = m.read b) ∧
    (∀ a n x, (m.writeN a (natLe n x)).num a n = x % 256 ^ n) ∧
    (∀ a n b, (m.clear a n).wf = true ∧ (m.clear a n).read b = if a ≤ b ∧ b < a + n then 0 else m.read b)

/-- R38, R252: every step keeps each memory of the device in its canonical form (the model's, log 3): what loads see, what the system
homes hold, and what stands behind the memory-side caches. -/
def Obligations.MemoryStaysCanonical : Prop :=
  ∀ s t : State, s.mem.wf = true → s.homes.sysMem.wf = true → s.homes.backing.wf = true → step s = .next t →
    t.mem.wf = true ∧ t.homes.sysMem.wf = true ∧ t.homes.backing.wf = true

/-! ### Beats of the matrix engine -/

/-- R200, R204, R327, R333 to R336, R353: a float beat whose blocks pass their checks. Each cell adds the exact sum of its products to its
accumulator and rounds once (a 2:4 beat once for each half); a void block's sum is +0.0, and a block's scale multiplies its exact sum; a product
of zero and infinity and a sum of opposite infinities give the canonical NaN with invalid, any other NaN gives it without. The flags of all cells
join FPFLAGS; an enabled one raises ARITH, and nothing changes. `once` is one rounding, of products formed exactly with the flags of R212's
sums.

R338 to R341: one carry of a cell. With an entry, its count takes the carry; a count that comes to 0 frees its entry, and one that
would pass 127 is folded into the tile first. Without one, the slot's reserve gives it, or a pool with room; a pool of size 0 leaves the carry to the
tile. Under TRAP, a beat whose new entries neither reserve nor pool can give raises CARRY_FULL and changes nothing. -/
def Obligations.BeatResults : Prop :=
  (∀ (s : State) (w : Who) (ch : Chain) (tile k : Nat) (t : Team), mmaKind ch.form.fmt ≠ .integer → ch.badBlock k = none →
     s.teams[w.g.team]? = some t → t.slot ch.form.slot.toNat = w.t.slot ch.form.slot.toNat →
     let a := ch.operandBytes k 0
     let b := ch.operandBytes k 1
     let x := ch.operandBytes k 2
     a.length = aBytes ch.form.fmt → b.length = bBytes ch.form.fmt →
     let acc : Fmt := if ch.form.fmt = .fp64 then .fp64 else .fp32
     let mode := RMode.ofCode ch.rnd
     let once := fun (r : Nat) (c : Ext) (pairs : List (Pre × Ext)) (scale : Int) =>
       let prods := pairs.map fun p => (((p.1.1.mul p.2).1, (p.1.1.mul p.2).2 ||| p.1.2) : Pre)
       let vals := prods.map Prod.fst ++ [c]
       if prods.any (fun y => y.2 != 0) || (vals.contains (.inf false) && vals.contains (.inf true)) then
         ({ code := acc.nanCode, flags := flagInvalid } : Rounded)
       else if vals.contains .nan then { code := acc.nanCode, flags := 0 }
       else if vals.contains (.inf false) then acc.round mode r (.inf false)
       else if vals.contains (.inf true) then acc.round mode r (.inf true)
       else acc.round mode r (match prods.map Prod.fst with
         | [] => c
         | y :: ys => (Ext.add (mode == RMode.rdn) ((ys.foldl (fun z v => (Ext.add (mode == RMode.rdn) z v).1) y).scale scale) c).1)
     let plain := fun (f : Fmt) (size depth i j : Nat) => [((List.range depth).map fun e =>
       (((f.decode (fieldAt a (i * (size * depth) + e * size) size), 0) : Pre), f.decode (fieldAt b (j * (size * depth) + e * size) size)), (0 : Int))]
     let block := fun (p : List Byte) (elems : List Pre) (q : List Byte) =>
       if blockFmt p = 0 ∨ blockFmt q = 0 then ([(((.zero false, 0) : Pre), (Ext.fin false 1 0))], (0 : Int))
       else (elems.zip (blockElems q), (fieldAt p 1 1 : Int) - 127 + ((fieldAt q 1 1 : Int) - 127))
     let halves := fun i j : Nat => match ch.form.fmt with
       | .fp64 => plain .fp64 8 2 i j
       | .fp32 => plain .fp32 4 8 i j
       | .fp16 => plain .fp16 2 32 i j
       | .bf16 => plain .bf16 2 32 i j
       | .blk => [block (bytesAt a (64 * i) 64) ((blockElems (bytesAt a (64 * i) 64)).map fun y => (y, 0)) (bytesAt b (64 * j) 64)]
       | .blk24 =>
         let p := bytesAt a (64 * i) 64
         let l := logical24 (mode == RMode.rdn) p (bytesAt x (64 * (i / 2)) 64) (i % 2)
         [block p (l.take (l.length / 2)) (bytesAt b (128 * j) 64), block p (l.drop (l.length / 2)) (bytesAt b (128 * j + 64) 64)]
       | _ => []
     let old := fun n : Nat => ((w.t.slot ch.form.slot.toNat).cells.toList.getD n 0).toNat
     let cell := fun n : Nat => ((halves (n / 32) (n % 32)).zipIdx.foldl (fun (r : Rounded) (h : (List (Pre × Ext) × Int) × Nat) =>
       let y := once (srbits ch.seed ch.retire (n % 32) (32 * (2 * k + h.2) + n / 32)) (acc.decode r.code) h.1.1 h.1.2
       { code := y.code, flags := r.flags ||| y.flags }) { code := old n, flags := 0 })
     let flags := (List.range 1024).foldl (fun fl n => fl ||| (cell n).flags) 0
     (flags &&& ch.trapEn ≠ 0 → s.beatStep w ch tile k = .trap .arith (flags.zeroExtend 32) 0) ∧
     (flags &&& ch.trapEn = 0 → ∃ u team, s.beatStep w ch tile k = .done u ∧ u.mem = s.mem ∧ u.teams[w.g.team]? = some team ∧
       team = { t with slots := team.slots } ∧ (∀ z : BitVec 2, z ≠ ch.form.slot → team.slot z.toNat = t.slot z.toNat) ∧
       (team.slot ch.form.slot.toNat).bound = some (tile, mmaKind ch.form.fmt) ∧
       (∀ n, n < 1024 → (team.slot ch.form.slot.toNat).cells.toList.getD n 0 = BitVec.ofNat 64 (cell n).code) ∧
       ∀ g, s.groups[w.gi]? = some g → ∃ g', u.groups[w.gi]? = some g' ∧ g'.ctrl = { g.ctrl with fpFlags := g.ctrl.fpFlags ||| flags })) ∧
  ((∀ (s : State) (ti : Nat) (z : BitVec 2) (cell tile : Nat) (v : Int) (t : Team) (h : Hall), s.teams[ti]? = some t → s.halls[t.hall]? = some h →
     (t.slot z.toNat).bound = some (tile, .integer) → cell < 1024 → v = 1 ∨ v = -1 → t.tiles.wf = true →
     let count := fun (t : Team) (n : Nat) => (t.slot z.toNat).counts.toList.getD n 0
     let n : Int := count t cell
     let u := s.takeCarry ti z.toNat cell v
     let mine : PoolEntry := { team := ti, slot := z.toFin, cell := cell }
     let size := 2048 - 1024 * ((s.teams.filter fun t' => t'.phase == .resident && t'.hall == t.hall).map fun t' => t'.hdr.reserve).sum
     let becomes := fun (x folded : Int) (pool : List PoolEntry) => ∃ team, u.teams[ti]? = some team ∧ team = { t with slots := team.slots, tiles := team.tiles } ∧
       count team cell = x ∧ (∀ m, m ≠ cell → count team m = count t m) ∧ (team.slot z.toNat).cells = (t.slot z.toNat).cells ∧
       (team.slot z.toNat).bound = (t.slot z.toNat).bound ∧
       (team.tiles.num (4096 * tile + 4 * cell) 4 : Int) = (t.tiles.num (4096 * tile + 4 * cell) 4 + folded * 2 ^ 22) % 2 ^ 32 ∧
       (∀ a, a < 4096 * tile + 4 * cell ∨ 4096 * tile + 4 * cell + 4 ≤ a → team.tiles.read a = t.tiles.read a) ∧
       ∃ h', u.halls[t.hall]? = some h' ∧ h' = { h with pool := pool }
     (n ≠ 0 → n + v ≠ 0 → -127 ≤ n + v → n + v ≤ 127 → becomes (n + v) 0 h.pool) ∧
     (n ≠ 0 → n + v = 0 → becomes 0 0 (h.pool.filter fun e => e != mine)) ∧
     (n ≠ 0 → n + v < -127 ∨ 127 < n + v → becomes v n h.pool) ∧
     (n = 0 → z.toNat < t.hdr.reserve → becomes v 0 h.pool) ∧
     (n = 0 → t.hdr.reserve ≤ z.toNat → size = 0 → becomes 0 v h.pool) ∧
     (n = 0 → t.hdr.reserve ≤ z.toNat → h.pool.length < size → becomes v 0 (h.pool ++ [mine]))) ∧
   ∀ (s : State) (w : Who) (ch : Chain) (tile k : Nat), mmaKind ch.form.fmt = .integer → w.t.hdr.carryTrap = true →
     let row := fun n => intElems ch.form.fmt (opRow (ch.operandBytes k 0) n)
     let col := fun n => intElems ch.form.fmt (opRow (ch.operandBytes k 1) n)
     let sum := fun n : Nat => (((w.t.slot ch.form.slot.toNat).cells.toList.getD n 0).extractLsb' 0 22).toInt +
       ((row (n / 32)).zip (col (n % 32))).foldl (fun t x => t + x.1 * x.2) 0
     let needs := (List.range 1024).filter fun n => (sum n < -(2 ^ 21) || 2 ^ 21 ≤ sum n) && (w.t.slot ch.form.slot.toNat).counts.toList.getD n 0 == 0
     w.t.hdr.reserve ≤ ch.form.slot.toNat → s.poolSize w.t.hall < (s.pool w.t.hall).length + needs.length →
     s.beatStep w ch tile k = .trap .carryFull (ch.form.slot.zeroExtend 32) 0)
end

