-- ==== Sys2Proof/Laws/Codes.lean ====
section
/-! SUPPORT. The codes of operands (R61 to R64, R82 to R92): reading a code gives back what was written. -/

namespace Sys2Proof

set_option maxRecDepth 4000

theorem Special.ofIndex_index (x : Special) : Special.ofIndex x.index = x := by cases x <;> rfl

theorem Src.ofCode_code (x : Src) : Src.ofCode x.code = x := by
  cases x with
  | v n =>
    revert n
    decide +kernel
  | s n =>
    revert n
    decide +kernel
  | latch n =>
    revert n
    decide +kernel
  | special x => cases x <;> rfl
  | const i =>
    revert i
    decide +kernel

theorem SOp.ofCode_code (x : SOp) : SOp.ofCode? x.code = some x := by
  cases x with
  | s n =>
    revert n
    decide +kernel
  | special x => cases x <;> rfl
  | const i =>
    revert i
    decide +kernel

theorem SReg.ofCode_code (n : SReg) : SReg.ofCode? n.code = some n := by
  revert n
  decide +kernel

theorem Scope.ofCode_code (x : Scope) : Scope.ofCode x.code = x := by cases x <;> rfl

theorem ICond.ofCode_code (x : ICond) : ICond.ofCode? x.code = some x := by cases x <;> rfl

theorem Cond.ofCode_code (x : Cond) : Cond.ofCode? x.code = some x := by
  cases x with
  | int c => cases c <;> rfl
  | _ => rfl

theorem CvtType.ofCode_code (x : CvtType) : CvtType.ofCode? x.code = some x := by cases x <;> rfl

theorem PackType.ofCode_code (x : PackType) : PackType.ofCode? x.code = some x := by cases x <;> rfl

theorem XType.ofCode_code (x : XType) : XType.ofCode? x.code = some x := by cases x <;> rfl

theorem Size.ofCode_code (x : Size) : Size.ofCode? x.code = some x := by cases x <;> rfl

theorem MmaFmt.ofCode_code (x : MmaFmt) : MmaFmt.ofCode? x.code = some x := by cases x <;> rfl

theorem CtrlReg.ofCode_code (x : CtrlReg) : CtrlReg.ofCode? x.code = some x := by cases x <;> rfl

/-- R96: a word that decodes is the word of a well-formed instruction. -/
theorem decode_sound {w : Word} {i : Instr} (h : decode w = .ok i) : i.wf = true ∧ encode i = some w := by
  unfold decode at h
  split at h
  · cases h
  · split at h
    · rename_i hc
      cases h
      simpa using hc
    · cases h

end Sys2Proof
end

