-- ==== Sys2Proof/Laws/Lists.lean ====
section
/-! SUPPORT. Lists and lanes: replacing an element, reading a lane. -/

namespace Sys2Proof.Machine

theorem listModify_get_other {α : Type} (l : List α) (n j : Nat) (f : α → α) (h : j ≠ n) :
    (listModify l n f)[j]? = l[j]? := by
  induction l generalizing n j with
  | nil => rfl
  | cons x xs ih =>
    cases n with
    | zero =>
      cases j with
      | zero => exact absurd rfl h
      | succ j => rfl
    | succ n =>
      cases j with
      | zero => rfl
      | succ j => simpa [listModify] using ih n j (by omega)

theorem listModify_get_same {α : Type} (l : List α) (n : Nat) (f : α → α) :
    (listModify l n f)[n]? = l[n]?.map f := by
  induction l generalizing n with
  | nil => simp [listModify]
  | cons x xs ih =>
    cases n with
    | zero => rfl
    | succ n => simpa [listModify] using ih n

theorem listModify_comp {α : Type} (l : List α) (n : Nat) (f g : α → α) :
    listModify (listModify l n f) n g = listModify l n fun x => g (f x) := by
  induction l generalizing n with
  | nil => rfl
  | cons x xs ih =>
    cases n with
    | zero => rfl
    | succ n => simpa [listModify] using ih n

@[simp] theorem listModify_length {α : Type} (l : List α) (n : Nat) (f : α → α) :
    (listModify l n f).length = l.length := by
  induction l generalizing n with
  | nil => rfl
  | cons x xs ih =>
    cases n with
    | zero => rfl
    | succ n => simpa [listModify] using ih n

@[simp] theorem Lanes.at_tabulate {α : Type} [Inhabited α] (f : Nat → α) (l : Nat) (h : l < 32) :
    Lanes.at (Lanes.tabulate f) l = f l := by
  unfold Lanes.at Lanes.tabulate
  rw [List.getD_eq_getElem?_getD, List.getElem?_eq_getElem (by simpa using h)]
  simp

theorem Lanes.at_eq {α : Type} [Inhabited α] (x : Lanes α) (l : Nat) (h : l < 32) : Lanes.at x l = x[l] := by
  unfold Lanes.at
  rw [List.getD_eq_getElem?_getD, List.getElem?_eq_getElem (by simpa using h)]
  simp

@[simp] theorem Lanes.at_merge {α : Type} [Inhabited α] (m : LaneMask) (old new : Lanes α) (l : Nat) (h : l < 32) :
    Lanes.at (Lanes.merge m old new) l = if m.getLsbD l then Lanes.at new l else Lanes.at old l := by
  rw [Lanes.at_eq _ _ h, Lanes.at_eq _ _ h, Lanes.at_eq _ _ h]
  simp [Lanes.merge, -BitVec.getLsbD_eq_getElem]

@[simp] theorem Lanes.at_map {α β : Type} [Inhabited α] [Inhabited β] (f : α → β) (x : Lanes α) (l : Nat) (h : l < 32) :
    Lanes.at (x.map f) l = f (Lanes.at x l) := by
  rw [Lanes.at_eq _ _ h, Lanes.at_eq _ _ h]
  simp

@[simp] theorem Lanes.at_all {α : Type} [Inhabited α] (x : α) (l : Nat) (h : l < 32) : Lanes.at (Lanes.all x) l = x := by
  rw [Lanes.at_eq _ _ h]
  simp [Lanes.all]

end Sys2Proof.Machine
end

