-- ==== Sys2Proof/Laws/State.lean ====
section
/-! SUPPORT. What each primitive update of the state leaves and sets, one lemma a field. -/

namespace Sys2Proof.Machine


/-! ### State.updGroup -/

@[simp] theorem State.updGroup_mem (s : State) (n : Nat) (f : Group → Group) : (s.updGroup n f).mem = s.mem := rfl
@[simp] theorem State.updGroup_homes (s : State) (n : Nat) (f : Group → Group) : (s.updGroup n f).homes = s.homes := rfl
@[simp] theorem State.updGroup_poison (s : State) (n : Nat) (f : Group → Group) : (s.updGroup n f).poison = s.poison := rfl
@[simp] theorem State.updGroup_timedOut (s : State) (n : Nat) (f : Group → Group) : (s.updGroup n f).timedOut = s.timedOut := rfl
@[simp] theorem State.updGroup_outNow (s : State) (n : Nat) (f : Group → Group) : (s.updGroup n f).outNow = s.outNow := rfl
@[simp] theorem State.updGroup_broken (s : State) (n : Nat) (f : Group → Group) : (s.updGroup n f).broken = s.broken := rfl
@[simp] theorem State.updGroup_hist (s : State) (n : Nat) (f : Group → Group) : (s.updGroup n f).hist = s.hist := rfl
@[simp] theorem State.updGroup_seq (s : State) (n : Nat) (f : Group → Group) : (s.updGroup n f).seq = s.seq := rfl
@[simp] theorem State.updGroup_free (s : State) (n : Nat) (f : Group → Group) : (s.updGroup n f).free = s.free := rfl
@[simp] theorem State.updGroup_cycle (s : State) (n : Nat) (f : Group → Group) : (s.updGroup n f).cycle = s.cycle := rfl
@[simp] theorem State.updGroup_parts (s : State) (n : Nat) (f : Group → Group) : (s.updGroup n f).parts = s.parts := rfl
@[simp] theorem State.updGroup_teams (s : State) (n : Nat) (f : Group → Group) : (s.updGroup n f).teams = s.teams := rfl
@[simp] theorem State.updGroup_groups (s : State) (n : Nat) (f : Group → Group) : (s.updGroup n f).groups = listModify s.groups n f := rfl
@[simp] theorem State.updGroup_grids (s : State) (n : Nat) (f : Group → Group) : (s.updGroup n f).grids = s.grids := rfl
@[simp] theorem State.updGroup_cmds (s : State) (n : Nat) (f : Group → Group) : (s.updGroup n f).cmds = s.cmds := rfl
@[simp] theorem State.updGroup_halls (s : State) (n : Nat) (f : Group → Group) : (s.updGroup n f).halls = s.halls := rfl
@[simp] theorem State.updGroup_keys (s : State) (n : Nat) (f : Group → Group) : (s.updGroup n f).keys = s.keys := rfl
@[simp] theorem State.updGroup_leasesHeld (s : State) (n : Nat) (f : Group → Group) : (s.updGroup n f).leasesHeld = s.leasesHeld := rfl
@[simp] theorem State.updGroup_leasesGranted (s : State) (n : Nat) (f : Group → Group) : (s.updGroup n f).leasesGranted = s.leasesGranted := rfl
@[simp] theorem State.updGroup_mgmt (s : State) (n : Nat) (f : Group → Group) : (s.updGroup n f).mgmt = s.mgmt := rfl
@[simp] theorem State.updGroup_power (s : State) (n : Nat) (f : Group → Group) : (s.updGroup n f).power = s.power := rfl
@[simp] theorem State.updGroup_objectSerial (s : State) (n : Nat) (f : Group → Group) : (s.updGroup n f).objectSerial = s.objectSerial := rfl
@[simp] theorem State.updGroup_failedPorts (s : State) (n : Nat) (f : Group → Group) : (s.updGroup n f).failedPorts = s.failedPorts := rfl
@[simp] theorem State.updGroup_reply (s : State) (n : Nat) (f : Group → Group) : (s.updGroup n f).reply = s.reply := rfl
@[simp] theorem State.updGroup_events (s : State) (n : Nat) (f : Group → Group) : (s.updGroup n f).events = s.events := rfl
@[simp] theorem State.updGroup_inbox (s : State) (n : Nat) (f : Group → Group) : (s.updGroup n f).inbox = s.inbox := rfl
@[simp] theorem State.updGroup_cur (s : State) (n : Nat) (f : Group → Group) : (s.updGroup n f).cur = s.cur := rfl

/-! ### State.updTeam -/

@[simp] theorem State.updTeam_mem (s : State) (n : Nat) (f : Team → Team) : (s.updTeam n f).mem = s.mem := rfl
@[simp] theorem State.updTeam_homes (s : State) (n : Nat) (f : Team → Team) : (s.updTeam n f).homes = s.homes := rfl
@[simp] theorem State.updTeam_poison (s : State) (n : Nat) (f : Team → Team) : (s.updTeam n f).poison = s.poison := rfl
@[simp] theorem State.updTeam_timedOut (s : State) (n : Nat) (f : Team → Team) : (s.updTeam n f).timedOut = s.timedOut := rfl
@[simp] theorem State.updTeam_outNow (s : State) (n : Nat) (f : Team → Team) : (s.updTeam n f).outNow = s.outNow := rfl
@[simp] theorem State.updTeam_broken (s : State) (n : Nat) (f : Team → Team) : (s.updTeam n f).broken = s.broken := rfl
@[simp] theorem State.updTeam_hist (s : State) (n : Nat) (f : Team → Team) : (s.updTeam n f).hist = s.hist := rfl
@[simp] theorem State.updTeam_seq (s : State) (n : Nat) (f : Team → Team) : (s.updTeam n f).seq = s.seq := rfl
@[simp] theorem State.updTeam_free (s : State) (n : Nat) (f : Team → Team) : (s.updTeam n f).free = s.free := rfl
@[simp] theorem State.updTeam_cycle (s : State) (n : Nat) (f : Team → Team) : (s.updTeam n f).cycle = s.cycle := rfl
@[simp] theorem State.updTeam_parts (s : State) (n : Nat) (f : Team → Team) : (s.updTeam n f).parts = s.parts := rfl
@[simp] theorem State.updTeam_teams (s : State) (n : Nat) (f : Team → Team) : (s.updTeam n f).teams = listModify s.teams n f := rfl
@[simp] theorem State.updTeam_groups (s : State) (n : Nat) (f : Team → Team) : (s.updTeam n f).groups = s.groups := rfl
@[simp] theorem State.updTeam_grids (s : State) (n : Nat) (f : Team → Team) : (s.updTeam n f).grids = s.grids := rfl
@[simp] theorem State.updTeam_cmds (s : State) (n : Nat) (f : Team → Team) : (s.updTeam n f).cmds = s.cmds := rfl
@[simp] theorem State.updTeam_halls (s : State) (n : Nat) (f : Team → Team) : (s.updTeam n f).halls = s.halls := rfl
@[simp] theorem State.updTeam_keys (s : State) (n : Nat) (f : Team → Team) : (s.updTeam n f).keys = s.keys := rfl
@[simp] theorem State.updTeam_leasesHeld (s : State) (n : Nat) (f : Team → Team) : (s.updTeam n f).leasesHeld = s.leasesHeld := rfl
@[simp] theorem State.updTeam_leasesGranted (s : State) (n : Nat) (f : Team → Team) : (s.updTeam n f).leasesGranted = s.leasesGranted := rfl
@[simp] theorem State.updTeam_mgmt (s : State) (n : Nat) (f : Team → Team) : (s.updTeam n f).mgmt = s.mgmt := rfl
@[simp] theorem State.updTeam_power (s : State) (n : Nat) (f : Team → Team) : (s.updTeam n f).power = s.power := rfl
@[simp] theorem State.updTeam_objectSerial (s : State) (n : Nat) (f : Team → Team) : (s.updTeam n f).objectSerial = s.objectSerial := rfl
@[simp] theorem State.updTeam_failedPorts (s : State) (n : Nat) (f : Team → Team) : (s.updTeam n f).failedPorts = s.failedPorts := rfl
@[simp] theorem State.updTeam_reply (s : State) (n : Nat) (f : Team → Team) : (s.updTeam n f).reply = s.reply := rfl
@[simp] theorem State.updTeam_events (s : State) (n : Nat) (f : Team → Team) : (s.updTeam n f).events = s.events := rfl
@[simp] theorem State.updTeam_inbox (s : State) (n : Nat) (f : Team → Team) : (s.updTeam n f).inbox = s.inbox := rfl
@[simp] theorem State.updTeam_cur (s : State) (n : Nat) (f : Team → Team) : (s.updTeam n f).cur = s.cur := rfl

/-! ### State.updHall -/

@[simp] theorem State.updHall_mem (s : State) (n : Nat) (f : Hall → Hall) : (s.updHall n f).mem = s.mem := rfl
@[simp] theorem State.updHall_homes (s : State) (n : Nat) (f : Hall → Hall) : (s.updHall n f).homes = s.homes := rfl
@[simp] theorem State.updHall_poison (s : State) (n : Nat) (f : Hall → Hall) : (s.updHall n f).poison = s.poison := rfl
@[simp] theorem State.updHall_timedOut (s : State) (n : Nat) (f : Hall → Hall) : (s.updHall n f).timedOut = s.timedOut := rfl
@[simp] theorem State.updHall_outNow (s : State) (n : Nat) (f : Hall → Hall) : (s.updHall n f).outNow = s.outNow := rfl
@[simp] theorem State.updHall_broken (s : State) (n : Nat) (f : Hall → Hall) : (s.updHall n f).broken = s.broken := rfl
@[simp] theorem State.updHall_hist (s : State) (n : Nat) (f : Hall → Hall) : (s.updHall n f).hist = s.hist := rfl
@[simp] theorem State.updHall_seq (s : State) (n : Nat) (f : Hall → Hall) : (s.updHall n f).seq = s.seq := rfl
@[simp] theorem State.updHall_free (s : State) (n : Nat) (f : Hall → Hall) : (s.updHall n f).free = s.free := rfl
@[simp] theorem State.updHall_cycle (s : State) (n : Nat) (f : Hall → Hall) : (s.updHall n f).cycle = s.cycle := rfl
@[simp] theorem State.updHall_parts (s : State) (n : Nat) (f : Hall → Hall) : (s.updHall n f).parts = s.parts := rfl
@[simp] theorem State.updHall_teams (s : State) (n : Nat) (f : Hall → Hall) : (s.updHall n f).teams = s.teams := rfl
@[simp] theorem State.updHall_groups (s : State) (n : Nat) (f : Hall → Hall) : (s.updHall n f).groups = s.groups := rfl
@[simp] theorem State.updHall_grids (s : State) (n : Nat) (f : Hall → Hall) : (s.updHall n f).grids = s.grids := rfl
@[simp] theorem State.updHall_cmds (s : State) (n : Nat) (f : Hall → Hall) : (s.updHall n f).cmds = s.cmds := rfl
@[simp] theorem State.updHall_halls (s : State) (n : Nat) (f : Hall → Hall) : (s.updHall n f).halls = listModify s.halls n f := rfl
@[simp] theorem State.updHall_keys (s : State) (n : Nat) (f : Hall → Hall) : (s.updHall n f).keys = s.keys := rfl
@[simp] theorem State.updHall_leasesHeld (s : State) (n : Nat) (f : Hall → Hall) : (s.updHall n f).leasesHeld = s.leasesHeld := rfl
@[simp] theorem State.updHall_leasesGranted (s : State) (n : Nat) (f : Hall → Hall) : (s.updHall n f).leasesGranted = s.leasesGranted := rfl
@[simp] theorem State.updHall_mgmt (s : State) (n : Nat) (f : Hall → Hall) : (s.updHall n f).mgmt = s.mgmt := rfl
@[simp] theorem State.updHall_power (s : State) (n : Nat) (f : Hall → Hall) : (s.updHall n f).power = s.power := rfl
@[simp] theorem State.updHall_objectSerial (s : State) (n : Nat) (f : Hall → Hall) : (s.updHall n f).objectSerial = s.objectSerial := rfl
@[simp] theorem State.updHall_failedPorts (s : State) (n : Nat) (f : Hall → Hall) : (s.updHall n f).failedPorts = s.failedPorts := rfl
@[simp] theorem State.updHall_reply (s : State) (n : Nat) (f : Hall → Hall) : (s.updHall n f).reply = s.reply := rfl
@[simp] theorem State.updHall_events (s : State) (n : Nat) (f : Hall → Hall) : (s.updHall n f).events = s.events := rfl
@[simp] theorem State.updHall_inbox (s : State) (n : Nat) (f : Hall → Hall) : (s.updHall n f).inbox = s.inbox := rfl
@[simp] theorem State.updHall_cur (s : State) (n : Nat) (f : Hall → Hall) : (s.updHall n f).cur = s.cur := rfl

/-! ### State.updGrid -/

@[simp] theorem State.updGrid_mem (s : State) (n : Nat) (f : Grid → Grid) : (s.updGrid n f).mem = s.mem := rfl
@[simp] theorem State.updGrid_homes (s : State) (n : Nat) (f : Grid → Grid) : (s.updGrid n f).homes = s.homes := rfl
@[simp] theorem State.updGrid_poison (s : State) (n : Nat) (f : Grid → Grid) : (s.updGrid n f).poison = s.poison := rfl
@[simp] theorem State.updGrid_timedOut (s : State) (n : Nat) (f : Grid → Grid) : (s.updGrid n f).timedOut = s.timedOut := rfl
@[simp] theorem State.updGrid_outNow (s : State) (n : Nat) (f : Grid → Grid) : (s.updGrid n f).outNow = s.outNow := rfl
@[simp] theorem State.updGrid_broken (s : State) (n : Nat) (f : Grid → Grid) : (s.updGrid n f).broken = s.broken := rfl
@[simp] theorem State.updGrid_hist (s : State) (n : Nat) (f : Grid → Grid) : (s.updGrid n f).hist = s.hist := rfl
@[simp] theorem State.updGrid_seq (s : State) (n : Nat) (f : Grid → Grid) : (s.updGrid n f).seq = s.seq := rfl
@[simp] theorem State.updGrid_free (s : State) (n : Nat) (f : Grid → Grid) : (s.updGrid n f).free = s.free := rfl
@[simp] theorem State.updGrid_cycle (s : State) (n : Nat) (f : Grid → Grid) : (s.updGrid n f).cycle = s.cycle := rfl
@[simp] theorem State.updGrid_parts (s : State) (n : Nat) (f : Grid → Grid) : (s.updGrid n f).parts = s.parts := rfl
@[simp] theorem State.updGrid_teams (s : State) (n : Nat) (f : Grid → Grid) : (s.updGrid n f).teams = s.teams := rfl
@[simp] theorem State.updGrid_groups (s : State) (n : Nat) (f : Grid → Grid) : (s.updGrid n f).groups = s.groups := rfl
@[simp] theorem State.updGrid_grids (s : State) (n : Nat) (f : Grid → Grid) : (s.updGrid n f).grids = listModify s.grids n f := rfl
@[simp] theorem State.updGrid_cmds (s : State) (n : Nat) (f : Grid → Grid) : (s.updGrid n f).cmds = s.cmds := rfl
@[simp] theorem State.updGrid_halls (s : State) (n : Nat) (f : Grid → Grid) : (s.updGrid n f).halls = s.halls := rfl
@[simp] theorem State.updGrid_keys (s : State) (n : Nat) (f : Grid → Grid) : (s.updGrid n f).keys = s.keys := rfl
@[simp] theorem State.updGrid_leasesHeld (s : State) (n : Nat) (f : Grid → Grid) : (s.updGrid n f).leasesHeld = s.leasesHeld := rfl
@[simp] theorem State.updGrid_leasesGranted (s : State) (n : Nat) (f : Grid → Grid) : (s.updGrid n f).leasesGranted = s.leasesGranted := rfl
@[simp] theorem State.updGrid_mgmt (s : State) (n : Nat) (f : Grid → Grid) : (s.updGrid n f).mgmt = s.mgmt := rfl
@[simp] theorem State.updGrid_power (s : State) (n : Nat) (f : Grid → Grid) : (s.updGrid n f).power = s.power := rfl
@[simp] theorem State.updGrid_objectSerial (s : State) (n : Nat) (f : Grid → Grid) : (s.updGrid n f).objectSerial = s.objectSerial := rfl
@[simp] theorem State.updGrid_failedPorts (s : State) (n : Nat) (f : Grid → Grid) : (s.updGrid n f).failedPorts = s.failedPorts := rfl
@[simp] theorem State.updGrid_reply (s : State) (n : Nat) (f : Grid → Grid) : (s.updGrid n f).reply = s.reply := rfl
@[simp] theorem State.updGrid_events (s : State) (n : Nat) (f : Grid → Grid) : (s.updGrid n f).events = s.events := rfl
@[simp] theorem State.updGrid_inbox (s : State) (n : Nat) (f : Grid → Grid) : (s.updGrid n f).inbox = s.inbox := rfl
@[simp] theorem State.updGrid_cur (s : State) (n : Nat) (f : Grid → Grid) : (s.updGrid n f).cur = s.cur := rfl

/-! ### State.updCmd -/

@[simp] theorem State.updCmd_mem (s : State) (n : Nat) (f : Cmd → Cmd) : (s.updCmd n f).mem = s.mem := rfl
@[simp] theorem State.updCmd_homes (s : State) (n : Nat) (f : Cmd → Cmd) : (s.updCmd n f).homes = s.homes := rfl
@[simp] theorem State.updCmd_poison (s : State) (n : Nat) (f : Cmd → Cmd) : (s.updCmd n f).poison = s.poison := rfl
@[simp] theorem State.updCmd_timedOut (s : State) (n : Nat) (f : Cmd → Cmd) : (s.updCmd n f).timedOut = s.timedOut := rfl
@[simp] theorem State.updCmd_outNow (s : State) (n : Nat) (f : Cmd → Cmd) : (s.updCmd n f).outNow = s.outNow := rfl
@[simp] theorem State.updCmd_broken (s : State) (n : Nat) (f : Cmd → Cmd) : (s.updCmd n f).broken = s.broken := rfl
@[simp] theorem State.updCmd_hist (s : State) (n : Nat) (f : Cmd → Cmd) : (s.updCmd n f).hist = s.hist := rfl
@[simp] theorem State.updCmd_seq (s : State) (n : Nat) (f : Cmd → Cmd) : (s.updCmd n f).seq = s.seq := rfl
@[simp] theorem State.updCmd_free (s : State) (n : Nat) (f : Cmd → Cmd) : (s.updCmd n f).free = s.free := rfl
@[simp] theorem State.updCmd_cycle (s : State) (n : Nat) (f : Cmd → Cmd) : (s.updCmd n f).cycle = s.cycle := rfl
@[simp] theorem State.updCmd_parts (s : State) (n : Nat) (f : Cmd → Cmd) : (s.updCmd n f).parts = s.parts := rfl
@[simp] theorem State.updCmd_teams (s : State) (n : Nat) (f : Cmd → Cmd) : (s.updCmd n f).teams = s.teams := rfl
@[simp] theorem State.updCmd_groups (s : State) (n : Nat) (f : Cmd → Cmd) : (s.updCmd n f).groups = s.groups := rfl
@[simp] theorem State.updCmd_grids (s : State) (n : Nat) (f : Cmd → Cmd) : (s.updCmd n f).grids = s.grids := rfl
@[simp] theorem State.updCmd_cmds (s : State) (n : Nat) (f : Cmd → Cmd) : (s.updCmd n f).cmds = listModify s.cmds n f := rfl
@[simp] theorem State.updCmd_halls (s : State) (n : Nat) (f : Cmd → Cmd) : (s.updCmd n f).halls = s.halls := rfl
@[simp] theorem State.updCmd_keys (s : State) (n : Nat) (f : Cmd → Cmd) : (s.updCmd n f).keys = s.keys := rfl
@[simp] theorem State.updCmd_leasesHeld (s : State) (n : Nat) (f : Cmd → Cmd) : (s.updCmd n f).leasesHeld = s.leasesHeld := rfl
@[simp] theorem State.updCmd_leasesGranted (s : State) (n : Nat) (f : Cmd → Cmd) : (s.updCmd n f).leasesGranted = s.leasesGranted := rfl
@[simp] theorem State.updCmd_mgmt (s : State) (n : Nat) (f : Cmd → Cmd) : (s.updCmd n f).mgmt = s.mgmt := rfl
@[simp] theorem State.updCmd_power (s : State) (n : Nat) (f : Cmd → Cmd) : (s.updCmd n f).power = s.power := rfl
@[simp] theorem State.updCmd_objectSerial (s : State) (n : Nat) (f : Cmd → Cmd) : (s.updCmd n f).objectSerial = s.objectSerial := rfl
@[simp] theorem State.updCmd_failedPorts (s : State) (n : Nat) (f : Cmd → Cmd) : (s.updCmd n f).failedPorts = s.failedPorts := rfl
@[simp] theorem State.updCmd_reply (s : State) (n : Nat) (f : Cmd → Cmd) : (s.updCmd n f).reply = s.reply := rfl
@[simp] theorem State.updCmd_events (s : State) (n : Nat) (f : Cmd → Cmd) : (s.updCmd n f).events = s.events := rfl
@[simp] theorem State.updCmd_inbox (s : State) (n : Nat) (f : Cmd → Cmd) : (s.updCmd n f).inbox = s.inbox := rfl
@[simp] theorem State.updCmd_cur (s : State) (n : Nat) (f : Cmd → Cmd) : (s.updCmd n f).cur = s.cur := rfl

/-! ### State.updPart -/

@[simp] theorem State.updPart_mem (s : State) (n : Nat) (f : Part → Part) : (s.updPart n f).mem = s.mem := rfl
@[simp] theorem State.updPart_homes (s : State) (n : Nat) (f : Part → Part) : (s.updPart n f).homes = s.homes := rfl
@[simp] theorem State.updPart_poison (s : State) (n : Nat) (f : Part → Part) : (s.updPart n f).poison = s.poison := rfl
@[simp] theorem State.updPart_timedOut (s : State) (n : Nat) (f : Part → Part) : (s.updPart n f).timedOut = s.timedOut := rfl
@[simp] theorem State.updPart_outNow (s : State) (n : Nat) (f : Part → Part) : (s.updPart n f).outNow = s.outNow := rfl
@[simp] theorem State.updPart_broken (s : State) (n : Nat) (f : Part → Part) : (s.updPart n f).broken = s.broken := rfl
@[simp] theorem State.updPart_hist (s : State) (n : Nat) (f : Part → Part) : (s.updPart n f).hist = s.hist := rfl
@[simp] theorem State.updPart_seq (s : State) (n : Nat) (f : Part → Part) : (s.updPart n f).seq = s.seq := rfl
@[simp] theorem State.updPart_free (s : State) (n : Nat) (f : Part → Part) : (s.updPart n f).free = s.free := rfl
@[simp] theorem State.updPart_cycle (s : State) (n : Nat) (f : Part → Part) : (s.updPart n f).cycle = s.cycle := rfl
@[simp] theorem State.updPart_parts (s : State) (n : Nat) (f : Part → Part) : (s.updPart n f).parts = s.parts.map fun p => if p.id == n then f p else p := rfl
@[simp] theorem State.updPart_teams (s : State) (n : Nat) (f : Part → Part) : (s.updPart n f).teams = s.teams := rfl
@[simp] theorem State.updPart_groups (s : State) (n : Nat) (f : Part → Part) : (s.updPart n f).groups = s.groups := rfl
@[simp] theorem State.updPart_grids (s : State) (n : Nat) (f : Part → Part) : (s.updPart n f).grids = s.grids := rfl
@[simp] theorem State.updPart_cmds (s : State) (n : Nat) (f : Part → Part) : (s.updPart n f).cmds = s.cmds := rfl
@[simp] theorem State.updPart_halls (s : State) (n : Nat) (f : Part → Part) : (s.updPart n f).halls = s.halls := rfl
@[simp] theorem State.updPart_keys (s : State) (n : Nat) (f : Part → Part) : (s.updPart n f).keys = s.keys := rfl
@[simp] theorem State.updPart_leasesHeld (s : State) (n : Nat) (f : Part → Part) : (s.updPart n f).leasesHeld = s.leasesHeld := rfl
@[simp] theorem State.updPart_leasesGranted (s : State) (n : Nat) (f : Part → Part) : (s.updPart n f).leasesGranted = s.leasesGranted := rfl
@[simp] theorem State.updPart_mgmt (s : State) (n : Nat) (f : Part → Part) : (s.updPart n f).mgmt = s.mgmt := rfl
@[simp] theorem State.updPart_power (s : State) (n : Nat) (f : Part → Part) : (s.updPart n f).power = s.power := rfl
@[simp] theorem State.updPart_objectSerial (s : State) (n : Nat) (f : Part → Part) : (s.updPart n f).objectSerial = s.objectSerial := rfl
@[simp] theorem State.updPart_failedPorts (s : State) (n : Nat) (f : Part → Part) : (s.updPart n f).failedPorts = s.failedPorts := rfl
@[simp] theorem State.updPart_reply (s : State) (n : Nat) (f : Part → Part) : (s.updPart n f).reply = s.reply := rfl
@[simp] theorem State.updPart_events (s : State) (n : Nat) (f : Part → Part) : (s.updPart n f).events = s.events := rfl
@[simp] theorem State.updPart_inbox (s : State) (n : Nat) (f : Part → Part) : (s.updPart n f).inbox = s.inbox := rfl
@[simp] theorem State.updPart_cur (s : State) (n : Nat) (f : Part → Part) : (s.updPart n f).cur = s.cur := rfl

/-! ### State.undue -/

@[simp] theorem State.undue_mem (s : State) (e : Instr) : (s.undue e).mem = s.mem := rfl
@[simp] theorem State.undue_homes (s : State) (e : Instr) : (s.undue e).homes = s.homes := rfl
@[simp] theorem State.undue_poison (s : State) (e : Instr) : (s.undue e).poison = s.poison := rfl
@[simp] theorem State.undue_timedOut (s : State) (e : Instr) : (s.undue e).timedOut = s.timedOut := rfl
@[simp] theorem State.undue_outNow (s : State) (e : Instr) : (s.undue e).outNow = s.outNow := rfl
@[simp] theorem State.undue_broken (s : State) (e : Instr) : (s.undue e).broken = s.broken := rfl
@[simp] theorem State.undue_hist (s : State) (e : Instr) : (s.undue e).hist = s.hist := rfl
@[simp] theorem State.undue_seq (s : State) (e : Instr) : (s.undue e).seq = s.seq := rfl
@[simp] theorem State.undue_free (s : State) (e : Instr) : (s.undue e).free = s.free := rfl
@[simp] theorem State.undue_cycle (s : State) (e : Instr) : (s.undue e).cycle = s.cycle := rfl
@[simp] theorem State.undue_parts (s : State) (e : Instr) : (s.undue e).parts = s.parts := rfl
@[simp] theorem State.undue_teams (s : State) (e : Instr) : (s.undue e).teams = s.teams := rfl
@[simp] theorem State.undue_groups (s : State) (e : Instr) : (s.undue e).groups = s.groups := rfl
@[simp] theorem State.undue_grids (s : State) (e : Instr) : (s.undue e).grids = s.grids := rfl
@[simp] theorem State.undue_cmds (s : State) (e : Instr) : (s.undue e).cmds = s.cmds := rfl
@[simp] theorem State.undue_halls (s : State) (e : Instr) : (s.undue e).halls = s.halls := rfl
@[simp] theorem State.undue_keys (s : State) (e : Instr) : (s.undue e).keys = s.keys := rfl
@[simp] theorem State.undue_leasesHeld (s : State) (e : Instr) : (s.undue e).leasesHeld = s.leasesHeld := rfl
@[simp] theorem State.undue_leasesGranted (s : State) (e : Instr) : (s.undue e).leasesGranted = s.leasesGranted := rfl
@[simp] theorem State.undue_mgmt (s : State) (e : Instr) : (s.undue e).mgmt = s.mgmt := rfl
@[simp] theorem State.undue_power (s : State) (e : Instr) : (s.undue e).power = s.power := rfl
@[simp] theorem State.undue_objectSerial (s : State) (e : Instr) : (s.undue e).objectSerial = s.objectSerial := rfl
@[simp] theorem State.undue_failedPorts (s : State) (e : Instr) : (s.undue e).failedPorts = s.failedPorts := rfl
@[simp] theorem State.undue_reply (s : State) (e : Instr) : (s.undue e).reply = s.reply := rfl
@[simp] theorem State.undue_events (s : State) (e : Instr) : (s.undue e).events = s.events.erase e := rfl
@[simp] theorem State.undue_inbox (s : State) (e : Instr) : (s.undue e).inbox = s.inbox := rfl
@[simp] theorem State.undue_cur (s : State) (e : Instr) : (s.undue e).cur = s.cur := rfl

/-! ### State.post -/

@[simp] theorem State.post_mem (s : State) (e : Instr) : (s.post e).mem = s.mem := rfl
@[simp] theorem State.post_homes (s : State) (e : Instr) : (s.post e).homes = s.homes := rfl
@[simp] theorem State.post_poison (s : State) (e : Instr) : (s.post e).poison = s.poison := rfl
@[simp] theorem State.post_timedOut (s : State) (e : Instr) : (s.post e).timedOut = s.timedOut := rfl
@[simp] theorem State.post_outNow (s : State) (e : Instr) : (s.post e).outNow = s.outNow := rfl
@[simp] theorem State.post_broken (s : State) (e : Instr) : (s.post e).broken = s.broken := rfl
@[simp] theorem State.post_hist (s : State) (e : Instr) : (s.post e).hist = s.hist := rfl
@[simp] theorem State.post_seq (s : State) (e : Instr) : (s.post e).seq = s.seq := rfl
@[simp] theorem State.post_free (s : State) (e : Instr) : (s.post e).free = s.free := rfl
@[simp] theorem State.post_cycle (s : State) (e : Instr) : (s.post e).cycle = s.cycle := rfl
@[simp] theorem State.post_parts (s : State) (e : Instr) : (s.post e).parts = s.parts := rfl
@[simp] theorem State.post_teams (s : State) (e : Instr) : (s.post e).teams = s.teams := rfl
@[simp] theorem State.post_groups (s : State) (e : Instr) : (s.post e).groups = s.groups := rfl
@[simp] theorem State.post_grids (s : State) (e : Instr) : (s.post e).grids = s.grids := rfl
@[simp] theorem State.post_cmds (s : State) (e : Instr) : (s.post e).cmds = s.cmds := rfl
@[simp] theorem State.post_halls (s : State) (e : Instr) : (s.post e).halls = s.halls := rfl
@[simp] theorem State.post_keys (s : State) (e : Instr) : (s.post e).keys = s.keys := rfl
@[simp] theorem State.post_leasesHeld (s : State) (e : Instr) : (s.post e).leasesHeld = s.leasesHeld := rfl
@[simp] theorem State.post_leasesGranted (s : State) (e : Instr) : (s.post e).leasesGranted = s.leasesGranted := rfl
@[simp] theorem State.post_mgmt (s : State) (e : Instr) : (s.post e).mgmt = s.mgmt := rfl
@[simp] theorem State.post_power (s : State) (e : Instr) : (s.post e).power = s.power := rfl
@[simp] theorem State.post_objectSerial (s : State) (e : Instr) : (s.post e).objectSerial = s.objectSerial := rfl
@[simp] theorem State.post_failedPorts (s : State) (e : Instr) : (s.post e).failedPorts = s.failedPorts := rfl
@[simp] theorem State.post_reply (s : State) (e : Instr) : (s.post e).reply = s.reply := rfl
@[simp] theorem State.post_events (s : State) (e : Instr) : (s.post e).events = s.events ++ [e] := rfl
@[simp] theorem State.post_inbox (s : State) (e : Instr) : (s.post e).inbox = s.inbox := rfl
@[simp] theorem State.post_cur (s : State) (e : Instr) : (s.post e).cur = s.cur := rfl

/-! ### State.spend -/

@[simp] theorem State.spend_mem (s : State) : (s.spend).mem = s.mem := rfl
@[simp] theorem State.spend_homes (s : State) : (s.spend).homes = s.homes := rfl
@[simp] theorem State.spend_poison (s : State) : (s.spend).poison = s.poison := rfl
@[simp] theorem State.spend_timedOut (s : State) : (s.spend).timedOut = s.timedOut := rfl
@[simp] theorem State.spend_outNow (s : State) : (s.spend).outNow = s.outNow := rfl
@[simp] theorem State.spend_broken (s : State) : (s.spend).broken = s.broken := rfl
@[simp] theorem State.spend_hist (s : State) : (s.spend).hist = s.hist := rfl
@[simp] theorem State.spend_seq (s : State) : (s.spend).seq = s.seq := rfl
@[simp] theorem State.spend_free (s : State) : (s.spend).free = s.free + 1 := rfl
@[simp] theorem State.spend_cycle (s : State) : (s.spend).cycle = s.cycle := rfl
@[simp] theorem State.spend_parts (s : State) : (s.spend).parts = s.parts := rfl
@[simp] theorem State.spend_teams (s : State) : (s.spend).teams = s.teams := rfl
@[simp] theorem State.spend_groups (s : State) : (s.spend).groups = s.groups := rfl
@[simp] theorem State.spend_grids (s : State) : (s.spend).grids = s.grids := rfl
@[simp] theorem State.spend_cmds (s : State) : (s.spend).cmds = s.cmds := rfl
@[simp] theorem State.spend_halls (s : State) : (s.spend).halls = s.halls := rfl
@[simp] theorem State.spend_keys (s : State) : (s.spend).keys = s.keys := rfl
@[simp] theorem State.spend_leasesHeld (s : State) : (s.spend).leasesHeld = s.leasesHeld := rfl
@[simp] theorem State.spend_leasesGranted (s : State) : (s.spend).leasesGranted = s.leasesGranted := rfl
@[simp] theorem State.spend_mgmt (s : State) : (s.spend).mgmt = s.mgmt := rfl
@[simp] theorem State.spend_power (s : State) : (s.spend).power = s.power := rfl
@[simp] theorem State.spend_objectSerial (s : State) : (s.spend).objectSerial = s.objectSerial := rfl
@[simp] theorem State.spend_failedPorts (s : State) : (s.spend).failedPorts = s.failedPorts := rfl
@[simp] theorem State.spend_reply (s : State) : (s.spend).reply = s.reply := rfl
@[simp] theorem State.spend_events (s : State) : (s.spend).events = s.events := rfl
@[simp] theorem State.spend_inbox (s : State) : (s.spend).inbox = s.inbox := rfl
@[simp] theorem State.spend_cur (s : State) : (s.spend).cur = s.cur := rfl

/-! ### State.setRegs -/

@[simp] theorem State.setRegs_mem (s : State) (c : Cx) (f : Regs → Regs) : (s.setRegs c f).mem = s.mem := rfl
@[simp] theorem State.setRegs_homes (s : State) (c : Cx) (f : Regs → Regs) : (s.setRegs c f).homes = s.homes := rfl
@[simp] theorem State.setRegs_poison (s : State) (c : Cx) (f : Regs → Regs) : (s.setRegs c f).poison = s.poison := rfl
@[simp] theorem State.setRegs_timedOut (s : State) (c : Cx) (f : Regs → Regs) : (s.setRegs c f).timedOut = s.timedOut := rfl
@[simp] theorem State.setRegs_outNow (s : State) (c : Cx) (f : Regs → Regs) : (s.setRegs c f).outNow = s.outNow := rfl
@[simp] theorem State.setRegs_broken (s : State) (c : Cx) (f : Regs → Regs) : (s.setRegs c f).broken = s.broken := rfl
@[simp] theorem State.setRegs_hist (s : State) (c : Cx) (f : Regs → Regs) : (s.setRegs c f).hist = s.hist := rfl
@[simp] theorem State.setRegs_seq (s : State) (c : Cx) (f : Regs → Regs) : (s.setRegs c f).seq = s.seq := rfl
@[simp] theorem State.setRegs_free (s : State) (c : Cx) (f : Regs → Regs) : (s.setRegs c f).free = s.free := rfl
@[simp] theorem State.setRegs_cycle (s : State) (c : Cx) (f : Regs → Regs) : (s.setRegs c f).cycle = s.cycle := rfl
@[simp] theorem State.setRegs_parts (s : State) (c : Cx) (f : Regs → Regs) : (s.setRegs c f).parts = s.parts := rfl
@[simp] theorem State.setRegs_teams (s : State) (c : Cx) (f : Regs → Regs) : (s.setRegs c f).teams = s.teams := rfl
@[simp] theorem State.setRegs_groups (s : State) (c : Cx) (f : Regs → Regs) : (s.setRegs c f).groups = listModify s.groups c.gi fun g => { g with regs := f g.regs } := rfl
@[simp] theorem State.setRegs_grids (s : State) (c : Cx) (f : Regs → Regs) : (s.setRegs c f).grids = s.grids := rfl
@[simp] theorem State.setRegs_cmds (s : State) (c : Cx) (f : Regs → Regs) : (s.setRegs c f).cmds = s.cmds := rfl
@[simp] theorem State.setRegs_halls (s : State) (c : Cx) (f : Regs → Regs) : (s.setRegs c f).halls = s.halls := rfl
@[simp] theorem State.setRegs_keys (s : State) (c : Cx) (f : Regs → Regs) : (s.setRegs c f).keys = s.keys := rfl
@[simp] theorem State.setRegs_leasesHeld (s : State) (c : Cx) (f : Regs → Regs) : (s.setRegs c f).leasesHeld = s.leasesHeld := rfl
@[simp] theorem State.setRegs_leasesGranted (s : State) (c : Cx) (f : Regs → Regs) : (s.setRegs c f).leasesGranted = s.leasesGranted := rfl
@[simp] theorem State.setRegs_mgmt (s : State) (c : Cx) (f : Regs → Regs) : (s.setRegs c f).mgmt = s.mgmt := rfl
@[simp] theorem State.setRegs_power (s : State) (c : Cx) (f : Regs → Regs) : (s.setRegs c f).power = s.power := rfl
@[simp] theorem State.setRegs_objectSerial (s : State) (c : Cx) (f : Regs → Regs) : (s.setRegs c f).objectSerial = s.objectSerial := rfl
@[simp] theorem State.setRegs_failedPorts (s : State) (c : Cx) (f : Regs → Regs) : (s.setRegs c f).failedPorts = s.failedPorts := rfl
@[simp] theorem State.setRegs_reply (s : State) (c : Cx) (f : Regs → Regs) : (s.setRegs c f).reply = s.reply := rfl
@[simp] theorem State.setRegs_events (s : State) (c : Cx) (f : Regs → Regs) : (s.setRegs c f).events = s.events := rfl
@[simp] theorem State.setRegs_inbox (s : State) (c : Cx) (f : Regs → Regs) : (s.setRegs c f).inbox = s.inbox := rfl
@[simp] theorem State.setRegs_cur (s : State) (c : Cx) (f : Regs → Regs) : (s.setRegs c f).cur = s.cur := rfl

/-! ### State.setWait -/

@[simp] theorem State.setWait_mem (s : State) (c : Cx) (w : Wait) : (s.setWait c w).mem = s.mem := rfl
@[simp] theorem State.setWait_homes (s : State) (c : Cx) (w : Wait) : (s.setWait c w).homes = s.homes := rfl
@[simp] theorem State.setWait_poison (s : State) (c : Cx) (w : Wait) : (s.setWait c w).poison = s.poison := rfl
@[simp] theorem State.setWait_timedOut (s : State) (c : Cx) (w : Wait) : (s.setWait c w).timedOut = s.timedOut := rfl
@[simp] theorem State.setWait_outNow (s : State) (c : Cx) (w : Wait) : (s.setWait c w).outNow = s.outNow := rfl
@[simp] theorem State.setWait_broken (s : State) (c : Cx) (w : Wait) : (s.setWait c w).broken = s.broken := rfl
@[simp] theorem State.setWait_hist (s : State) (c : Cx) (w : Wait) : (s.setWait c w).hist = s.hist := rfl
@[simp] theorem State.setWait_seq (s : State) (c : Cx) (w : Wait) : (s.setWait c w).seq = s.seq := rfl
@[simp] theorem State.setWait_free (s : State) (c : Cx) (w : Wait) : (s.setWait c w).free = s.free := rfl
@[simp] theorem State.setWait_cycle (s : State) (c : Cx) (w : Wait) : (s.setWait c w).cycle = s.cycle := rfl
@[simp] theorem State.setWait_parts (s : State) (c : Cx) (w : Wait) : (s.setWait c w).parts = s.parts := rfl
@[simp] theorem State.setWait_teams (s : State) (c : Cx) (w : Wait) : (s.setWait c w).teams = s.teams := rfl
@[simp] theorem State.setWait_groups (s : State) (c : Cx) (w : Wait) : (s.setWait c w).groups = listModify s.groups c.gi (Group.setEntry c.k fun e => { e with wait := w }) := rfl
@[simp] theorem State.setWait_grids (s : State) (c : Cx) (w : Wait) : (s.setWait c w).grids = s.grids := rfl
@[simp] theorem State.setWait_cmds (s : State) (c : Cx) (w : Wait) : (s.setWait c w).cmds = s.cmds := rfl
@[simp] theorem State.setWait_halls (s : State) (c : Cx) (w : Wait) : (s.setWait c w).halls = s.halls := rfl
@[simp] theorem State.setWait_keys (s : State) (c : Cx) (w : Wait) : (s.setWait c w).keys = s.keys := rfl
@[simp] theorem State.setWait_leasesHeld (s : State) (c : Cx) (w : Wait) : (s.setWait c w).leasesHeld = s.leasesHeld := rfl
@[simp] theorem State.setWait_leasesGranted (s : State) (c : Cx) (w : Wait) : (s.setWait c w).leasesGranted = s.leasesGranted := rfl
@[simp] theorem State.setWait_mgmt (s : State) (c : Cx) (w : Wait) : (s.setWait c w).mgmt = s.mgmt := rfl
@[simp] theorem State.setWait_power (s : State) (c : Cx) (w : Wait) : (s.setWait c w).power = s.power := rfl
@[simp] theorem State.setWait_objectSerial (s : State) (c : Cx) (w : Wait) : (s.setWait c w).objectSerial = s.objectSerial := rfl
@[simp] theorem State.setWait_failedPorts (s : State) (c : Cx) (w : Wait) : (s.setWait c w).failedPorts = s.failedPorts := rfl
@[simp] theorem State.setWait_reply (s : State) (c : Cx) (w : Wait) : (s.setWait c w).reply = s.reply := rfl
@[simp] theorem State.setWait_events (s : State) (c : Cx) (w : Wait) : (s.setWait c w).events = s.events := rfl
@[simp] theorem State.setWait_inbox (s : State) (c : Cx) (w : Wait) : (s.setWait c w).inbox = s.inbox := rfl
@[simp] theorem State.setWait_cur (s : State) (c : Cx) (w : Wait) : (s.setWait c w).cur = s.cur := rfl

/-! ### State.due -/

@[simp] theorem State.due_mem (s : State) (e : Instr) : (s.due e).mem = s.mem := by
  unfold State.due; split <;> rfl
@[simp] theorem State.due_homes (s : State) (e : Instr) : (s.due e).homes = s.homes := by
  unfold State.due; split <;> rfl
@[simp] theorem State.due_poison (s : State) (e : Instr) : (s.due e).poison = s.poison := by
  unfold State.due; split <;> rfl
@[simp] theorem State.due_timedOut (s : State) (e : Instr) : (s.due e).timedOut = s.timedOut := by
  unfold State.due; split <;> rfl
@[simp] theorem State.due_outNow (s : State) (e : Instr) : (s.due e).outNow = s.outNow := by
  unfold State.due; split <;> rfl
@[simp] theorem State.due_broken (s : State) (e : Instr) : (s.due e).broken = s.broken := by
  unfold State.due; split <;> rfl
@[simp] theorem State.due_hist (s : State) (e : Instr) : (s.due e).hist = s.hist := by
  unfold State.due; split <;> rfl
@[simp] theorem State.due_seq (s : State) (e : Instr) : (s.due e).seq = s.seq := by
  unfold State.due; split <;> rfl
@[simp] theorem State.due_free (s : State) (e : Instr) : (s.due e).free = s.free := by
  unfold State.due; split <;> rfl
@[simp] theorem State.due_cycle (s : State) (e : Instr) : (s.due e).cycle = s.cycle := by
  unfold State.due; split <;> rfl
@[simp] theorem State.due_parts (s : State) (e : Instr) : (s.due e).parts = s.parts := by
  unfold State.due; split <;> rfl
@[simp] theorem State.due_teams (s : State) (e : Instr) : (s.due e).teams = s.teams := by
  unfold State.due; split <;> rfl
@[simp] theorem State.due_groups (s : State) (e : Instr) : (s.due e).groups = s.groups := by
  unfold State.due; split <;> rfl
@[simp] theorem State.due_grids (s : State) (e : Instr) : (s.due e).grids = s.grids := by
  unfold State.due; split <;> rfl
@[simp] theorem State.due_cmds (s : State) (e : Instr) : (s.due e).cmds = s.cmds := by
  unfold State.due; split <;> rfl
@[simp] theorem State.due_halls (s : State) (e : Instr) : (s.due e).halls = s.halls := by
  unfold State.due; split <;> rfl
@[simp] theorem State.due_keys (s : State) (e : Instr) : (s.due e).keys = s.keys := by
  unfold State.due; split <;> rfl
@[simp] theorem State.due_leasesHeld (s : State) (e : Instr) : (s.due e).leasesHeld = s.leasesHeld := by
  unfold State.due; split <;> rfl
@[simp] theorem State.due_leasesGranted (s : State) (e : Instr) : (s.due e).leasesGranted = s.leasesGranted := by
  unfold State.due; split <;> rfl
@[simp] theorem State.due_mgmt (s : State) (e : Instr) : (s.due e).mgmt = s.mgmt := by
  unfold State.due; split <;> rfl
@[simp] theorem State.due_power (s : State) (e : Instr) : (s.due e).power = s.power := by
  unfold State.due; split <;> rfl
@[simp] theorem State.due_objectSerial (s : State) (e : Instr) : (s.due e).objectSerial = s.objectSerial := by
  unfold State.due; split <;> rfl
@[simp] theorem State.due_failedPorts (s : State) (e : Instr) : (s.due e).failedPorts = s.failedPorts := by
  unfold State.due; split <;> rfl
@[simp] theorem State.due_reply (s : State) (e : Instr) : (s.due e).reply = s.reply := by
  unfold State.due; split <;> rfl
@[simp] theorem State.due_inbox (s : State) (e : Instr) : (s.due e).inbox = s.inbox := by
  unfold State.due; split <;> rfl
@[simp] theorem State.due_cur (s : State) (e : Instr) : (s.due e).cur = s.cur := by
  unfold State.due; split <;> rfl

/-! ### State.countIssued -/

@[simp] theorem State.countIssued_mem (s : State) (p : Nat) : (s.countIssued p).mem = s.mem := rfl
@[simp] theorem State.countIssued_homes (s : State) (p : Nat) : (s.countIssued p).homes = s.homes := rfl
@[simp] theorem State.countIssued_poison (s : State) (p : Nat) : (s.countIssued p).poison = s.poison := rfl
@[simp] theorem State.countIssued_timedOut (s : State) (p : Nat) : (s.countIssued p).timedOut = s.timedOut := rfl
@[simp] theorem State.countIssued_outNow (s : State) (p : Nat) : (s.countIssued p).outNow = s.outNow := rfl
@[simp] theorem State.countIssued_broken (s : State) (p : Nat) : (s.countIssued p).broken = s.broken := rfl
@[simp] theorem State.countIssued_hist (s : State) (p : Nat) : (s.countIssued p).hist = s.hist := rfl
@[simp] theorem State.countIssued_seq (s : State) (p : Nat) : (s.countIssued p).seq = s.seq := rfl
@[simp] theorem State.countIssued_free (s : State) (p : Nat) : (s.countIssued p).free = s.free := rfl
@[simp] theorem State.countIssued_cycle (s : State) (p : Nat) : (s.countIssued p).cycle = s.cycle := rfl
@[simp] theorem State.countIssued_teams (s : State) (p : Nat) : (s.countIssued p).teams = s.teams := rfl
@[simp] theorem State.countIssued_groups (s : State) (p : Nat) : (s.countIssued p).groups = s.groups := rfl
@[simp] theorem State.countIssued_grids (s : State) (p : Nat) : (s.countIssued p).grids = s.grids := rfl
@[simp] theorem State.countIssued_cmds (s : State) (p : Nat) : (s.countIssued p).cmds = s.cmds := rfl
@[simp] theorem State.countIssued_halls (s : State) (p : Nat) : (s.countIssued p).halls = s.halls := rfl
@[simp] theorem State.countIssued_keys (s : State) (p : Nat) : (s.countIssued p).keys = s.keys := rfl
@[simp] theorem State.countIssued_leasesHeld (s : State) (p : Nat) : (s.countIssued p).leasesHeld = s.leasesHeld := rfl
@[simp] theorem State.countIssued_leasesGranted (s : State) (p : Nat) : (s.countIssued p).leasesGranted = s.leasesGranted := rfl
@[simp] theorem State.countIssued_mgmt (s : State) (p : Nat) : (s.countIssued p).mgmt = s.mgmt := rfl
@[simp] theorem State.countIssued_power (s : State) (p : Nat) : (s.countIssued p).power = s.power := rfl
@[simp] theorem State.countIssued_objectSerial (s : State) (p : Nat) : (s.countIssued p).objectSerial = s.objectSerial := rfl
@[simp] theorem State.countIssued_failedPorts (s : State) (p : Nat) : (s.countIssued p).failedPorts = s.failedPorts := rfl
@[simp] theorem State.countIssued_reply (s : State) (p : Nat) : (s.countIssued p).reply = s.reply := rfl
@[simp] theorem State.countIssued_events (s : State) (p : Nat) : (s.countIssued p).events = s.events := rfl
@[simp] theorem State.countIssued_inbox (s : State) (p : Nat) : (s.countIssued p).inbox = s.inbox := rfl
@[simp] theorem State.countIssued_cur (s : State) (p : Nat) : (s.countIssued p).cur = s.cur := rfl

/-! ### State.countRetired -/

@[simp] theorem State.countRetired_mem (s : State) (p : Nat) : (s.countRetired p).mem = s.mem := rfl
@[simp] theorem State.countRetired_homes (s : State) (p : Nat) : (s.countRetired p).homes = s.homes := rfl
@[simp] theorem State.countRetired_poison (s : State) (p : Nat) : (s.countRetired p).poison = s.poison := rfl
@[simp] theorem State.countRetired_timedOut (s : State) (p : Nat) : (s.countRetired p).timedOut = s.timedOut := rfl
@[simp] theorem State.countRetired_outNow (s : State) (p : Nat) : (s.countRetired p).outNow = s.outNow := rfl
@[simp] theorem State.countRetired_broken (s : State) (p : Nat) : (s.countRetired p).broken = s.broken := rfl
@[simp] theorem State.countRetired_hist (s : State) (p : Nat) : (s.countRetired p).hist = s.hist := rfl
@[simp] theorem State.countRetired_seq (s : State) (p : Nat) : (s.countRetired p).seq = s.seq := rfl
@[simp] theorem State.countRetired_free (s : State) (p : Nat) : (s.countRetired p).free = s.free := rfl
@[simp] theorem State.countRetired_cycle (s : State) (p : Nat) : (s.countRetired p).cycle = s.cycle := rfl
@[simp] theorem State.countRetired_teams (s : State) (p : Nat) : (s.countRetired p).teams = s.teams := rfl
@[simp] theorem State.countRetired_groups (s : State) (p : Nat) : (s.countRetired p).groups = s.groups := rfl
@[simp] theorem State.countRetired_grids (s : State) (p : Nat) : (s.countRetired p).grids = s.grids := rfl
@[simp] theorem State.countRetired_cmds (s : State) (p : Nat) : (s.countRetired p).cmds = s.cmds := rfl
@[simp] theorem State.countRetired_halls (s : State) (p : Nat) : (s.countRetired p).halls = s.halls := rfl
@[simp] theorem State.countRetired_keys (s : State) (p : Nat) : (s.countRetired p).keys = s.keys := rfl
@[simp] theorem State.countRetired_leasesHeld (s : State) (p : Nat) : (s.countRetired p).leasesHeld = s.leasesHeld := rfl
@[simp] theorem State.countRetired_leasesGranted (s : State) (p : Nat) : (s.countRetired p).leasesGranted = s.leasesGranted := rfl
@[simp] theorem State.countRetired_mgmt (s : State) (p : Nat) : (s.countRetired p).mgmt = s.mgmt := rfl
@[simp] theorem State.countRetired_power (s : State) (p : Nat) : (s.countRetired p).power = s.power := rfl
@[simp] theorem State.countRetired_objectSerial (s : State) (p : Nat) : (s.countRetired p).objectSerial = s.objectSerial := rfl
@[simp] theorem State.countRetired_failedPorts (s : State) (p : Nat) : (s.countRetired p).failedPorts = s.failedPorts := rfl
@[simp] theorem State.countRetired_reply (s : State) (p : Nat) : (s.countRetired p).reply = s.reply := rfl
@[simp] theorem State.countRetired_events (s : State) (p : Nat) : (s.countRetired p).events = s.events := rfl
@[simp] theorem State.countRetired_inbox (s : State) (p : Nat) : (s.countRetired p).inbox = s.inbox := rfl
@[simp] theorem State.countRetired_cur (s : State) (p : Nat) : (s.countRetired p).cur = s.cur := rfl

/-! ### State.countEmulated -/

@[simp] theorem State.countEmulated_mem (s : State) (p : Nat) : (s.countEmulated p).mem = s.mem := rfl
@[simp] theorem State.countEmulated_homes (s : State) (p : Nat) : (s.countEmulated p).homes = s.homes := rfl
@[simp] theorem State.countEmulated_poison (s : State) (p : Nat) : (s.countEmulated p).poison = s.poison := rfl
@[simp] theorem State.countEmulated_timedOut (s : State) (p : Nat) : (s.countEmulated p).timedOut = s.timedOut := rfl
@[simp] theorem State.countEmulated_outNow (s : State) (p : Nat) : (s.countEmulated p).outNow = s.outNow := rfl
@[simp] theorem State.countEmulated_broken (s : State) (p : Nat) : (s.countEmulated p).broken = s.broken := rfl
@[simp] theorem State.countEmulated_hist (s : State) (p : Nat) : (s.countEmulated p).hist = s.hist := rfl
@[simp] theorem State.countEmulated_seq (s : State) (p : Nat) : (s.countEmulated p).seq = s.seq := rfl
@[simp] theorem State.countEmulated_free (s : State) (p : Nat) : (s.countEmulated p).free = s.free := rfl
@[simp] theorem State.countEmulated_cycle (s : State) (p : Nat) : (s.countEmulated p).cycle = s.cycle := rfl
@[simp] theorem State.countEmulated_teams (s : State) (p : Nat) : (s.countEmulated p).teams = s.teams := rfl
@[simp] theorem State.countEmulated_groups (s : State) (p : Nat) : (s.countEmulated p).groups = s.groups := rfl
@[simp] theorem State.countEmulated_grids (s : State) (p : Nat) : (s.countEmulated p).grids = s.grids := rfl
@[simp] theorem State.countEmulated_cmds (s : State) (p : Nat) : (s.countEmulated p).cmds = s.cmds := rfl
@[simp] theorem State.countEmulated_halls (s : State) (p : Nat) : (s.countEmulated p).halls = s.halls := rfl
@[simp] theorem State.countEmulated_keys (s : State) (p : Nat) : (s.countEmulated p).keys = s.keys := rfl
@[simp] theorem State.countEmulated_leasesHeld (s : State) (p : Nat) : (s.countEmulated p).leasesHeld = s.leasesHeld := rfl
@[simp] theorem State.countEmulated_leasesGranted (s : State) (p : Nat) : (s.countEmulated p).leasesGranted = s.leasesGranted := rfl
@[simp] theorem State.countEmulated_mgmt (s : State) (p : Nat) : (s.countEmulated p).mgmt = s.mgmt := rfl
@[simp] theorem State.countEmulated_power (s : State) (p : Nat) : (s.countEmulated p).power = s.power := rfl
@[simp] theorem State.countEmulated_objectSerial (s : State) (p : Nat) : (s.countEmulated p).objectSerial = s.objectSerial := rfl
@[simp] theorem State.countEmulated_failedPorts (s : State) (p : Nat) : (s.countEmulated p).failedPorts = s.failedPorts := rfl
@[simp] theorem State.countEmulated_reply (s : State) (p : Nat) : (s.countEmulated p).reply = s.reply := rfl
@[simp] theorem State.countEmulated_events (s : State) (p : Nat) : (s.countEmulated p).events = s.events := rfl
@[simp] theorem State.countEmulated_inbox (s : State) (p : Nat) : (s.countEmulated p).inbox = s.inbox := rfl
@[simp] theorem State.countEmulated_cur (s : State) (p : Nat) : (s.countEmulated p).cur = s.cur := rfl

/-! ### State.yieldAfter -/

@[simp] theorem State.yieldAfter_mem (s : State) (c : Cx) : (s.yieldAfter c).mem = s.mem := rfl
@[simp] theorem State.yieldAfter_homes (s : State) (c : Cx) : (s.yieldAfter c).homes = s.homes := rfl
@[simp] theorem State.yieldAfter_poison (s : State) (c : Cx) : (s.yieldAfter c).poison = s.poison := rfl
@[simp] theorem State.yieldAfter_timedOut (s : State) (c : Cx) : (s.yieldAfter c).timedOut = s.timedOut := rfl
@[simp] theorem State.yieldAfter_outNow (s : State) (c : Cx) : (s.yieldAfter c).outNow = s.outNow := rfl
@[simp] theorem State.yieldAfter_broken (s : State) (c : Cx) : (s.yieldAfter c).broken = s.broken := rfl
@[simp] theorem State.yieldAfter_hist (s : State) (c : Cx) : (s.yieldAfter c).hist = s.hist := rfl
@[simp] theorem State.yieldAfter_seq (s : State) (c : Cx) : (s.yieldAfter c).seq = s.seq := rfl
@[simp] theorem State.yieldAfter_free (s : State) (c : Cx) : (s.yieldAfter c).free = s.free := rfl
@[simp] theorem State.yieldAfter_cycle (s : State) (c : Cx) : (s.yieldAfter c).cycle = s.cycle := rfl
@[simp] theorem State.yieldAfter_parts (s : State) (c : Cx) : (s.yieldAfter c).parts = s.parts := rfl
@[simp] theorem State.yieldAfter_teams (s : State) (c : Cx) : (s.yieldAfter c).teams = s.teams := rfl
@[simp] theorem State.yieldAfter_grids (s : State) (c : Cx) : (s.yieldAfter c).grids = s.grids := rfl
@[simp] theorem State.yieldAfter_cmds (s : State) (c : Cx) : (s.yieldAfter c).cmds = s.cmds := rfl
@[simp] theorem State.yieldAfter_halls (s : State) (c : Cx) : (s.yieldAfter c).halls = s.halls := rfl
@[simp] theorem State.yieldAfter_keys (s : State) (c : Cx) : (s.yieldAfter c).keys = s.keys := rfl
@[simp] theorem State.yieldAfter_leasesHeld (s : State) (c : Cx) : (s.yieldAfter c).leasesHeld = s.leasesHeld := rfl
@[simp] theorem State.yieldAfter_leasesGranted (s : State) (c : Cx) : (s.yieldAfter c).leasesGranted = s.leasesGranted := rfl
@[simp] theorem State.yieldAfter_mgmt (s : State) (c : Cx) : (s.yieldAfter c).mgmt = s.mgmt := rfl
@[simp] theorem State.yieldAfter_power (s : State) (c : Cx) : (s.yieldAfter c).power = s.power := rfl
@[simp] theorem State.yieldAfter_objectSerial (s : State) (c : Cx) : (s.yieldAfter c).objectSerial = s.objectSerial := rfl
@[simp] theorem State.yieldAfter_failedPorts (s : State) (c : Cx) : (s.yieldAfter c).failedPorts = s.failedPorts := rfl
@[simp] theorem State.yieldAfter_reply (s : State) (c : Cx) : (s.yieldAfter c).reply = s.reply := rfl
@[simp] theorem State.yieldAfter_events (s : State) (c : Cx) : (s.yieldAfter c).events = s.events := rfl
@[simp] theorem State.yieldAfter_inbox (s : State) (c : Cx) : (s.yieldAfter c).inbox = s.inbox := rfl
@[simp] theorem State.yieldAfter_cur (s : State) (c : Cx) : (s.yieldAfter c).cur = s.cur := rfl

/-! ### State.retire -/

@[simp] theorem State.retire_mem (s : State) (c : Cx) : (s.retire c).mem = s.mem := rfl
@[simp] theorem State.retire_homes (s : State) (c : Cx) : (s.retire c).homes = s.homes := rfl
@[simp] theorem State.retire_poison (s : State) (c : Cx) : (s.retire c).poison = s.poison := rfl
@[simp] theorem State.retire_timedOut (s : State) (c : Cx) : (s.retire c).timedOut = s.timedOut := rfl
@[simp] theorem State.retire_outNow (s : State) (c : Cx) : (s.retire c).outNow = s.outNow := rfl
@[simp] theorem State.retire_broken (s : State) (c : Cx) : (s.retire c).broken = s.broken := rfl
@[simp] theorem State.retire_hist (s : State) (c : Cx) : (s.retire c).hist = s.hist := rfl
@[simp] theorem State.retire_seq (s : State) (c : Cx) : (s.retire c).seq = s.seq := rfl
@[simp] theorem State.retire_free (s : State) (c : Cx) : (s.retire c).free = s.free := rfl
@[simp] theorem State.retire_cycle (s : State) (c : Cx) : (s.retire c).cycle = s.cycle := rfl
@[simp] theorem State.retire_teams (s : State) (c : Cx) : (s.retire c).teams = s.teams := rfl
@[simp] theorem State.retire_grids (s : State) (c : Cx) : (s.retire c).grids = s.grids := rfl
@[simp] theorem State.retire_cmds (s : State) (c : Cx) : (s.retire c).cmds = s.cmds := rfl
@[simp] theorem State.retire_halls (s : State) (c : Cx) : (s.retire c).halls = s.halls := rfl
@[simp] theorem State.retire_keys (s : State) (c : Cx) : (s.retire c).keys = s.keys := rfl
@[simp] theorem State.retire_leasesHeld (s : State) (c : Cx) : (s.retire c).leasesHeld = s.leasesHeld := rfl
@[simp] theorem State.retire_leasesGranted (s : State) (c : Cx) : (s.retire c).leasesGranted = s.leasesGranted := rfl
@[simp] theorem State.retire_mgmt (s : State) (c : Cx) : (s.retire c).mgmt = s.mgmt := rfl
@[simp] theorem State.retire_power (s : State) (c : Cx) : (s.retire c).power = s.power := rfl
@[simp] theorem State.retire_objectSerial (s : State) (c : Cx) : (s.retire c).objectSerial = s.objectSerial := rfl
@[simp] theorem State.retire_failedPorts (s : State) (c : Cx) : (s.retire c).failedPorts = s.failedPorts := rfl
@[simp] theorem State.retire_reply (s : State) (c : Cx) : (s.retire c).reply = s.reply := rfl
@[simp] theorem State.retire_events (s : State) (c : Cx) : (s.retire c).events = s.events := rfl
@[simp] theorem State.retire_inbox (s : State) (c : Cx) : (s.retire c).inbox = s.inbox := rfl
@[simp] theorem State.retire_cur (s : State) (c : Cx) : (s.retire c).cur = s.cur := rfl

/-! ### State.retireTo -/

@[simp] theorem State.retireTo_mem (s : State) (c : Cx) (dst : CodeRef) : (s.retireTo c dst).mem = s.mem := rfl
@[simp] theorem State.retireTo_homes (s : State) (c : Cx) (dst : CodeRef) : (s.retireTo c dst).homes = s.homes := rfl
@[simp] theorem State.retireTo_poison (s : State) (c : Cx) (dst : CodeRef) : (s.retireTo c dst).poison = s.poison := rfl
@[simp] theorem State.retireTo_timedOut (s : State) (c : Cx) (dst : CodeRef) : (s.retireTo c dst).timedOut = s.timedOut := rfl
@[simp] theorem State.retireTo_outNow (s : State) (c : Cx) (dst : CodeRef) : (s.retireTo c dst).outNow = s.outNow := rfl
@[simp] theorem State.retireTo_broken (s : State) (c : Cx) (dst : CodeRef) : (s.retireTo c dst).broken = s.broken := rfl
@[simp] theorem State.retireTo_hist (s : State) (c : Cx) (dst : CodeRef) : (s.retireTo c dst).hist = s.hist := rfl
@[simp] theorem State.retireTo_seq (s : State) (c : Cx) (dst : CodeRef) : (s.retireTo c dst).seq = s.seq := rfl
@[simp] theorem State.retireTo_free (s : State) (c : Cx) (dst : CodeRef) : (s.retireTo c dst).free = s.free := rfl
@[simp] theorem State.retireTo_cycle (s : State) (c : Cx) (dst : CodeRef) : (s.retireTo c dst).cycle = s.cycle := rfl
@[simp] theorem State.retireTo_teams (s : State) (c : Cx) (dst : CodeRef) : (s.retireTo c dst).teams = s.teams := rfl
@[simp] theorem State.retireTo_grids (s : State) (c : Cx) (dst : CodeRef) : (s.retireTo c dst).grids = s.grids := rfl
@[simp] theorem State.retireTo_cmds (s : State) (c : Cx) (dst : CodeRef) : (s.retireTo c dst).cmds = s.cmds := rfl
@[simp] theorem State.retireTo_halls (s : State) (c : Cx) (dst : CodeRef) : (s.retireTo c dst).halls = s.halls := rfl
@[simp] theorem State.retireTo_keys (s : State) (c : Cx) (dst : CodeRef) : (s.retireTo c dst).keys = s.keys := rfl
@[simp] theorem State.retireTo_leasesHeld (s : State) (c : Cx) (dst : CodeRef) : (s.retireTo c dst).leasesHeld = s.leasesHeld := rfl
@[simp] theorem State.retireTo_leasesGranted (s : State) (c : Cx) (dst : CodeRef) : (s.retireTo c dst).leasesGranted = s.leasesGranted := rfl
@[simp] theorem State.retireTo_mgmt (s : State) (c : Cx) (dst : CodeRef) : (s.retireTo c dst).mgmt = s.mgmt := rfl
@[simp] theorem State.retireTo_power (s : State) (c : Cx) (dst : CodeRef) : (s.retireTo c dst).power = s.power := rfl
@[simp] theorem State.retireTo_objectSerial (s : State) (c : Cx) (dst : CodeRef) : (s.retireTo c dst).objectSerial = s.objectSerial := rfl
@[simp] theorem State.retireTo_failedPorts (s : State) (c : Cx) (dst : CodeRef) : (s.retireTo c dst).failedPorts = s.failedPorts := rfl
@[simp] theorem State.retireTo_reply (s : State) (c : Cx) (dst : CodeRef) : (s.retireTo c dst).reply = s.reply := rfl
@[simp] theorem State.retireTo_events (s : State) (c : Cx) (dst : CodeRef) : (s.retireTo c dst).events = s.events := rfl
@[simp] theorem State.retireTo_inbox (s : State) (c : Cx) (dst : CodeRef) : (s.retireTo c dst).inbox = s.inbox := rfl
@[simp] theorem State.retireTo_cur (s : State) (c : Cx) (dst : CodeRef) : (s.retireTo c dst).cur = s.cur := rfl

/-! ### State.closeRegion -/

@[simp] theorem State.closeRegion_mem (s : State) (c : Cx) : (s.closeRegion c).mem = s.mem := rfl
@[simp] theorem State.closeRegion_homes (s : State) (c : Cx) : (s.closeRegion c).homes = s.homes := rfl
@[simp] theorem State.closeRegion_poison (s : State) (c : Cx) : (s.closeRegion c).poison = s.poison := rfl
@[simp] theorem State.closeRegion_timedOut (s : State) (c : Cx) : (s.closeRegion c).timedOut = s.timedOut := rfl
@[simp] theorem State.closeRegion_outNow (s : State) (c : Cx) : (s.closeRegion c).outNow = s.outNow := rfl
@[simp] theorem State.closeRegion_broken (s : State) (c : Cx) : (s.closeRegion c).broken = s.broken := rfl
@[simp] theorem State.closeRegion_hist (s : State) (c : Cx) : (s.closeRegion c).hist = s.hist := rfl
@[simp] theorem State.closeRegion_seq (s : State) (c : Cx) : (s.closeRegion c).seq = s.seq := rfl
@[simp] theorem State.closeRegion_free (s : State) (c : Cx) : (s.closeRegion c).free = s.free := rfl
@[simp] theorem State.closeRegion_cycle (s : State) (c : Cx) : (s.closeRegion c).cycle = s.cycle := rfl
@[simp] theorem State.closeRegion_parts (s : State) (c : Cx) : (s.closeRegion c).parts = s.parts := rfl
@[simp] theorem State.closeRegion_teams (s : State) (c : Cx) : (s.closeRegion c).teams = s.teams := rfl
@[simp] theorem State.closeRegion_grids (s : State) (c : Cx) : (s.closeRegion c).grids = s.grids := rfl
@[simp] theorem State.closeRegion_cmds (s : State) (c : Cx) : (s.closeRegion c).cmds = s.cmds := rfl
@[simp] theorem State.closeRegion_halls (s : State) (c : Cx) : (s.closeRegion c).halls = s.halls := rfl
@[simp] theorem State.closeRegion_keys (s : State) (c : Cx) : (s.closeRegion c).keys = s.keys := rfl
@[simp] theorem State.closeRegion_leasesHeld (s : State) (c : Cx) : (s.closeRegion c).leasesHeld = s.leasesHeld := rfl
@[simp] theorem State.closeRegion_leasesGranted (s : State) (c : Cx) : (s.closeRegion c).leasesGranted = s.leasesGranted := rfl
@[simp] theorem State.closeRegion_mgmt (s : State) (c : Cx) : (s.closeRegion c).mgmt = s.mgmt := rfl
@[simp] theorem State.closeRegion_power (s : State) (c : Cx) : (s.closeRegion c).power = s.power := rfl
@[simp] theorem State.closeRegion_objectSerial (s : State) (c : Cx) : (s.closeRegion c).objectSerial = s.objectSerial := rfl
@[simp] theorem State.closeRegion_failedPorts (s : State) (c : Cx) : (s.closeRegion c).failedPorts = s.failedPorts := rfl
@[simp] theorem State.closeRegion_reply (s : State) (c : Cx) : (s.closeRegion c).reply = s.reply := rfl
@[simp] theorem State.closeRegion_events (s : State) (c : Cx) : (s.closeRegion c).events = s.events := rfl
@[simp] theorem State.closeRegion_inbox (s : State) (c : Cx) : (s.closeRegion c).inbox = s.inbox := rfl
@[simp] theorem State.closeRegion_cur (s : State) (c : Cx) : (s.closeRegion c).cur = s.cur := rfl

/-! ### State.endRegion -/

@[simp] theorem State.endRegion_mem (s : State) (c : Cx) : (s.endRegion c).mem = s.mem := rfl
@[simp] theorem State.endRegion_homes (s : State) (c : Cx) : (s.endRegion c).homes = s.homes := rfl
@[simp] theorem State.endRegion_poison (s : State) (c : Cx) : (s.endRegion c).poison = s.poison := rfl
@[simp] theorem State.endRegion_timedOut (s : State) (c : Cx) : (s.endRegion c).timedOut = s.timedOut := rfl
@[simp] theorem State.endRegion_outNow (s : State) (c : Cx) : (s.endRegion c).outNow = s.outNow := rfl
@[simp] theorem State.endRegion_broken (s : State) (c : Cx) : (s.endRegion c).broken = s.broken := rfl
@[simp] theorem State.endRegion_hist (s : State) (c : Cx) : (s.endRegion c).hist = s.hist := rfl
@[simp] theorem State.endRegion_seq (s : State) (c : Cx) : (s.endRegion c).seq = s.seq := rfl
@[simp] theorem State.endRegion_free (s : State) (c : Cx) : (s.endRegion c).free = s.free := rfl
@[simp] theorem State.endRegion_cycle (s : State) (c : Cx) : (s.endRegion c).cycle = s.cycle := rfl
@[simp] theorem State.endRegion_parts (s : State) (c : Cx) : (s.endRegion c).parts = s.parts := rfl
@[simp] theorem State.endRegion_teams (s : State) (c : Cx) : (s.endRegion c).teams = s.teams := rfl
@[simp] theorem State.endRegion_grids (s : State) (c : Cx) : (s.endRegion c).grids = s.grids := rfl
@[simp] theorem State.endRegion_cmds (s : State) (c : Cx) : (s.endRegion c).cmds = s.cmds := rfl
@[simp] theorem State.endRegion_halls (s : State) (c : Cx) : (s.endRegion c).halls = s.halls := rfl
@[simp] theorem State.endRegion_keys (s : State) (c : Cx) : (s.endRegion c).keys = s.keys := rfl
@[simp] theorem State.endRegion_leasesHeld (s : State) (c : Cx) : (s.endRegion c).leasesHeld = s.leasesHeld := rfl
@[simp] theorem State.endRegion_leasesGranted (s : State) (c : Cx) : (s.endRegion c).leasesGranted = s.leasesGranted := rfl
@[simp] theorem State.endRegion_mgmt (s : State) (c : Cx) : (s.endRegion c).mgmt = s.mgmt := rfl
@[simp] theorem State.endRegion_power (s : State) (c : Cx) : (s.endRegion c).power = s.power := rfl
@[simp] theorem State.endRegion_objectSerial (s : State) (c : Cx) : (s.endRegion c).objectSerial = s.objectSerial := rfl
@[simp] theorem State.endRegion_failedPorts (s : State) (c : Cx) : (s.endRegion c).failedPorts = s.failedPorts := rfl
@[simp] theorem State.endRegion_reply (s : State) (c : Cx) : (s.endRegion c).reply = s.reply := rfl
@[simp] theorem State.endRegion_events (s : State) (c : Cx) : (s.endRegion c).events = s.events := rfl
@[simp] theorem State.endRegion_inbox (s : State) (c : Cx) : (s.endRegion c).inbox = s.inbox := rfl
@[simp] theorem State.endRegion_cur (s : State) (c : Cx) : (s.endRegion c).cur = s.cur := rfl

/-! ### State.holdWord -/

@[simp] theorem State.holdWord_mem (s : State) (c : Cx) (w : Wait) : (s.holdWord c w).mem = s.mem := rfl
@[simp] theorem State.holdWord_homes (s : State) (c : Cx) (w : Wait) : (s.holdWord c w).homes = s.homes := rfl
@[simp] theorem State.holdWord_poison (s : State) (c : Cx) (w : Wait) : (s.holdWord c w).poison = s.poison := rfl
@[simp] theorem State.holdWord_timedOut (s : State) (c : Cx) (w : Wait) : (s.holdWord c w).timedOut = s.timedOut := rfl
@[simp] theorem State.holdWord_outNow (s : State) (c : Cx) (w : Wait) : (s.holdWord c w).outNow = s.outNow := rfl
@[simp] theorem State.holdWord_broken (s : State) (c : Cx) (w : Wait) : (s.holdWord c w).broken = s.broken := rfl
@[simp] theorem State.holdWord_hist (s : State) (c : Cx) (w : Wait) : (s.holdWord c w).hist = s.hist := rfl
@[simp] theorem State.holdWord_seq (s : State) (c : Cx) (w : Wait) : (s.holdWord c w).seq = s.seq := rfl
@[simp] theorem State.holdWord_free (s : State) (c : Cx) (w : Wait) : (s.holdWord c w).free = s.free := rfl
@[simp] theorem State.holdWord_cycle (s : State) (c : Cx) (w : Wait) : (s.holdWord c w).cycle = s.cycle := rfl
@[simp] theorem State.holdWord_parts (s : State) (c : Cx) (w : Wait) : (s.holdWord c w).parts = s.parts := rfl
@[simp] theorem State.holdWord_teams (s : State) (c : Cx) (w : Wait) : (s.holdWord c w).teams = s.teams := rfl
@[simp] theorem State.holdWord_grids (s : State) (c : Cx) (w : Wait) : (s.holdWord c w).grids = s.grids := rfl
@[simp] theorem State.holdWord_cmds (s : State) (c : Cx) (w : Wait) : (s.holdWord c w).cmds = s.cmds := rfl
@[simp] theorem State.holdWord_halls (s : State) (c : Cx) (w : Wait) : (s.holdWord c w).halls = s.halls := rfl
@[simp] theorem State.holdWord_keys (s : State) (c : Cx) (w : Wait) : (s.holdWord c w).keys = s.keys := rfl
@[simp] theorem State.holdWord_leasesHeld (s : State) (c : Cx) (w : Wait) : (s.holdWord c w).leasesHeld = s.leasesHeld := rfl
@[simp] theorem State.holdWord_leasesGranted (s : State) (c : Cx) (w : Wait) : (s.holdWord c w).leasesGranted = s.leasesGranted := rfl
@[simp] theorem State.holdWord_mgmt (s : State) (c : Cx) (w : Wait) : (s.holdWord c w).mgmt = s.mgmt := rfl
@[simp] theorem State.holdWord_power (s : State) (c : Cx) (w : Wait) : (s.holdWord c w).power = s.power := rfl
@[simp] theorem State.holdWord_objectSerial (s : State) (c : Cx) (w : Wait) : (s.holdWord c w).objectSerial = s.objectSerial := rfl
@[simp] theorem State.holdWord_failedPorts (s : State) (c : Cx) (w : Wait) : (s.holdWord c w).failedPorts = s.failedPorts := rfl
@[simp] theorem State.holdWord_reply (s : State) (c : Cx) (w : Wait) : (s.holdWord c w).reply = s.reply := rfl
@[simp] theorem State.holdWord_events (s : State) (c : Cx) (w : Wait) : (s.holdWord c w).events = s.events := rfl
@[simp] theorem State.holdWord_inbox (s : State) (c : Cx) (w : Wait) : (s.holdWord c w).inbox = s.inbox := rfl
@[simp] theorem State.holdWord_cur (s : State) (c : Cx) (w : Wait) : (s.holdWord c w).cur = s.cur := rfl

/-! ### Regs.setV -/

@[simp] theorem Regs.setV_v (r : Regs) (n : Nat) (x : Lanes Word) : (r.setV n x).v = r.v.setIfInBounds n x := rfl
@[simp] theorem Regs.setV_s (r : Regs) (n : Nat) (x : Lanes Word) : (r.setV n x).s = r.s := rfl
@[simp] theorem Regs.setV_g (r : Regs) (n : Nat) (x : Lanes Word) : (r.setV n x).g = r.g := rfl
@[simp] theorem Regs.setV_xp (r : Regs) (n : Nat) (x : Lanes Word) : (r.setV n x).xp = r.xp := rfl
@[simp] theorem Regs.setV_b (r : Regs) (n : Nat) (x : Lanes Word) : (r.setV n x).b = r.b := rfl
@[simp] theorem Regs.setV_bOk (r : Regs) (n : Nat) (x : Lanes Word) : (r.setV n x).bOk = r.bOk := rfl
@[simp] theorem Regs.setV_tb (r : Regs) (n : Nat) (x : Lanes Word) : (r.setV n x).tb = r.tb := rfl

/-! ### Regs.setS -/

@[simp] theorem Regs.setS_v (r : Regs) (n : Nat) (x : Word) : (r.setS n x).v = r.v := rfl
@[simp] theorem Regs.setS_s (r : Regs) (n : Nat) (x : Word) : (r.setS n x).s = r.s.setIfInBounds n x := rfl
@[simp] theorem Regs.setS_g (r : Regs) (n : Nat) (x : Word) : (r.setS n x).g = r.g := rfl
@[simp] theorem Regs.setS_xp (r : Regs) (n : Nat) (x : Word) : (r.setS n x).xp = r.xp := rfl
@[simp] theorem Regs.setS_b (r : Regs) (n : Nat) (x : Word) : (r.setS n x).b = r.b := rfl
@[simp] theorem Regs.setS_bOk (r : Regs) (n : Nat) (x : Word) : (r.setS n x).bOk = r.bOk := rfl
@[simp] theorem Regs.setS_tb (r : Regs) (n : Nat) (x : Word) : (r.setS n x).tb = r.tb := rfl

/-! ### Regs.setG -/

@[simp] theorem Regs.setG_v (r : Regs) (n : BitVec 3) (x : LaneMask) : (r.setG n x).v = r.v := rfl
@[simp] theorem Regs.setG_s (r : Regs) (n : BitVec 3) (x : LaneMask) : (r.setG n x).s = r.s := rfl
@[simp] theorem Regs.setG_g (r : Regs) (n : BitVec 3) (x : LaneMask) : (r.setG n x).g = r.g.setIfInBounds n.toNat x := rfl
@[simp] theorem Regs.setG_xp (r : Regs) (n : BitVec 3) (x : LaneMask) : (r.setG n x).xp = r.xp := rfl
@[simp] theorem Regs.setG_b (r : Regs) (n : BitVec 3) (x : LaneMask) : (r.setG n x).b = r.b := rfl
@[simp] theorem Regs.setG_bOk (r : Regs) (n : BitVec 3) (x : LaneMask) : (r.setG n x).bOk = r.bOk := rfl
@[simp] theorem Regs.setG_tb (r : Regs) (n : BitVec 3) (x : LaneMask) : (r.setG n x).tb = r.tb := rfl

/-! ### Regs.setTb -/

@[simp] theorem Regs.setTb_v (r : Regs) (n : BitVec 3) (x : TbReg) : (r.setTb n x).v = r.v := rfl
@[simp] theorem Regs.setTb_s (r : Regs) (n : BitVec 3) (x : TbReg) : (r.setTb n x).s = r.s := rfl
@[simp] theorem Regs.setTb_g (r : Regs) (n : BitVec 3) (x : TbReg) : (r.setTb n x).g = r.g := rfl
@[simp] theorem Regs.setTb_xp (r : Regs) (n : BitVec 3) (x : TbReg) : (r.setTb n x).xp = r.xp := rfl
@[simp] theorem Regs.setTb_b (r : Regs) (n : BitVec 3) (x : TbReg) : (r.setTb n x).b = r.b := rfl
@[simp] theorem Regs.setTb_bOk (r : Regs) (n : BitVec 3) (x : TbReg) : (r.setTb n x).bOk = r.bOk := rfl
@[simp] theorem Regs.setTb_tb (r : Regs) (n : BitVec 3) (x : TbReg) : (r.setTb n x).tb = r.tb.set n.toNat x n.isLt := rfl

/-! ### Regs.loseLatches -/

@[simp] theorem Regs.loseLatches_v (r : Regs) : (r.loseLatches).v = r.v := rfl
@[simp] theorem Regs.loseLatches_s (r : Regs) : (r.loseLatches).s = r.s := rfl
@[simp] theorem Regs.loseLatches_g (r : Regs) : (r.loseLatches).g = r.g := rfl
@[simp] theorem Regs.loseLatches_xp (r : Regs) : (r.loseLatches).xp = r.xp := rfl
@[simp] theorem Regs.loseLatches_b (r : Regs) : (r.loseLatches).b = r.b := rfl
@[simp] theorem Regs.loseLatches_bOk (r : Regs) : (r.loseLatches).bOk = Vector.replicate 4 false := rfl
@[simp] theorem Regs.loseLatches_tb (r : Regs) : (r.loseLatches).tb = r.tb := rfl

/-! ### Regs.pushLatch -/

@[simp] theorem Regs.pushLatch_v (r : Regs) (x : Lanes DWord) : (r.pushLatch x).v = r.v := rfl
@[simp] theorem Regs.pushLatch_s (r : Regs) (x : Lanes DWord) : (r.pushLatch x).s = r.s := rfl
@[simp] theorem Regs.pushLatch_g (r : Regs) (x : Lanes DWord) : (r.pushLatch x).g = r.g := rfl
@[simp] theorem Regs.pushLatch_xp (r : Regs) (x : Lanes DWord) : (r.pushLatch x).xp = r.xp := rfl
@[simp] theorem Regs.pushLatch_b (r : Regs) (x : Lanes DWord) : (r.pushLatch x).b = #v[x, r.b[0], r.b[1], r.b[2]] := rfl
@[simp] theorem Regs.pushLatch_bOk (r : Regs) (x : Lanes DWord) : (r.pushLatch x).bOk = #v[true, r.bOk[0], r.bOk[1], r.bOk[2]] := rfl
@[simp] theorem Regs.pushLatch_tb (r : Regs) (x : Lanes DWord) : (r.pushLatch x).tb = r.tb := rfl

/-! ### Regs.setPair -/

@[simp] theorem Regs.setPair_v (r : Regs) (n : Nat) (x : DWord) : (r.setPair n x).v = r.v := rfl
@[simp] theorem Regs.setPair_s (r : Regs) (n : Nat) (x : DWord) : (r.setPair n x).s = (r.s.setIfInBounds n (loWord x)).setIfInBounds (n + 1) (hiWord x) := rfl
@[simp] theorem Regs.setPair_g (r : Regs) (n : Nat) (x : DWord) : (r.setPair n x).g = r.g := rfl
@[simp] theorem Regs.setPair_xp (r : Regs) (n : Nat) (x : DWord) : (r.setPair n x).xp = r.xp := rfl
@[simp] theorem Regs.setPair_b (r : Regs) (n : Nat) (x : DWord) : (r.setPair n x).b = r.b := rfl
@[simp] theorem Regs.setPair_bOk (r : Regs) (n : Nat) (x : DWord) : (r.setPair n x).bOk = r.bOk := rfl
@[simp] theorem Regs.setPair_tb (r : Regs) (n : Nat) (x : DWord) : (r.setPair n x).tb = r.tb := rfl

/-! ### Group.settle -/

@[simp] theorem Group.settle_team (g : Group) : (g.settle).team = g.team := rfl
@[simp] theorem Group.settle_id (g : Group) : (g.settle).id = g.id := rfl
@[simp] theorem Group.settle_ctrl (g : Group) : (g.settle).ctrl = g.ctrl := rfl
@[simp] theorem Group.settle_ctxs (g : Group) : (g.settle).ctxs = g.ctxs := rfl
@[simp] theorem Group.settle_land (g : Group) : (g.settle).land = g.land := rfl
@[simp] theorem Group.settle_callRec (g : Group) : (g.settle).callRec = g.callRec := rfl
@[simp] theorem Group.settle_log (g : Group) : (g.settle).log = g.log := rfl
@[simp] theorem Group.settle_retire (g : Group) : (g.settle).retire = g.retire := rfl
@[simp] theorem Group.settle_stores (g : Group) : (g.settle).stores = g.stores := rfl
@[simp] theorem Group.settle_priv (g : Group) : (g.settle).priv = g.priv := rfl
@[simp] theorem Group.settle_beginH (g : Group) : (g.settle).beginH = g.beginH := rfl
@[simp] theorem Group.settle_beginP (g : Group) : (g.settle).beginP = g.beginP := rfl
@[simp] theorem Group.settle_beginY (g : Group) : (g.settle).beginY = g.beginY := rfl
@[simp] theorem Group.settle_region (g : Group) : (g.settle).region = g.region := rfl
@[simp] theorem Group.settle_watch (g : Group) : (g.settle).watch = g.watch := rfl
@[simp] theorem Group.settle_arrivals (g : Group) : (g.settle).arrivals = g.arrivals := rfl
@[simp] theorem Group.settle_know (g : Group) : (g.settle).know = g.know := rfl
@[simp] theorem Group.settle_left (g : Group) : (g.settle).left = g.left := rfl
@[simp] theorem Group.settle_fence (g : Group) : (g.settle).fence = g.fence := rfl
@[simp] theorem Group.settle_chain (g : Group) : (g.settle).chain = g.chain := rfl
@[simp] theorem Group.settle_phase (g : Group) : (g.settle).phase = g.phase := rfl
@[simp] theorem Group.settle_saved (g : Group) : (g.settle).saved = g.saved := rfl
@[simp] theorem Group.settle_age (g : Group) : (g.settle).age = g.age := rfl
@[simp] theorem Group.settle_late (g : Group) : (g.settle).late = g.late := rfl
@[simp] theorem Group.settle_kept (g : Group) : (g.settle).kept = g.kept := rfl

/-! ### Group.setEntry -/

@[simp] theorem Group.setEntry_team (g : Group) (k : Fin 8) (f : Entry → Entry) : (g.setEntry k f).team = g.team := rfl
@[simp] theorem Group.setEntry_id (g : Group) (k : Fin 8) (f : Entry → Entry) : (g.setEntry k f).id = g.id := rfl
@[simp] theorem Group.setEntry_regs (g : Group) (k : Fin 8) (f : Entry → Entry) : (g.setEntry k f).regs = g.regs := rfl
@[simp] theorem Group.setEntry_ctrl (g : Group) (k : Fin 8) (f : Entry → Entry) : (g.setEntry k f).ctrl = g.ctrl := rfl
@[simp] theorem Group.setEntry_ctxs (g : Group) (k : Fin 8) (f : Entry → Entry) : (g.setEntry k f).ctxs = g.ctxs := rfl
@[simp] theorem Group.setEntry_land (g : Group) (k : Fin 8) (f : Entry → Entry) : (g.setEntry k f).land = g.land := rfl
@[simp] theorem Group.setEntry_callRec (g : Group) (k : Fin 8) (f : Entry → Entry) : (g.setEntry k f).callRec = g.callRec := rfl
@[simp] theorem Group.setEntry_log (g : Group) (k : Fin 8) (f : Entry → Entry) : (g.setEntry k f).log = g.log := rfl
@[simp] theorem Group.setEntry_retire (g : Group) (k : Fin 8) (f : Entry → Entry) : (g.setEntry k f).retire = g.retire := rfl
@[simp] theorem Group.setEntry_stores (g : Group) (k : Fin 8) (f : Entry → Entry) : (g.setEntry k f).stores = g.stores := rfl
@[simp] theorem Group.setEntry_priv (g : Group) (k : Fin 8) (f : Entry → Entry) : (g.setEntry k f).priv = g.priv := rfl
@[simp] theorem Group.setEntry_beginH (g : Group) (k : Fin 8) (f : Entry → Entry) : (g.setEntry k f).beginH = g.beginH := rfl
@[simp] theorem Group.setEntry_beginP (g : Group) (k : Fin 8) (f : Entry → Entry) : (g.setEntry k f).beginP = g.beginP := rfl
@[simp] theorem Group.setEntry_beginY (g : Group) (k : Fin 8) (f : Entry → Entry) : (g.setEntry k f).beginY = g.beginY := rfl
@[simp] theorem Group.setEntry_region (g : Group) (k : Fin 8) (f : Entry → Entry) : (g.setEntry k f).region = g.region := rfl
@[simp] theorem Group.setEntry_watch (g : Group) (k : Fin 8) (f : Entry → Entry) : (g.setEntry k f).watch = g.watch := rfl
@[simp] theorem Group.setEntry_arrivals (g : Group) (k : Fin 8) (f : Entry → Entry) : (g.setEntry k f).arrivals = g.arrivals := rfl
@[simp] theorem Group.setEntry_know (g : Group) (k : Fin 8) (f : Entry → Entry) : (g.setEntry k f).know = g.know := rfl
@[simp] theorem Group.setEntry_left (g : Group) (k : Fin 8) (f : Entry → Entry) : (g.setEntry k f).left = g.left := rfl
@[simp] theorem Group.setEntry_fence (g : Group) (k : Fin 8) (f : Entry → Entry) : (g.setEntry k f).fence = g.fence := rfl
@[simp] theorem Group.setEntry_chain (g : Group) (k : Fin 8) (f : Entry → Entry) : (g.setEntry k f).chain = g.chain := rfl
@[simp] theorem Group.setEntry_phase (g : Group) (k : Fin 8) (f : Entry → Entry) : (g.setEntry k f).phase = g.phase := rfl
@[simp] theorem Group.setEntry_saved (g : Group) (k : Fin 8) (f : Entry → Entry) : (g.setEntry k f).saved = g.saved := rfl
@[simp] theorem Group.setEntry_age (g : Group) (k : Fin 8) (f : Entry → Entry) : (g.setEntry k f).age = g.age := rfl
@[simp] theorem Group.setEntry_late (g : Group) (k : Fin 8) (f : Entry → Entry) : (g.setEntry k f).late = g.late := rfl
@[simp] theorem Group.setEntry_kept (g : Group) (k : Fin 8) (f : Entry → Entry) : (g.setEntry k f).kept = g.kept := rfl

/-! ### Group.retireWord -/

@[simp] theorem Group.retireWord_team (g : Group) (k : Fin 8) (rep : Nat) : (g.retireWord k rep).team = g.team := rfl
@[simp] theorem Group.retireWord_id (g : Group) (k : Fin 8) (rep : Nat) : (g.retireWord k rep).id = g.id := rfl
@[simp] theorem Group.retireWord_ctrl (g : Group) (k : Fin 8) (rep : Nat) : (g.retireWord k rep).ctrl = g.ctrl := rfl
@[simp] theorem Group.retireWord_ctxs (g : Group) (k : Fin 8) (rep : Nat) : (g.retireWord k rep).ctxs = g.ctxs := rfl
@[simp] theorem Group.retireWord_land (g : Group) (k : Fin 8) (rep : Nat) : (g.retireWord k rep).land = g.land := rfl
@[simp] theorem Group.retireWord_callRec (g : Group) (k : Fin 8) (rep : Nat) : (g.retireWord k rep).callRec = g.callRec := rfl
@[simp] theorem Group.retireWord_log (g : Group) (k : Fin 8) (rep : Nat) : (g.retireWord k rep).log = g.log := rfl
@[simp] theorem Group.retireWord_retire (g : Group) (k : Fin 8) (rep : Nat) : (g.retireWord k rep).retire = g.retire + 1 := rfl
@[simp] theorem Group.retireWord_stores (g : Group) (k : Fin 8) (rep : Nat) : (g.retireWord k rep).stores = g.stores := rfl
@[simp] theorem Group.retireWord_priv (g : Group) (k : Fin 8) (rep : Nat) : (g.retireWord k rep).priv = g.priv := rfl
@[simp] theorem Group.retireWord_beginH (g : Group) (k : Fin 8) (rep : Nat) : (g.retireWord k rep).beginH = g.beginH := rfl
@[simp] theorem Group.retireWord_beginP (g : Group) (k : Fin 8) (rep : Nat) : (g.retireWord k rep).beginP = g.beginP := rfl
@[simp] theorem Group.retireWord_beginY (g : Group) (k : Fin 8) (rep : Nat) : (g.retireWord k rep).beginY = g.beginY := rfl
@[simp] theorem Group.retireWord_region (g : Group) (k : Fin 8) (rep : Nat) : (g.retireWord k rep).region = g.region := rfl
@[simp] theorem Group.retireWord_watch (g : Group) (k : Fin 8) (rep : Nat) : (g.retireWord k rep).watch = g.watch := rfl
@[simp] theorem Group.retireWord_arrivals (g : Group) (k : Fin 8) (rep : Nat) : (g.retireWord k rep).arrivals = g.arrivals := rfl
@[simp] theorem Group.retireWord_know (g : Group) (k : Fin 8) (rep : Nat) : (g.retireWord k rep).know = g.know := rfl
@[simp] theorem Group.retireWord_left (g : Group) (k : Fin 8) (rep : Nat) : (g.retireWord k rep).left = g.left := rfl
@[simp] theorem Group.retireWord_fence (g : Group) (k : Fin 8) (rep : Nat) : (g.retireWord k rep).fence = g.fence := rfl
@[simp] theorem Group.retireWord_chain (g : Group) (k : Fin 8) (rep : Nat) : (g.retireWord k rep).chain = g.chain := rfl
@[simp] theorem Group.retireWord_phase (g : Group) (k : Fin 8) (rep : Nat) : (g.retireWord k rep).phase = g.phase := rfl
@[simp] theorem Group.retireWord_saved (g : Group) (k : Fin 8) (rep : Nat) : (g.retireWord k rep).saved = g.saved := rfl
@[simp] theorem Group.retireWord_age (g : Group) (k : Fin 8) (rep : Nat) : (g.retireWord k rep).age = g.age := rfl
@[simp] theorem Group.retireWord_late (g : Group) (k : Fin 8) (rep : Nat) : (g.retireWord k rep).late = g.late := rfl
@[simp] theorem Group.retireWord_kept (g : Group) (k : Fin 8) (rep : Nat) : (g.retireWord k rep).kept = g.kept := rfl

/-! ### Group.retireJump -/

@[simp] theorem Group.retireJump_team (g : Group) (k : Fin 8) (dst : CodeRef) : (g.retireJump k dst).team = g.team := rfl
@[simp] theorem Group.retireJump_id (g : Group) (k : Fin 8) (dst : CodeRef) : (g.retireJump k dst).id = g.id := rfl
@[simp] theorem Group.retireJump_ctrl (g : Group) (k : Fin 8) (dst : CodeRef) : (g.retireJump k dst).ctrl = g.ctrl := rfl
@[simp] theorem Group.retireJump_ctxs (g : Group) (k : Fin 8) (dst : CodeRef) : (g.retireJump k dst).ctxs = g.ctxs := rfl
@[simp] theorem Group.retireJump_land (g : Group) (k : Fin 8) (dst : CodeRef) : (g.retireJump k dst).land = g.land := rfl
@[simp] theorem Group.retireJump_callRec (g : Group) (k : Fin 8) (dst : CodeRef) : (g.retireJump k dst).callRec = g.callRec := rfl
@[simp] theorem Group.retireJump_log (g : Group) (k : Fin 8) (dst : CodeRef) : (g.retireJump k dst).log = g.log := rfl
@[simp] theorem Group.retireJump_retire (g : Group) (k : Fin 8) (dst : CodeRef) : (g.retireJump k dst).retire = g.retire + 1 := rfl
@[simp] theorem Group.retireJump_stores (g : Group) (k : Fin 8) (dst : CodeRef) : (g.retireJump k dst).stores = g.stores := rfl
@[simp] theorem Group.retireJump_priv (g : Group) (k : Fin 8) (dst : CodeRef) : (g.retireJump k dst).priv = g.priv := rfl
@[simp] theorem Group.retireJump_beginH (g : Group) (k : Fin 8) (dst : CodeRef) : (g.retireJump k dst).beginH = g.beginH := rfl
@[simp] theorem Group.retireJump_beginP (g : Group) (k : Fin 8) (dst : CodeRef) : (g.retireJump k dst).beginP = g.beginP := rfl
@[simp] theorem Group.retireJump_beginY (g : Group) (k : Fin 8) (dst : CodeRef) : (g.retireJump k dst).beginY = g.beginY := rfl
@[simp] theorem Group.retireJump_region (g : Group) (k : Fin 8) (dst : CodeRef) : (g.retireJump k dst).region = g.region := rfl
@[simp] theorem Group.retireJump_watch (g : Group) (k : Fin 8) (dst : CodeRef) : (g.retireJump k dst).watch = g.watch := rfl
@[simp] theorem Group.retireJump_arrivals (g : Group) (k : Fin 8) (dst : CodeRef) : (g.retireJump k dst).arrivals = g.arrivals := rfl
@[simp] theorem Group.retireJump_know (g : Group) (k : Fin 8) (dst : CodeRef) : (g.retireJump k dst).know = g.know := rfl
@[simp] theorem Group.retireJump_left (g : Group) (k : Fin 8) (dst : CodeRef) : (g.retireJump k dst).left = g.left := rfl
@[simp] theorem Group.retireJump_fence (g : Group) (k : Fin 8) (dst : CodeRef) : (g.retireJump k dst).fence = g.fence := rfl
@[simp] theorem Group.retireJump_chain (g : Group) (k : Fin 8) (dst : CodeRef) : (g.retireJump k dst).chain = g.chain := rfl
@[simp] theorem Group.retireJump_phase (g : Group) (k : Fin 8) (dst : CodeRef) : (g.retireJump k dst).phase = g.phase := rfl
@[simp] theorem Group.retireJump_saved (g : Group) (k : Fin 8) (dst : CodeRef) : (g.retireJump k dst).saved = g.saved := rfl
@[simp] theorem Group.retireJump_age (g : Group) (k : Fin 8) (dst : CodeRef) : (g.retireJump k dst).age = g.age := rfl
@[simp] theorem Group.retireJump_late (g : Group) (k : Fin 8) (dst : CodeRef) : (g.retireJump k dst).late = g.late := rfl
@[simp] theorem Group.retireJump_kept (g : Group) (k : Fin 8) (dst : CodeRef) : (g.retireJump k dst).kept = g.kept := rfl

end Sys2Proof.Machine
end

