-- ==== Sys2Proof/Laws/Memory.lean ====
section
/-! SUPPORT. Memory (R38, R44; log 3): every operation keeps the canonical form, and a read after a write. -/

namespace Sys2Proof.Machine

/-! ### The canonical form -/

theorem Mem.wfFrom_mono (m : Mem) {lo hi : Nat} (h : lo ≤ hi) (w : Mem.wfFrom hi m = true) : Mem.wfFrom lo m = true := by
  cases m with
  | nil => rfl
  | cons c rest =>
    simp only [Mem.wfFrom, Bool.and_eq_true, decide_eq_true_eq] at w ⊢
    exact ⟨⟨by omega, w.1.2⟩, w.2⟩

theorem Mem.write_wfFrom (m : Mem) (a : Nat) (b : Byte) {lo : Nat} (ha : lo ≤ a) (h : Mem.wfFrom lo m = true) :
    Mem.wfFrom lo (m.write a b) = true := by
  induction m generalizing lo with
  | nil =>
    by_cases hb : b = unlisted <;> simp [Mem.write, Mem.wfFrom, hb, ha]
  | cons c rest ih =>
    obtain ⟨k, x⟩ := c
    simp only [Mem.wfFrom, Bool.and_eq_true, decide_eq_true_eq] at h
    obtain ⟨⟨hk, hx⟩, hr⟩ := h
    simp only [Mem.write]
    split
    · split
      · simp [Mem.wfFrom, hk, hr, hx]
      · rename_i h1 h2
        simp [Mem.wfFrom, ha, h2, hr, hx]
        omega
    · split
      · split
        · exact Mem.wfFrom_mono rest (by omega) hr
        · rename_i h1 h2 h3
          subst h2
          simp [Mem.wfFrom, ha, h3, hr]
      · rename_i h1 h2
        simp only [Mem.wfFrom, Bool.and_eq_true, decide_eq_true_eq]
        exact ⟨⟨hk, hx⟩, ih (by omega) hr⟩

theorem Mem.write_wf (m : Mem) (a : Nat) (b : Byte) (h : m.wf = true) : (m.write a b).wf = true :=
  Mem.write_wfFrom m a b (Nat.zero_le a) h

theorem Mem.writeN_wf (bs : List Byte) : ∀ (m : Mem) (a : Nat), m.wf = true → (m.writeN a bs).wf = true := by
  induction bs with
  | nil => intro m a h; exact h
  | cons b bs ih => intro m a h; exact ih _ _ (Mem.write_wf m a b h)

theorem Mem.writeSome_wf (bs : List (Option Byte)) : ∀ (m : Mem) (a : Nat), m.wf = true → (m.writeSome a bs).wf = true := by
  induction bs with
  | nil => intro m a h; exact h
  | cons b bs ih =>
    intro m a h
    cases b with
    | none => exact ih _ _ h
    | some b => exact ih _ _ (Mem.write_wf m a b h)

theorem Mem.filter_wfFrom (p : Host.Cell → Bool) (m : Mem) {lo : Nat} (h : Mem.wfFrom lo m = true) :
    Mem.wfFrom lo (List.filter p m) = true := by
  induction m generalizing lo with
  | nil => rfl
  | cons c rest ih =>
    obtain ⟨k, x⟩ := c
    simp only [Mem.wfFrom, Bool.and_eq_true, decide_eq_true_eq] at h
    by_cases hp : p (k, x) = true
    · simp only [List.filter, hp, Mem.wfFrom, Bool.and_eq_true, decide_eq_true_eq]
      exact ⟨h.1, ih h.2⟩
    · simp only [List.filter, hp]
      exact Mem.wfFrom_mono _ (by omega) (ih h.2)

theorem Mem.clear_wf (m : Mem) (a n : Nat) (h : m.wf = true) : (m.clear a n).wf = true := Mem.filter_wfFrom _ m h

theorem Mem.slice_wf (m : Mem) (a n : Nat) (h : m.wf = true) : (m.slice a n).wf = true := Mem.filter_wfFrom _ m h

/-! ### Reading -/

/-- Below the first listed address every byte reads as an unlisted one. -/
theorem Mem.read_below (m : Mem) {lo a : Nat} (h : Mem.wfFrom lo m = true) (ha : a < lo) : m.read a = unlisted := by
  cases m with
  | nil => rfl
  | cons c rest =>
    obtain ⟨k, x⟩ := c
    simp only [Mem.wfFrom, Bool.and_eq_true, decide_eq_true_eq] at h
    have h1 : ¬ k = a := by omega
    have h2 : a < k := by omega
    simp [Mem.read, h1, h2]

theorem Mem.read_write_same (m : Mem) (a : Nat) (b : Byte) {lo : Nat} (h : Mem.wfFrom lo m = true) : (m.write a b).read a = b := by
  induction m generalizing lo with
  | nil => by_cases hb : b = unlisted <;> simp [Mem.write, Mem.read, hb]
  | cons c rest ih =>
    obtain ⟨k, x⟩ := c
    simp only [Mem.wfFrom, Bool.and_eq_true, decide_eq_true_eq] at h
    simp only [Mem.write]
    split
    · split
      · rename_i h1 h2
        have : ¬ k = a := by omega
        simp [Mem.read, this, h1, h2]
      · simp [Mem.read]
    · split
      · split
        · rename_i h1 h2 h3
          rw [h3]
          exact Mem.read_below rest h.2 (by omega)
        · simp [Mem.read]
      · rename_i h1 h2
        simp only [Mem.read, h1, h2, if_false]
        exact ih h.2

theorem Mem.read_write_other (m : Mem) (a c : Nat) (b : Byte) (hc : c ≠ a) {lo : Nat} (h : Mem.wfFrom lo m = true) :
    (m.write a b).read c = m.read c := by
  induction m generalizing lo with
  | nil =>
    by_cases hb : b = unlisted
    · simp [Mem.write, hb]
    · simp [Mem.write, Mem.read, hb, Ne.symm hc]
  | cons d rest ih =>
    obtain ⟨k, x⟩ := d
    simp only [Mem.wfFrom, Bool.and_eq_true, decide_eq_true_eq] at h
    simp only [Mem.write]
    split
    · split
      · rfl
      · rename_i h1 h2
        have h3 : ¬ a = c := fun e => hc e.symm
        simp only [Mem.read, h3, if_false]
        split
        · rename_i h4
          have h5 : ¬ k = c := by omega
          have h6 : c < k := by omega
          simp [h5, h6]
        · rfl
    · split
      · split
        · rename_i h1 h2 h3
          subst h2
          simp only [Mem.read, Ne.symm hc, if_false]
          split
          · rename_i h4
            exact Mem.read_below rest h.2 (by omega)
          · rfl
        · rename_i h1 h2 h3
          subst h2
          simp [Mem.read, Ne.symm hc]
      · simp only [Mem.read]
        split
        · rfl
        · split
          · rfl
          · exact ih h.2

/-- A write, read back: the written byte there, every other byte as before. -/
theorem Mem.read_write (m : Mem) (a c : Nat) (b : Byte) (h : m.wf = true) : (m.write a b).read c = if c = a then b else m.read c := by
  split
  · rename_i e
    rw [e]
    exact Mem.read_write_same m a b h
  · rename_i e
    exact Mem.read_write_other m a c b e h

theorem Mem.read_writeN_outside (bs : List Byte) : ∀ (m : Mem) (a c : Nat), m.wf = true → c < a ∨ a + bs.length ≤ c →
    (m.writeN a bs).read c = m.read c := by
  induction bs with
  | nil => intro m a c _ _; rfl
  | cons b bs ih =>
    intro m a c h hc
    simp only [List.length_cons] at hc
    rw [Mem.writeN, ih _ _ _ (Mem.write_wf m a b h) (by omega), Mem.read_write_other m a c b (by omega) h]

/-! ### What changes memory, and the form -/

/-- What keeps a property at each element keeps it over a list. -/
theorem foldl_keeps {σ α : Type} (P : σ → Prop) (f : σ → α → σ) (hf : ∀ s a, P s → P (f s a)) (l : List α) :
    ∀ s : σ, P s → P (l.foldl f s) := by
  induction l with
  | nil => intro s h; exact h
  | cons a l ih => intro s h; exact ih _ (hf s a h)

@[simp] theorem State.written_mem (s : State) (g : Nat) : (s.written g).mem = s.mem := rfl

/-- R433: what a protected write finds in a sector keeps the form. -/
theorem State.reopen_wf (s : State) (sec : Nat) (h : s.mem.wf = true) : (s.reopen sec).mem.wf = true := by
  have hw := Mem.writeN_wf (s.homes.plainSector sec) s.mem (32 * sec) h
  unfold State.reopen
  generalize s.rolledBack sec = b
  cases b
  · rw [if_neg Bool.false_ne_true]; exact h
  · rw [if_pos rfl]; dsimp only; exact hw

/-- R432, R433: sealing a sector keeps the form. -/
theorem State.sealGran_wf (s : State) (k : CommitKind) (w : GranWrite) (h : s.mem.wf = true) : (s.sealGran k w).mem.wf = true := by
  unfold State.sealGran
  split
  · exact h
  · exact State.reopen_wf _ _ h

theorem State.putHome_wf (s : State) (k : CommitKind) (w : GranWrite) (h : s.mem.wf = true) : (s.putHome k w).mem.wf = true :=
  Mem.writeSome_wf _ _ _ h

@[simp] theorem State.putRaw_mem (s : State) (k : CommitKind) (w : GranWrite) : (s.putRaw k w).mem = s.mem := by
  unfold State.putRaw
  simp only
  split <;> rfl

theorem State.putThrough_wf (s : State) (k : CommitKind) (w : GranWrite) (h : s.mem.wf = true) : (s.putThrough k w).mem.wf = true := by
  have := State.putHome_wf s k w h
  unfold State.putThrough
  simp only
  split <;> exact this

/-- R421: what tracks a write keeps the form. -/
theorem State.trackGran_wf (s : State) (g : Nat) (h : s.mem.wf = true) : (s.trackGran g).mem.wf = true := by
  unfold State.trackGran
  refine foldl_keeps (fun s : State => s.mem.wf = true) _ ?_ _ _ h
  intro s p hs
  split
  · split
    · exact State.putThrough_wf s _ _ hs
    · exact hs
  · exact hs

theorem State.trackAll_wf (s : State) (gs : List Nat) (h : s.mem.wf = true) : (s.trackAll gs).mem.wf = true := by
  unfold State.trackAll
  split
  · exact foldl_keeps (fun s : State => s.mem.wf = true) _ (fun s g hs => State.trackGran_wf s g hs) _ _ h
  · exact h

/-- R252: a line that comes to L2, with what leaves for it, keeps the form. -/
theorem State.fillLine_wf (s : State) (p : Part) (prot : Bool) (va line : Nat) (valid dirty : BitVec 4) (h : s.mem.wf = true) :
    (s.fillLine p prot va line valid dirty).mem.wf = true := State.trackAll_wf _ _ h

theorem State.putL2_wf (s : State) (k : CommitKind) (w : GranWrite) (p : Part) (h : s.mem.wf = true) : (s.putL2 k w p).mem.wf = true := by
  have := State.fillLine_wf (s.putHome k w) p (s.sealer k.own w.shr w.gran).isSome w.va (w.gran / 8) (sectorBit w.gran) (sectorBit w.gran)
    (State.putHome_wf s k w h)
  unfold State.putL2
  simp only
  split <;> exact this

/-- R40: a commit of a granule keeps the form. -/
theorem State.placeGran_wf (s : State) (k : CommitKind) (w : GranWrite) (h : s.mem.wf = true) : (s.placeGran k w).mem.wf = true := by
  have hs : (s.sealGran k w).mem.wf = true := State.sealGran_wf s k w h
  unfold State.placeGran
  split
  · exact h
  · split
    · exact h
    · split
      · simpa using h
      · simp only
        split
        · split
          · exact State.putThrough_wf _ _ _ hs
          · exact State.putL2_wf _ _ _ _ hs
        · exact State.putThrough_wf _ _ _ hs

theorem State.placeGrans_wf (k : CommitKind) (ws : List GranWrite) : ∀ s : State, s.mem.wf = true → (s.placeGrans k ws).mem.wf = true := by
  induction ws with
  | nil => intro s h; exact h
  | cons w ws ih => intro s h; exact ih _ (State.placeGran_wf s k w h)

/-- R40, R421: a commit keeps the form. -/
theorem State.commit_wf (s : State) (k : CommitKind) (ws : List GranWrite) (h : s.mem.wf = true) : (s.commit k ws).mem.wf = true := by
  have h1 := State.placeGrans_wf k ws s h
  simp only [State.commit]
  split
  · exact State.trackAll_wf _ _ h1
  · exact h1

theorem State.deviceWrite_wf (s : State) (own : Option Nat) (key : Nat) (bs : List Byte) (h : s.mem.wf = true) :
    (s.deviceWrite own key bs).mem.wf = true := State.commit_wf s _ _ h

/-- R430: what is lost with a key stays as bytes in the form. -/
theorem State.loseKey_wf (s : State) (m : List Byte) (h : s.mem.wf = true) : (s.loseKey m).mem.wf = true :=
  foldl_keeps (fun m : Mem => m.wf = true) _ (fun m _ hm => Mem.writeN_wf _ m _ hm) _ _ h

/-! ### The system homes and the memory behind them -/

/-- The memories below L2 are in the form. -/
def Homes.wf (h : Homes) : Prop := h.sysMem.wf = true ∧ h.backing.wf = true

theorem copyLine_wf (source dest : Mem) (line : Nat) (h : dest.wf = true) : (copyLine source dest line).wf = true := Mem.writeN_wf _ _ _ h

/-- R252: a line that comes to a memory-side cache, with what leaves for it, keeps the form. -/
theorem Homes.fillMsc_wf (h : Homes) (free line : Nat) (dirty : Bool) (w : h.wf) : (h.fillMsc free line dirty).wf := by
  unfold Homes.fillMsc
  split
  · refine ⟨w.1, ?_⟩
    simp only
    split
    · exact copyLine_wf _ _ _ w.2
    · exact w.2
  · split
    · exact w
    · refine ⟨w.1, ?_⟩
      simp only
      split
      · split
        · exact copyLine_wf _ _ _ w.2
        · exact w.2
      · exact w.2

theorem Homes.putSector_wf (h : Homes) (sec : Nat) (plain : List Byte) (w : h.wf) : (h.putSector sec plain).wf := by
  unfold Homes.putSector
  split
  · generalize sealSector _ _ _ = c
    exact ⟨Mem.writeN_wf _ _ _ w.1, w.2⟩
  · exact ⟨Mem.writeN_wf _ _ _ w.1, w.2⟩

/-- R269: performing a granule at its system home keeps the form. -/
theorem Homes.perform_wf (h : Homes) (mem : Mem) (free gran : Nat) (w : h.wf) : (h.perform mem free gran).wf := by
  unfold Homes.perform
  refine Homes.fillMsc_wf _ _ _ _ ?_
  split
  · exact Homes.putSector_wf _ _ _ w
  · exact ⟨Mem.writeN_wf _ _ _ w.1, w.2⟩

/-- R252: a write-back keeps the form. -/
theorem Homes.writeBack_wf (h : Homes) (mem : Mem) (free : Nat) (l : L2Line) (w : h.wf) : (h.writeBack mem free l).wf := by
  unfold Homes.writeBack
  split
  · exact w
  · apply Homes.fillMsc_wf
    apply foldl_keeps Homes.wf
    · intro h i hw
      simp only
      split
      · exact Homes.putSector_wf _ _ _ hw
      · exact hw
    · exact w

/-- R254: a line that comes to L2, with what leaves for it, keeps the form of the memories below. -/
theorem Homes.fill_wf (h : Homes) (mem : Mem) (free : Nat) (f : L2Fill) (w : h.wf) : (h.fill mem free f).1.wf := by
  unfold Homes.fill
  split
  · exact Homes.writeBack_wf _ _ _ _ w
  · exact w
  · simp only
    split
    · exact Homes.writeBack_wf _ _ _ _ w
    · exact w
    · exact Homes.writeBack_wf _ _ _ _ w

theorem Homes.through_wf (h : Homes) (mem : Mem) (free : Nat) (gs : List Nat) (w : h.wf) : (h.through mem free gs).wf :=
  foldl_keeps Homes.wf _ (fun h g hw => Homes.perform_wf h mem free g hw) _ _ w

/-- Memory after reset is in its form. -/
theorem State.reset_mem_wf : State.reset.mem.wf = true := rfl

theorem State.reset_homes_wf : State.reset.homes.wf := ⟨rfl, rfl⟩

end Sys2Proof.Machine
end

