-- ==== Sys2Proof/Laws/Registers.lean ====
section
/-! SUPPORT. Reading a register after writing one. -/

namespace Sys2Proof.Machine

theorem Regs.vreg_setV_same (r : Regs) (n : Nat) (x : Lanes Word) (h : n < 128) : (r.setV n x).vreg n = x := by
  simp [Regs.vreg, Regs.setV, List.getD_eq_getElem?_getD, h]

theorem Regs.vreg_setV_other (r : Regs) (n j : Nat) (x : Lanes Word) (h : j ≠ n) : (r.setV n x).vreg j = r.vreg j := by
  simp [Regs.vreg, Regs.setV, List.getD_eq_getElem?_getD, Ne.symm h]

theorem Regs.sreg_setS_same (r : Regs) (n : Nat) (x : Word) (h : n < 48) : (r.setS n x).sreg n = x := by
  simp [Regs.sreg, Regs.setS, List.getD_eq_getElem?_getD, h]

theorem Regs.sreg_setS_other (r : Regs) (n j : Nat) (x : Word) (h : j ≠ n) : (r.setS n x).sreg j = r.sreg j := by
  simp [Regs.sreg, Regs.setS, List.getD_eq_getElem?_getD, Ne.symm h]

theorem Regs.guard_setG_same (r : Regs) (n : BitVec 3) (x : LaneMask) : (r.setG n x).guard n = x := by
  simp [Regs.guard, Regs.setG, List.getD_eq_getElem?_getD, n.isLt]

theorem Regs.guard_setG_other (r : Regs) (n j : BitVec 3) (x : LaneMask) (h : j ≠ n) : (r.setG n x).guard j = r.guard j := by
  have h' : n.toNat ≠ j.toNat := fun e => h (BitVec.eq_of_toNat_eq e.symm)
  simp [Regs.guard, Regs.setG, List.getD_eq_getElem?_getD, h']

@[simp] theorem Regs.vreg_pushLatch (r : Regs) (x : Lanes DWord) (n : Nat) : (r.pushLatch x).vreg n = r.vreg n := rfl

@[simp] theorem Regs.sreg_pushLatch (r : Regs) (x : Lanes DWord) (n : Nat) : (r.pushLatch x).sreg n = r.sreg n := rfl

@[simp] theorem Regs.vreg_loseLatches (r : Regs) (n : Nat) : r.loseLatches.vreg n = r.vreg n := rfl

@[simp] theorem Regs.sreg_loseLatches (r : Regs) (n : Nat) : r.loseLatches.sreg n = r.sreg n := rfl

theorem Regs.setV_rest (r : Regs) (n : Nat) (x : Lanes Word) : r.setV n x = { r with v := (r.setV n x).v } := rfl

/-- R70, R219: what a 32-bit lane result writes. -/
theorem Regs.laneWrite_written (nw : Bool) (d : VReg) (m : LaneMask) (res : Lanes Word) (r : Regs) :
    LaneWritten r (Regs.laneWrite nw d m res r) nw d m (Lanes.at res) := by
  have hd : d.toNat < 128 := d.isLt
  refine ⟨?_, ?_, ?_, ?_, ?_, ?_⟩
  · intro l hl
    cases nw
    · simp [Regs.laneWrite, Regs.vreg_setV_same _ _ _ hd, hl]
    · simp [Regs.laneWrite]
  · intro n hn
    cases nw
    · simp [Regs.laneWrite, Regs.vreg_setV_other _ _ _ _ hn]
    · simp [Regs.laneWrite]
  · intro l hl
    cases nw <;> simp [Regs.laneWrite, hl]
  · cases nw <;> simp [Regs.laneWrite]
  · cases nw <;> simp [Regs.laneWrite]
  · cases nw <;> rfl

theorem hiWord_pairOf (lo hi : Word) : hiWord (pairOf lo hi) = hi := by
  apply BitVec.eq_of_getLsbD_eq
  intro i h
  rw [hiWord, pairOf, BitVec.getLsbD_extractLsb', BitVec.getLsbD_append]
  simp [h]

theorem loWord_pairOf (lo hi : Word) : loWord (pairOf lo hi) = lo := by
  apply BitVec.eq_of_getLsbD_eq
  intro i h
  rw [loWord, pairOf, BitVec.getLsbD_extractLsb', BitVec.getLsbD_append]
  simp [h]

/-- R65, R70: what a 64-bit lane result writes into an even pair. -/
theorem Regs.laneWrite64_written (nw : Bool) (d : VReg) (m : LaneMask) (res : Lanes DWord) (r : Regs)
    (even : VReg.even d = true) : PairWritten r (Regs.laneWrite64 nw d m res r) nw d m (Lanes.at res) := by
  have hd : d.toNat + 1 < 128 := by
    have := d.isLt
    simp [VReg.even] at even
    omega
  have hd' : d.toNat < 128 := by omega
  refine ⟨?_, ?_, ?_, ?_, ?_, ?_, ?_⟩
  · intro l hl
    cases nw
    · rw [Regs.laneWrite64]
      simp only [Bool.false_eq_true, if_false, Regs.vreg_pushLatch]
      rw [Regs.vreg_setV_other _ _ _ _ (by omega), Regs.vreg_setV_same _ _ _ hd']
      rw [Lanes.at_map _ _ _ hl, Lanes.at_merge _ _ _ _ hl]
      cases m.getLsbD l <;> simp [hl, loWord_pairOf]
    · simp [Regs.laneWrite64]
  · intro l hl
    cases nw
    · rw [Regs.laneWrite64]
      simp only [Bool.false_eq_true, if_false, Regs.vreg_pushLatch]
      rw [Regs.vreg_setV_same _ _ _ hd]
      rw [Lanes.at_map _ _ _ hl, Lanes.at_merge _ _ _ _ hl]
      cases m.getLsbD l <;> simp [hl, hiWord_pairOf]
    · simp [Regs.laneWrite64]
  · intro n h1 h2
    cases nw
    · rw [Regs.laneWrite64]
      simp only [Bool.false_eq_true, if_false, Regs.vreg_pushLatch]
      rw [Regs.vreg_setV_other _ _ _ _ h2, Regs.vreg_setV_other _ _ _ _ h1]
    · simp [Regs.laneWrite64]
  · intro l hl
    cases nw <;> simp [Regs.laneWrite64, hl]
  · cases nw <;> simp [Regs.laneWrite64]
  · cases nw <;> simp [Regs.laneWrite64]
  · cases nw <;> rfl

/-- R164: what a scalar result writes. -/
theorem Regs.setS_written (r : Regs) (d : SReg) (x : Word) : ScalarWritten r (r.setS d.val x) d x :=
  ⟨r.sreg_setS_same d.val x d.isLt, fun n h => r.sreg_setS_other d.val n x h, rfl⟩

/-- R65, R164: what a 64-bit scalar result writes. -/
theorem Regs.setPair_written (r : Regs) (d : SReg) (x : DWord) (even : SReg.even d = true) :
    ScalarPairWritten r (r.setPair d.val x) d x := by
  have hd : d.val + 1 < 48 := by
    have := d.isLt
    simp [SReg.even] at even
    omega
  refine ⟨?_, ?_, ?_, rfl⟩
  · rw [Regs.setPair, Regs.sreg_setS_other _ _ _ _ (by omega), Regs.sreg_setS_same _ _ _ (by omega)]
  · rw [Regs.setPair, Regs.sreg_setS_same _ _ _ hd]
  · intro n h1 h2
    rw [Regs.setPair, Regs.sreg_setS_other _ _ _ _ h2, Regs.sreg_setS_other _ _ _ _ h1]

end Sys2Proof.Machine
end

