-- ==== Sys2Proof/Laws/Retire.lean ====
section
/-! SUPPORT. What the shared ends of a word do: issue, retire, transfer, and the lane and scalar results. -/

namespace Sys2Proof.Machine

/-! ### Issue -/

theorem issue_go (i : Instr) (s : State) (k : Cx → State) (c : Cx) (h : s.cx? = some c) (hc : c.check i = .go) :
    issue i s k = .next (k c) := by
  simp [issue, h, hc]

theorem issue_land (i : Instr) (s : State) (k : Cx → State) (c : Cx) (h : s.cx? = some c) (hc : c.check i = .land) :
    issue i s k = .next (s.land c (wordOfInstr i)) := by
  simp [issue, h, hc]

theorem issue_trap (i : Instr) (s : State) (k : Cx → State) (c : Cx) (cause : Cause) (ds : List Word) (h : s.cx? = some c)
    (hc : c.check i = .trap cause ds) :
    issue i s k = .next (s.spend.trap c (wordOfInstr i) cause (s.detailOf ds) 0 0) := by
  simp [issue, h, hc]

theorem issue_wait (i : Instr) (s : State) (k : Cx → State) (c : Cx) (w : Wait) (h : s.cx? = some c)
    (hc : c.check i = .wait w) : issue i s k = .next (s.holdWord c w) := by
  simp [issue, h, hc]

/-- With a context, a word always answers a next state. -/
theorem issue_next (i : Instr) (s : State) (k : Cx → State) (c : Cx) (h : s.cx? = some c) : ∃ t, issue i s k = .next t := by
  simp only [issue, h]
  split <;> exact ⟨_, rfl⟩

/-- What a context says of the state it comes from. -/
theorem cx?_spec {s : State} {c : Cx} (h : s.cx? = some c) :
    s.cur = some c.gi ∧ s.groups[c.gi]? = some c.g ∧ s.teamOf c.g = some c.t ∧ s.part? c.t.part = some c.p ∧
      c.k = c.g.ctl.cur ∧ c.g.ctl.get c.k = some c.e ∧ c.e.kind = .strand ∧ s.canRun c.g = true ∧
      c.hs = HintSet.of c.e.hints := by
  unfold State.cx? at h
  split at h
  · cases h
  · rename_i gi hgi
    split at h
    · cases h
    · rename_i g hg
      split at h
      · cases h
      · rename_i t ht
        split at h
        · cases h
        · rename_i p hp
          split at h
          · cases h
          · rename_i e he
            split at h
            · rename_i hk
              simp only [Bool.and_eq_true, beq_iff_eq] at hk
              cases h
              exact ⟨hgi, hg, ht, hp, rfl, he, hk.1, hk.2, rfl⟩
            · cases h

theorem cx?_group {s : State} {c : Cx} (h : s.cx? = some c) : s.groups[c.gi]? = some c.g := (cx?_spec h).2.1

theorem cx?_entry {s : State} {c : Cx} (h : s.cx? = some c) : c.g.ctl.get c.k = some c.e := (cx?_spec h).2.2.2.2.2.1

/-- A word whose checks pass is well formed. -/
theorem check_go_wf {c : Cx} {i : Instr} (h : c.check i = .go) : i.wf = true := by
  unfold Cx.check at h
  split at h
  · cases h
  · rename_i hc
    simp only [Bool.not_eq_true', Bool.not_eq_false, Cx.classOk, Bool.and_eq_true] at hc
    exact hc.1.1.1.1.1.1.1.1

/-! ### Groups -/

theorem updGroup_get_same (s : State) (n : Nat) (f : Group → Group) : (s.updGroup n f).groups[n]? = s.groups[n]?.map f :=
  listModify_get_same _ _ _

theorem updGroup_get_other (s : State) (n j : Nat) (f : Group → Group) (h : j ≠ n) :
    (s.updGroup n f).groups[j]? = s.groups[j]? := listModify_get_other _ _ _ _ h

theorem updGroup_comp (s : State) (n : Nat) (f g : Group → Group) :
    (s.updGroup n f).updGroup n g = s.updGroup n fun x => g (f x) := by
  simp [State.updGroup, listModify_comp]

theorem Control.put_get (c : Control) (k : Fin 8) (e : Option Entry) : (c.put k e).get k = e := by
  simp [Control.put, Control.get]

theorem Control.put_get_other (c : Control) (k j : Fin 8) (e : Option Entry) (h : j ≠ k) : (c.put k e).get j = c.get j := by
  have : k.val ≠ j.val := fun x => h (Fin.ext x.symm)
  simp [Control.put, Control.get, this]

theorem Control.put_put (c : Control) (k : Fin 8) (a b : Option Entry) : (c.put k a).put k b = c.put k b := by
  simp [Control.put]

/-- Changing the current group's record and counting the word retired changes nothing else. -/
theorem countRetired_only {s : State} {c : Cx} (h : s.cx? = some c) (f : Group → Group) :
    OnlyGroup s ((s.updGroup c.gi f).countRetired c.p.id) c (f c.g) := by
  refine ⟨?_, ?_, rfl⟩
  · simpa [cx?_group h] using updGroup_get_same s c.gi f
  · intro j hj
    simpa using updGroup_get_other s c.gi j f hj

/-- R378: what leaves its group's age leaves the order of ages. -/
theorem listModify_youngest (l : List Group) : ∀ (n a : Nat) (f : Group → Group), (∀ g, l[n]? = some g → (f g).age = g.age) →
    (listModify l n f).foldl (fun n g => max n (g.age + 1)) a = l.foldl (fun n g => max n (g.age + 1)) a := by
  induction l with
  | nil => intro n a f _; rfl
  | cons x xs ih =>
    intro n a f h
    cases n with
    | zero => simp [listModify, h x rfl]
    | succ n => exact ih n _ f fun g hg => h g (by simpa using hg)

/-- R79, R203, R403: changing the current group's record, but not its age, retiring the word and yielding changes nothing else. -/
theorem yieldAfter_only {s : State} {c : Cx} (h : s.cx? = some c) (f : Group → Group) (ha : (f c.g).age = c.g.age) :
    OnlyGroup s (((s.updGroup c.gi f).countRetired c.p.id).yieldAfter c) c { f c.g with age := s.ageAfter c } := by
  have o := countRetired_only h f
  have y : ((s.updGroup c.gi f).countRetired c.p.id).youngest = s.youngest := by
    refine listModify_youngest _ _ _ _ fun g hg => ?_
    rw [cx?_group h] at hg
    cases hg
    exact ha
  refine ⟨?_, ?_, rfl⟩
  · rw [State.yieldAfter, updGroup_get_same, o.group, Option.map_some, y, State.ageAfter]
    split
    · rfl
    · rw [← ha]
  · intro j hj
    rw [State.yieldAfter, updGroup_get_other _ _ _ _ hj, o.others j hj]

/-- R203: a word that leaves registers `r` and control registers `x` and retires. -/
theorem retire_done {s : State} {c : Cx} (h : s.cx? = some c) (f : Group → Group) (r : Regs) (x : Ctrl)
    (hf : f c.g = { c.g with regs := r, ctrl := x }) : WordDone s ((s.updGroup c.gi f).retire c) c r x := by
  have he := cx?_entry h
  have hg : Group.retireWord c.k c.repeats { c.g with regs := r, ctrl := x } =
      { c.g with regs := r.fusedIf c.tableAfter.2, ctrl := x, ctl := c.tableAfter.1, retire := c.g.retire + 1 } := by
    simp [Group.retireWord, Group.setEntry, Group.settle, he, Cx.tableAfter, Regs.fusedIf]
    rfl
  have := yieldAfter_only h (fun g => Group.retireWord c.k c.repeats (f g)) (by rw [hf, hg])
  simp only [State.retire, updGroup_comp, WordDone]
  rw [hf, hg] at this
  exact this

/-- R203: a word that changes nothing of its own and retires. -/
theorem retire_plain {s : State} {c : Cx} (h : s.cx? = some c) : WordDone s (s.retire c) c c.g.regs c.g.ctrl := by
  have := retire_done h (fun g => g) c.g.regs c.g.ctrl rfl
  have e : s.updGroup c.gi (fun g => g) = s := by
    have : ∀ (l : List Group) n, listModify l n (fun g => g) = l := by
      intro l
      induction l with
      | nil => intro n; rfl
      | cons a as ih => intro n; cases n <;> simp [listModify, ih]
    simp [State.updGroup, this]
  rwa [e] at this

/-- R203: a word that changes registers and retires. -/
theorem retire_regs {s : State} {c : Cx} (h : s.cx? = some c) (f : Regs → Regs) :
    WordDone s ((s.setRegs c f).retire c) c (f c.g.regs) c.g.ctrl :=
  retire_done h (fun g => { g with regs := f g.regs }) _ _ rfl

/-- R167, R203: a word that transfers its strand, after changing its group's registers and call record. -/
theorem retireTo_jumps {s : State} {c : Cx} (h : s.cx? = some c) (dst : CodeRef) (f : Regs → Regs) :
    WordJumps s ((s.setRegs c f).retireTo c dst) c (f c.g.regs) dst := by
  have he := cx?_entry h
  simp only [State.retireTo, State.setRegs, updGroup_comp, WordJumps]
  have hg : Group.retireJump c.k dst { c.g with regs := f c.g.regs } =
      { c.g with regs := (f c.g.regs).loseLatches, ctl := (c.tableAt dst).1, retire := c.g.retire + 1 } := by
    have l : ∀ b : Bool, (if b then (f c.g.regs).loseLatches.loseLatches else (f c.g.regs).loseLatches) =
        (f c.g.regs).loseLatches := by intro b; cases b <;> rfl
    simp [Group.retireJump, Group.setEntry, Group.settle, he, Cx.tableAt, l]
  have := yieldAfter_only h (fun g => Group.retireJump c.k dst { g with regs := f g.regs }) (by rw [hg])
  rwa [hg] at this

theorem retireTo_plain {s : State} {c : Cx} (h : s.cx? = some c) (dst : CodeRef) :
    WordJumps s (s.retireTo c dst) c c.g.regs dst := by
  have he := cx?_entry h
  have hg : Group.retireJump c.k dst c.g =
      { c.g with regs := c.g.regs.loseLatches, ctl := (c.tableAt dst).1, retire := c.g.retire + 1 } := by
    have l : ∀ b : Bool, (if b then c.g.regs.loseLatches.loseLatches else c.g.regs.loseLatches) =
        c.g.regs.loseLatches := by intro b; cases b <;> rfl
    simp [Group.retireJump, Group.setEntry, Group.settle, he, Cx.tableAt, l]
  have := yieldAfter_only h (fun g => Group.retireJump c.k dst g) (by rw [hg])
  rw [hg] at this
  exact this

/-! ### Lane and scalar results -/

theorem LaneWritten.congr {r r' : Regs} {nw : Bool} {d : VReg} {m : LaneMask} {f g : Nat → Word}
    (h : LaneWritten r r' nw d m f) (e : ∀ l, l < 32 → f l = g l) : LaneWritten r r' nw d m g :=
  ⟨fun l hl => by rw [h.dest l hl, e l hl], h.others, fun l hl => by rw [h.latch l hl, e l hl], h.older, h.valid, h.rest⟩

theorem PairWritten.congr {r r' : Regs} {nw : Bool} {d : VReg} {m : LaneMask} {f g : Nat → DWord}
    (h : PairWritten r r' nw d m f) (e : ∀ l, l < 32 → f l = g l) : PairWritten r r' nw d m g :=
  ⟨fun l hl => by rw [h.low l hl, e l hl], fun l hl => by rw [h.high l hl, e l hl], h.others,
   fun l hl => by rw [h.latch l hl, e l hl], h.older, h.valid, h.rest⟩

/-- R70, R219: a 32-bit lane result, written and retired. -/
theorem laneDone_spec {s : State} {c : Cx} (h : s.cx? = some c) (nw : Bool) (d : VReg) (m : LaneMask) (res : Nat → Word) :
    LaneDone (.next (s.laneDone c nw d m (Lanes.tabulate res))) s c nw d m res :=
  ⟨_, _, rfl, retire_regs h _, (Regs.laneWrite_written nw d m (Lanes.tabulate res) c.g.regs).congr
    fun l hl => Lanes.at_tabulate res l hl⟩

/-- R65, R70, R219: a 64-bit lane result, written and retired. -/
theorem laneDone64_spec {s : State} {c : Cx} (h : s.cx? = some c) (nw : Bool) (d : VReg) (m : LaneMask) (res : Nat → DWord)
    (even : VReg.even d = true) : PairDone (.next (s.laneDone64 c nw d m (Lanes.tabulate res))) s c nw d m res :=
  ⟨_, _, rfl, retire_regs h _, (Regs.laneWrite64_written nw d m (Lanes.tabulate res) c.g.regs even).congr
    fun l hl => Lanes.at_tabulate res l hl⟩

theorem orFlags_congr (m : LaneMask) (f g : Nat → FpFlags) (h : ∀ l, l < 32 → f l = g l) : orFlags m f = orFlags m g := by
  unfold orFlags
  have key : ∀ (ls : List Nat) (a : FpFlags), (∀ l ∈ ls, l < 32) →
      ls.foldl (fun a l => a ||| f l) a = ls.foldl (fun a l => a ||| g l) a := by
    intro ls
    induction ls with
    | nil => intro a _; rfl
    | cons x xs ih =>
      intro a hl
      simp only [List.foldl_cons]
      rw [h x (hl x (by simp)), ih _ fun l hm => hl l (by simp [hm])]
  apply key
  intro l hl
  simp only [LaneMask.lanes, List.mem_filter, List.mem_range] at hl
  exact hl.1

theorem tabulate_flags (op : Nat → Rounded) (l : Nat) (h : l < 32) :
    (((Lanes.tabulate op).toList[l]?).map Rounded.flags).getD 0 = (op l).flags := by
  rw [List.getElem?_eq_getElem (by simpa using h)]
  simp [Lanes.tabulate]

/-- R221: flags that raise nothing are joined to FPFLAGS. -/
theorem withFlags_quiet {s : State} {c : Cx} {i : Instr} {m : LaneMask} {fl : Nat → FpFlags} {k : State → State}
    (q : orFlags m fl &&& c.g.ctrl.trapEn = 0) :
    s.withFlags c i m fl k =
      k (s.updGroup c.gi fun g => { g with ctrl := { g.ctrl with fpFlags := g.ctrl.fpFlags ||| orFlags m fl } }) := by
  simp [State.withFlags, q]

/-- R143: with no trap enabled a word's flags raise nothing. -/
theorem Cx.quiet_of_disabled {c : Cx} (h : c.g.ctrl.trapEn = 0) (m : LaneMask) (op : Nat → Rounded) : c.quiet m op := by
  simp [Cx.quiet, h]

/-- R221: a 32-bit result with flags. -/
theorem fpDone_spec {s : State} {c : Cx} (h : s.cx? = some c) (i : Instr) (nw : Bool) (d : VReg) (m : LaneMask)
    (op : Nat → Rounded) (q : c.quiet m op) : FpDone (.next (s.fpDone c i nw d m op)) s c nw d m op := by
  have fl := orFlags_congr m (fun l => (((Lanes.tabulate op).toList[l]?).map Rounded.flags).getD 0) (fun l => (op l).flags)
    (tabulate_flags op)
  have q' : orFlags m (fun l => (((Lanes.tabulate op).toList[l]?).map Rounded.flags).getD 0) &&& c.g.ctrl.trapEn = 0 := by
    rw [fl]; exact q
  refine ⟨_, Regs.laneWrite nw d m ((Lanes.tabulate op).map fun x => BitVec.ofNat 32 x.code) c.g.regs, rfl, ?_, ?_⟩
  · rw [State.fpDone]
    rw [withFlags_quiet q', fl]
    simp only [State.laneDone, State.setRegs, updGroup_comp]
    exact retire_done h _ _ _ rfl
  · refine (Regs.laneWrite_written nw d m _ c.g.regs).congr fun l hl => ?_
    have : Inhabited Rounded := ⟨op 0⟩
    rw [Lanes.at_map _ _ _ hl, Lanes.at_tabulate op l hl]

/-- R221: a 64-bit result with flags. -/
theorem fpDone64_spec {s : State} {c : Cx} (h : s.cx? = some c) (i : Instr) (nw : Bool) (d : VReg) (m : LaneMask)
    (op : Nat → Rounded) (q : c.quiet m op) (even : VReg.even d = true) :
    FpPairDone (.next (s.fpDone64 c i nw d m op)) s c nw d m op := by
  have fl := orFlags_congr m (fun l => (((Lanes.tabulate op).toList[l]?).map Rounded.flags).getD 0) (fun l => (op l).flags)
    (tabulate_flags op)
  have q' : orFlags m (fun l => (((Lanes.tabulate op).toList[l]?).map Rounded.flags).getD 0) &&& c.g.ctrl.trapEn = 0 := by
    rw [fl]; exact q
  refine ⟨_, Regs.laneWrite64 nw d m ((Lanes.tabulate op).map fun x => BitVec.ofNat 64 x.code) c.g.regs, rfl, ?_, ?_⟩
  · rw [State.fpDone64]
    rw [withFlags_quiet q', fl]
    simp only [State.laneDone64, State.setRegs, updGroup_comp]
    exact retire_done h _ _ _ rfl
  · refine (Regs.laneWrite64_written nw d m _ c.g.regs even).congr fun l hl => ?_
    have : Inhabited Rounded := ⟨op 0⟩
    rw [Lanes.at_map _ _ _ hl, Lanes.at_tabulate op l hl]

/-- R164: a scalar result, written and retired. -/
theorem sDone_spec {s : State} {c : Cx} (h : s.cx? = some c) (d : SReg) (x : Word) :
    ScalarDone (.next (s.sDone c d x)) s c d x :=
  ⟨_, _, rfl, retire_regs h _, Regs.setS_written _ _ _⟩

/-- R65, R164: a 64-bit scalar result, written and retired. -/
theorem sPair_spec {s : State} {c : Cx} (h : s.cx? = some c) (d : SReg) (x : DWord) (even : SReg.even d = true) :
    ScalarPairDone (.next ((s.setRegs c fun r => r.setPair d.val x).retire c)) s c d x :=
  ⟨_, _, rfl, retire_regs h _, Regs.setPair_written _ _ _ even⟩

end Sys2Proof.Machine
end

