-- ==== Sys2Proof/Tests/Slice0.lean ====
section
/-! SUPPORT. The model's own tests: ill-formed terms that the checks of WellFormed refuse, words written out from the tables of the
spec, single steps whose results the spec gives, and states that meet the hypotheses of the statements. -/

namespace Sys2Proof.Tests

open Sys2Proof Sys2Proof.Machine

set_option maxRecDepth 100000
set_option Elab.async false

/-! ### Helpers -/

/-- The state in which the move that comes next has been chosen. -/
def selected (s : State) : State :=
  let u := s.settle
  match u.nextMove with
  | some m => u.toMove m
  | none => u

/-- A state about to issue an instruction's word, changed by `f`. -/
def issuing (i : Instr) (f : State → State) : State := selected (f (State.reset.withFetchWord 32 (wordOfInstr i).toNat))

/-- A state about to issue EXIT. -/
def base : State := issuing .exit id

/-- There is a context, in which `p` holds. -/
def meets (s : State) (p : Cx → Bool) : Bool := s.cx?.any p

/-- In the changed state the word passes its checks, and `p` holds of its state and context. -/
def goesWith (i : Instr) (f : State → State) (p : State → Cx → Bool) : Bool :=
  let s := issuing i f
  meets s fun c => c.check i == .go && p s c

/-- The words of some instructions pass their checks, with the flags of no trap enabled. -/
def goes (is : List Instr) : Bool := is.all fun i => goesWith i id fun _ c => c.g.ctrl.trapEn == 0

def setGroup (f : Group → Group) (s : State) : State := s.updGroup 0 f
def setTeam (f : Team → Team) (s : State) : State := s.updTeam 0 f
def setPart (f : Part → Part) (s : State) : State := s.updPart 0 f
def setRegs (f : Regs → Regs) : State → State := setGroup fun g => { g with regs := f g.regs }
def setEntry (f : Entry → Entry) : State → State := setGroup fun g => { g with ctl := g.ctl.put 0 ((g.ctl.get 0).map f) }
def setHeader (f : Header → Header) : State → State := setTeam fun t => { t with hdr := f t.hdr }
def hinted (ws : List Word) : State → State := setEntry fun e => { e with hints := ws }
def sregs (xs : List (Nat × Word)) : State → State := setRegs fun r => xs.foldl (fun r x => r.setS x.1 x.2) r
def vregs (xs : List (Nat × (Nat → Word))) : State → State := setRegs fun r => xs.foldl (fun r x => r.setV x.1 (Lanes.tabulate x.2)) r

/-- A gigabyte at address 0 is mapped to the home of the same address, writable. -/
def mapped : State → State := setPart fun p =>
  let x : Xlate := { va := 0, bytes := 2 ^ 30, key := 0, guest := 0, w1 := true, w2 := true, dsc := true, shr := true, cnt := false }
  { p with xlat := { p.xlat with tlb := [{ site := .hall 0, x := x }, { site := .io, x := x }] } }

def vf : VForm := { gd := 0, wb := false, d := 4, a := .v 6, b := .v 8 }
def uf : UForm := { gd := 0, wb := false, d := 4, a := .v 8 }
def sf : SForm := { d := 4, a := .s 6, b := .s 8 }
def mf : MForm := { gd := 0, size := .word, d := 4, tb := 1, x := .v 8, imm := 0 }
def lf : LForm := { gd := 0, size := .word, d := 4, x := .v 8, imm := 0 }
def af : AForm := { gd := 0, wide := false, d := 4, tb := 1, x := .v 8 }
def mm : MmaForm := { fmt := .int8, slot := 0, asrc := false, atb := 0, as := 4, bsrc := false, btb := 0, bs := 6 }

/-- One step of a state about to issue an instruction, changed by `f`, gives a state in which `p` holds. -/
def steps (i : Instr) (f : State → State) (p : State → Bool) : Bool :=
  match step (f (State.reset.withFetchWord 32 (wordOfInstr i).toNat)) with
  | .next t => p t
  | _ => false

def vAt (t : State) (n l : Nat) : Word := ((t.groups[0]?).map fun g => Lanes.at (g.regs.vreg n) l).getD 0
def sAt (t : State) (n : Nat) : Word := ((t.groups[0]?).map fun g => g.regs.sreg n).getD 0
def pcAt (t : State) : Nat := (((t.groups[0]?).bind fun g => g.ctl.get g.ctl.cur).map fun e => e.pc.off.toNat).getD 0

/-- MOD.sat and MOD.nt (R77). -/
def sat : Word := 0xFCC40000
def nt : Word := 0xFCC20000

/-! ### Ill-formed terms (R64 to R66, R77, R84, R87 to R95, R349) -/

/-- None of the instructions is well formed, and none has a word. -/
def refusedAll (is : List Instr) : Bool := is.all fun i => !i.wf

theorem test_refuses_odd_pairs : refusedAll
    [.dadd { vf with d := 5 }, .dmul { vf with a := .v 7 }, .dmac { vf with b := .s 9 }, .mov64 { uf with a := .v 9 }, .dneg { uf with d := 5 },
     .dabs { uf with d := 7 }, .dsqrt { uf with a := .s 9 }, .drcp { uf with d := 1 }, .sadd64 { sf with a := .s 7 }, .ssub64 { sf with d := 5 },
     .call 5 0, .calli 5 4, .calli 4 5, .ret 3, .ktie 0 5, .getc .frame 5, .rdx 0 0 false 5, .tbset 0 5 4, .launch 4 5, .lquery 5 4,
     .publish 5 6 8, .publish 4 7 8, .bindSlot 4 7 8, .bindSlot 4 6 9, .unbind 4 7 8, .unbindReleaseHold 4 6 9, .place 4 5 7, .exportCtx 4 7,
     .importCtx 4 7, .seal 4 7, .cntrd 5 4, .stair 0 5, .stairg 0 5, .hoist 0 0 5, .braid 0 0 5, .cmpr 0 0 5, .dcmp 0 0 5] = true := by decide

theorem test_refuses_lane_specials : refusedAll
    [.sadd { sf with a := .special .laneid }, .ssub { sf with b := .special .tlane }, .scmp .eq { sf with a := .special .tindex },
     .srdv 4 (.special .laneid) 6, .kinit 0 (.special .tlane), .setxm (.special .tindex), .setc .seed (.special .laneid),
     .stepCounter (.special .tlane), .smul { sf with a := .special .laneid }, .smulh { sf with a := .special .laneid },
     .sand { sf with a := .special .laneid }, .sor { sf with a := .special .laneid }, .sxor { sf with a := .special .laneid },
     .sshl { sf with a := .special .laneid }, .sshr { sf with a := .special .laneid }, .ssar { sf with a := .special .laneid },
     .smin { sf with a := .special .laneid }, .smax { sf with a := .special .laneid }, .snmin { sf with a := .special .laneid },
     .snmax { sf with a := .special .laneid }, .sld 4 0 (.v 8) 0, .sld 4 0 (.special .laneid) 0] = true := by decide

theorem test_refuses_sizes : refusedAll
    [.ld { mf with size := .double, d := 5 }, .ld { mf with size := .quad, d := 6 }, .st { mf with size := .i8 }, .st { mf with size := .i16 },
     .st { mf with size := .double, d := 5 }, .lds { lf with size := .quad, d := 2 }, .sts { lf with size := .i8 }, .sts { lf with size := .double, d := 3 },
     .ldp { lf with size := .n8 }, .ldp { lf with size := .double, d := 3 }, .stp { lf with size := .n16 }, .stp { lf with size := .quad, d := 2 },
     .atomSwap { af with wide := true, d := 5 }, .atomAdd { af with wide := true, d := 5 }, .atomAnd { af with wide := true, d := 5 },
     .atomOr { af with wide := true, d := 5 }, .atomXor { af with wide := true, d := 5 }, .atomMin { af with wide := true, d := 5 },
     .atomMax { af with wide := true, d := 5 }, .atomNmin { af with wide := true, d := 5 }, .atomNmax { af with wide := true, d := 5 },
     .atomFadd { af with wide := true, d := 5 }, .atomLoad { af with wide := true, d := 5 }, .atomStore { af with wide := true, d := 5 },
     .atomCas { af with d := 5 }, .atomCas { af with wide := true, d := 6 }] = true := by decide

theorem test_refuses_codes : refusedAll
    [.vcvt .f32 .f32 uf, .vcvt .f64 .f32 { uf with d := 5 }, .vcvt .f32 .f64 { uf with a := .v 9 }, .qpack .e4m3 { uf with a := .v 9 },
     .qpack .e2m1 { uf with a := .v 10 }, .qpack .i8 { uf with a := .s 8 }, .setxp 0, .setxp 6, .rdx 0 0 true 4, .rdx 5 4 false 4, .rdx 1 3 false 4,
     .wrx 0 4 false 4, .wrx 5 4 false 4, .wrx 1 0 false 4, .mma { mm with asrc := false, atb := 1 }, .mma { mm with bsrc := false, btb := 1 },
     .mma { mm with fmt := .blk24, as := 5 }, .modh { rnd := 7, sat := false, nt := false, bf := false, scope := 0, acq := false, rel := false },
     .modh { rnd := 0, sat := false, nt := false, bf := false, scope := 3, acq := false, rel := false }] = true := by decide

/-! ### Words written out from the tables of the spec (R58 to R95) -/

/-- Lane words: major, gd, w, d, a, b (V), or the function in b (U); specials and constants in 8-bit operands. -/
theorem test_words_lane :
    decode 0b000001_00_0_0000011_00000001_00000010 = .ok (.iadd { gd := 0, wb := false, d := 3, a := .v 1, b := .v 2 }) ∧
    decode 0b010010_00_0_0001000_00000001_00000010 = .ok (.fmac { gd := 0, wb := false, d := 8, a := .v 1, b := .v 2 }) ∧
    decode 0b011110_00_0_0001010_11110101_00000100 = .ok (.qpack .e4m3 { gd := 0, wb := false, d := 10, a := .v 4 }) := by decide

/-- Cross-lane, scalar, immediate and control words. -/
theorem test_words_scalar :
    decode 0x95020001 = .ok (.ballot { gd := 1, wb := false, d := 2, a := .v 1 }) ∧
    decode 0xA4180040 = .ok (.sli 6 64) ∧ decode 0xA4141678 = .ok (.sli 5 0x1678) ∧
    decode 0b101011_000000_00000000000000000000 = .ok .exit ∧ decode 0xACF0006F = .ok (.setxm (.const 47)) ∧
    decode 0xAC900061 = .ok (.kinit 0 (.const 0x21)) ∧ decode 0xAC700000 = .ok (.waitk 0) ∧ decode 0xAD400014 = .ok (.getc .cause 20) := by decide

/-- Memory and phase words. -/
theorem test_words_memory :
    decode 0b101100_01_100_00000_10001_0000_0011_000 = .ok (.ld { gd := 1, size := .word, d := 2, tb := 1, x := .v 3, imm := 0 }) ∧
    decode 0xB4808818 = .ok (.st { gd := 0, size := .word, d := 2, tb := 1, x := .v 3, imm := 0 }) ∧
    decode 0xB0E205A0 = .ok (.sld 8 0 (.special .zero) 0) ∧ decode 0xC40000C0 = .ok (.tbset 0 0 6) ∧
    decode 0xC5C03800 = .ok (.watch 0 7) ∧ decode 0xC6000000 = .ok .waitw := by decide

/-- Matrix, engine, system and hint words. -/
theorem test_words_system :
    decode 0xCC011000 = .ok (.zero 0 17) ∧ decode 0xCC400000 = .ok (.drainSlot 0) ∧ decode 0xCD8115C0 = .ok (.accst 17 23) ∧
    decode 0xD4810600 = .ok (.exportCtx 4 6) ∧ decode 0xD4050000 = .ok (.launch 20 0) ∧ decode 0xD4610518 = .ok (.preempt 4 5 6) ∧
    decode 0xD4B50500 = .ok (.cntrd 20 5) ∧ decode 0xFD600001 = .ok (.live 1) ∧
    decode 0xFCC40000 = .ok (.modh { rnd := 0, sat := true, nt := false, bf := false, scope := 0, acq := false, rel := false }) := by decide

/-- Words that are no instruction (R58, R96). -/
theorem test_words_refused :
    decode 0 = .error .undefinedCode ∧ decode (0x36 <<< 26) = .error .undefinedCode ∧ decode 0xAC000001 = .error .invalidCombination ∧
    decode 0b011110_00_0_0000000_00000000_00000000 = .error .undefinedCode := by decide

/-! ### Single steps

The results are worked out by hand from the rules named. -/

/-- R222: IADD wraps, and saturates under MOD.sat. -/
theorem test_iadd_wraps :
    steps (.iadd vf) (vregs [(6, fun _ => 0x7FFFFFFF), (8, fun l => BitVec.ofNat 32 l)]) (fun t => vAt t 4 1 == 0x80000000 && vAt t 4 0 == 0x7FFFFFFF) = true := by decide +kernel
theorem test_iadd_saturates :
    steps (.iadd vf) (fun s => hinted [sat] (vregs [(6, fun _ => 0x7FFFFFFF), (8, fun _ => 1)] s)) (fun t => vAt t 4 31 == 0x7FFFFFFF) = true := by decide +kernel

/-- R222: IMULH is signed; a right shift of 32 or more fills with the sign. -/
theorem test_imulh_signed : steps (.imulh vf) (vregs [(6, fun _ => 0xFFFFFFFF), (8, fun _ => 2)]) (fun t => vAt t 4 3 == 0xFFFFFFFF) = true := by decide +kernel
theorem test_sar_past_width : steps (.sar vf) (vregs [(6, fun _ => 0x80000000), (8, fun _ => 32)]) (fun t => vAt t 4 0 == 0xFFFFFFFF) = true := by decide +kernel

/-- R68: a lane outside the guard keeps its destination. -/
theorem test_guard_keeps : steps (.mov { uf with gd := 1 }) (fun s => setRegs (fun r => r.setG 0 1) (vregs [(8, fun _ => 7)] s))
    (fun t => vAt t 4 0 == 7 && vAt t 4 1 == 0) = true := by decide +kernel

/-- R70: FMUL.nw leaves v4 and fills b0: 1.5 × 2 is 3 (the chain of the spec's own example). -/
theorem test_fmul_nw : steps (.fmul { vf with wb := true }) (vregs [(6, fun _ => 0x3FC00000), (8, fun _ => 0x40000000)])
    (fun t => vAt t 4 0 == 0 && (t.groups[0]?).any fun (g : Group) => Lanes.at g.regs.b[0] 0 == 0x40400000 && g.regs.bOk[0]) = true := by decide +kernel

/-- R221, R223: 1.5 + 2.25 is 3.75; the third source of FMAC is its destination: 2 × 3 + 1 is 7. -/
theorem test_fadd : steps (.fadd vf) (vregs [(6, fun _ => 0x3FC00000), (8, fun _ => 0x40100000)]) (fun t => vAt t 4 0 == 0x40700000) = true := by decide +kernel
theorem test_fmac : steps (.fmac vf) (vregs [(4, fun _ => 0x3F800000), (6, fun _ => 0x40000000), (8, fun _ => 0x40400000)])
    (fun t => vAt t 4 0 == 0x40E00000) = true := by decide +kernel

/-- R225: each half by itself: 1 + 1 and 2 + 2 in FP16. -/
theorem test_hadd2 : steps (.hadd2 vf) (vregs [(6, fun _ => 0x40003C00), (8, fun _ => 0x40003C00)]) (fun t => vAt t 4 0 == 0x44004000) = true := by decide +kernel

/-- R226: 1 + 1 in FP64 on pairs: the low word of the pair is the lower register. -/
theorem test_dadd : steps (.dadd vf) (vregs [(7, fun _ => 0x3FF00000), (9, fun _ => 0x3FF00000)]) (fun t => vAt t 4 0 == 0 && vAt t 5 0 == 0x40000000) = true := by decide +kernel

/-- R230 to R232: CLZ of 1 is 31, FRCP of 4 is 1/4. -/
theorem test_clz : steps (.clz uf) (vregs [(8, fun _ => 1)]) (fun t => vAt t 4 0 == 31) = true := by decide +kernel
theorem test_frcp : steps (.frcp uf) (vregs [(8, fun _ => 0x40800000)]) (fun t => vAt t 4 0 == 0x3E800000) = true := by decide +kernel

/-- R235: 300 as n8 under MOD.sat is 255. -/
theorem test_vcvt_saturates : steps (.vcvt .n8 .f32 uf) (fun s => hinted [sat] (vregs [(8, fun _ => 0x43960000)] s)) (fun t => vAt t 4 0 == 255) = true := by decide +kernel

/-- R237, R238: in tiles of 2 lanes SHFX by 1 exchanges neighbours; BALLOT gives the bits of the tile's lanes. -/
theorem test_shfx : steps (.shfx vf) (fun s => setRegs (fun r => { r with xp := 1 }) (vregs [(6, fun l => BitVec.ofNat 32 l), (8, fun _ => 1)] s))
    (fun t => vAt t 4 4 == 5 && vAt t 4 5 == 4) = true := by decide +kernel
theorem test_ballot : steps (.ballot uf) (fun s => setRegs (fun r => { r with xp := 5 }) (vregs [(8, fun l => if l < 4 then 9 else 0)] s))
    (fun t => vAt t 4 17 == 0xF) = true := by decide +kernel

/-- R238: the sum of the lane numbers of a tile of 32 lanes is 496. -/
theorem test_rsum : steps (.rsum .i32 uf) (fun s => setRegs (fun r => { r with xp := 5 }) (vregs [(8, fun l => BitVec.ofNat 32 l)] s))
    (fun t => vAt t 4 0 == 496 && vAt t 4 31 == 496) = true := by decide +kernel

/-- R164, R166: scalar words and immediates. -/
theorem test_ssub_wraps : steps (.ssub sf) (sregs [(6, 0), (8, 1)]) (fun t => sAt t 4 == 0xFFFFFFFF) = true := by decide +kernel
theorem test_sli_sign : steps (.sli 5 (0x3FFFF)) id (fun t => sAt t 5 == 0xFFFFFFFF) = true := by decide +kernel
theorem test_sadd64_carries : steps (.sadd64 sf) (sregs [(6, 0xFFFFFFFF), (8, 1)]) (fun t => sAt t 4 == 0 && sAt t 5 == 1) = true := by decide +kernel

/-- R167: a jump counts in words from the next one: from 0x40 by 1 to 0x48. -/
theorem test_jmp : steps (.jmp 1) id (fun t => pcAt t == 0x48) = true := by decide +kernel
theorem test_jnz_passes : steps (.jsnz 4 1) id (fun t => pcAt t == 0x44) = true := by decide +kernel

/-- R170: JG with one lane of 32 splits its strand: the taken lane at the target, the rest at the next word. -/
theorem test_jg_splits : steps (.jg false 0 1) (setRegs fun r => r.setG 0 1)
    (fun t => (t.groups[0]?).any fun g => g.ctl.used == 3 && (g.ctl.get 0).any fun e => e.active == 0xFFFFFFFE && e.pc.off == 0x44) = true := by decide +kernel

/-- R175: SETXM keeps within the owned lanes. -/
theorem test_setxm : steps (.setxm (.s 6)) (sregs [(6, 0xF0)]) (fun t => (t.groups[0]?).any fun g => (g.ctl.get 0).any fun e => e.active == 0xF0) = true := by decide +kernel

/-- R27: KINIT sets the count. -/
theorem test_kinit : steps (.kinit 0 (.s 6)) (sregs [(6, 3)]) (fun t => (t.teams[0]?).any fun x => (x.knots[0]?).any fun k => k.count == 3 && k.scope == .h) = true := by decide +kernel

/-- R89, R276: a signed byte from memory is sign-extended. -/
theorem test_ld_signed : steps (.ld { mf with size := .i8, tb := 0 }) (fun s => mapped { s with mem := s.mem.write 5 0x80 } |> vregs [(8, fun _ => 5)])
    (fun t => vAt t 4 0 == 0xFFFFFF80) = true := by decide +kernel

/-- R41: a store stays in the group's buffer: memory keeps its bytes. -/
theorem test_st_buffered : steps (.st { mf with tb := 0 }) (fun s => vregs [(4, fun _ => 0x11223344), (8, fun _ => 16)] (mapped s))
    (fun t => t.mem.read 16 == 0 && (t.groups[0]?).any fun g => ownByte g.stores 16 == some 0x44 && ownByte g.stores 19 == some 0x11) = true := by decide +kernel

/-- R281: ATOM.ADD by 32 lanes at one word gives 32, and each lane the sum of those before it. -/
theorem test_atom_add : steps (.atomAdd { af with tb := 0 }) (fun s => vregs [(4, fun _ => 1), (8, fun _ => 64)] (mapped s))
    (fun t => t.mem.num 64 4 == 32 && vAt t 4 0 == 0 && vAt t 4 31 == 31) = true := by decide +kernel

/-- R279: LDS beyond the scratchpad's end raises SCRATCH_BOUND; with no handler the group parks with class 0 (R152). -/
theorem test_lds_bound : steps (.lds lf) (vregs [(8, fun _ => 32768)])
    (fun t => (t.groups[0]?).any fun g => match g.phase with | .parked _ c => c == 0 && g.ctrl.cause == BitVec.ofNat 8 Cause.scratchBound.code | _ => false) = true := by decide +kernel

/-- R255: STEP adds to the partition's counter. -/
theorem test_step : steps (.stepCounter (.const 37)) id (fun t => (t.part? 0).any fun p => p.xlat.l2step == 5) = true := by decide +kernel

/-- R331, R355: ZERO opens a slot; ACCWR of an open slot is refused, of an integer one writes a row. -/
theorem test_zero : steps (.zero 0 17) id (fun t => (t.teams[0]?).any fun x => (x.slot 0).bound == some (17, .opened)) = true := by decide +kernel

/-! ### States that meet the hypotheses of the statements -/

theorem test_hyp_LaneIntegerResults :
    goes [.iadd vf, .isub vf, .imul vf, .imulh vf, .imac vf, .and vf, .or vf, .xor vf, .shl vf, .shr vf, .sar vf, .imin vf, .imax vf, .nmin vf, .nmax vf] &&
    goesWith (.iadd vf) (hinted [sat]) (fun _ _ => true) = true := by decide +kernel

theorem test_hyp_LaneBitResults :
    goes [.bfx vf, .bfi vf, .mov uf, .not uf, .ineg uf, .iabs uf, .popc uf, .clz uf, .ctz uf, .brev uf, .bswap uf, .mov64 uf,
      .mov64 { uf with a := .special .laneid }] = true := by decide +kernel

theorem test_hyp_GuardResults :
    goes [.sel vf, .sel { vf with gd := 1 }, .sel { vf with gd := 2 }, .vcmp { gd := 0, c := .int .lt, k := 3, a := .v 6, b := .v 8 },
      .vcmp { gd := 1, c := .fun_, k := 7, a := .v 6, b := .v 8 }] &&
    goesWith (.sel { vf with gd := 3 }) (hinted [0xFC40000D]) (fun _ c => c.hs.grd == some (true, 5)) = true := by decide +kernel

/-- Words that raise no enabled flag, and FADD and FMUL that do (infinities of two signs, zero times infinity). -/
theorem test_hyp_Fp32Results : goes [.fadd vf, .fmul vf, .fmac vf, .fmin vf, .fmax vf] = true := by decide +kernel
def traps (f : State → State) : State → State := fun s => setGroup (fun g => { g with ctrl := { g.ctrl with trapEn := 1 } }) (f s)
theorem test_hyp_Fp32Results_traps :
    goesWith (.fadd vf) (traps (vregs [(6, fun _ => 0x7F800000), (8, fun _ => 0xFF800000)])) (fun s c =>
      orFlags (c.act 0) (fun l =>
        let p := Ext.add (c.mode == .rdn) (Fmt.fp32.decode (c.fsrc .fp32 (.v 6) l)) (Fmt.fp32.decode (c.fsrc .fp32 (.v 8) l))
        (Fmt.fp32.round c.mode (srbits c.g.ctrl.seed c.g.retire l 0) p.1).flags ||| p.2) &&& c.g.ctrl.trapEn != 0 && s.cur == some 0) = true := by decide +kernel

/-- An enabled invalid flag of every other shape: infinities of two signs, a root of a negative number, a NaN to an integer: ARITH is taken. -/
theorem test_hyp_ArithTraps :
    [(Instr.hadd2 vf, [(6, 0x7C00), (8, 0xFC00)]), (.hmul2 vf, [(6, 0x7C000000), (8, 0)]), (.hmac2 vf, [(4, 0xFC00), (6, 0x7C00), (8, 0x3C00)]),
      (.fmac vf, [(4, 0xFF800000), (6, 0x7F800000), (8, 0x3F800000)]), (.dadd vf, [(7, 0x7FF00000), (9, 0xFFF00000)]), (.dmul vf, [(7, 0x7FF00000)]),
      (.dmac vf, [(5, 0xFFF00000), (7, 0x7FF00000), (9, 0x3FF00000)]), (.dsqrt uf, [(9, 0xBFF00000)]), (.fsqrt uf, [(8, 0xBF800000)]),
      (.frsq uf, [(8, 0xBF800000)]), (.flog2 uf, [(8, 0xBF800000)]), (.fsin uf, [(8, 0x7F800000)]), (.vcvt .i16 .f32 uf, [(8, 0x7FC00000)]),
      (.qpack .i8 uf, [(8, 0x7FC00000)])].all (fun x =>
      steps x.1 (fun s => traps (vregs (x.2.map fun y => (y.1, fun _ => (y.2 : Word)))) s) (fun t => (t.groups[0]?).any fun g => g.ctrl.cause.toNat == Cause.arith.code)) &&
    [Instr.rsum .f32 uf, .psum .f32 true uf].all (fun i => steps i (traps (fun s => setRegs (fun r => { r with xp := 5 })
      (vregs [(8, fun l => if l = 0 then 0x7F800000 else 0xFF800000)] s))) (fun t => (t.groups[0]?).any fun g => g.ctrl.cause.toNat == Cause.arith.code)) = true := by
  decide +kernel

theorem test_hyp_HalfAndDoubleResults :
    goes [.hadd2 vf, .hmul2 vf, .hmac2 vf, .dadd vf, .dmul vf, .dmac vf, .dsqrt uf, .drcp uf, .dneg uf, .dabs uf] = true := by decide +kernel

theorem test_hyp_FpUnaryResults :
    goes [.frcp uf, .frsq uf, .fsqrt uf, .fexp2 uf, .flog2 uf, .fsin uf, .fcos uf, .ftanh uf, .frint uf, .ffloor uf, .fceil uf, .ftrunc uf, .fneg uf,
      .fabs uf, .hneg2 uf, .habs2 uf, .fclass uf] = true := by decide +kernel

/-- A conversion each of two floats, of an integer to a float, of a float to an integer, of two integers, and of a pair; every QPACK. -/
theorem test_hyp_FormatResults :
    goes [.vcvt .f16 .f32 uf, .vcvt .f32 .n8 uf, .vcvt .i16 .f32 uf, .vcvt .i8 .n16 uf, .vcvt .f64 .i32 uf, .vcvt .i4 .f64 uf, .qpack .e4m3 uf,
      .qpack .e5m2 uf, .qpack .i8 uf, .qpack .e2m1 uf, .qpack .i4 uf] = true := by decide +kernel

/-- The greatest finite code and the greatest negative one of a format. -/
theorem test_hyp_RoundingRules :
    (Fmt.fp16 ∈ [Fmt.fp32, .fp16, .bf16, .fp64] ∧ 0x7BFF < 2 ^ Fmt.fp16.width ∧ Fmt.fp16.isNan 0x7BFF = false) ∧
    (Fmt.fp64 ∈ [Fmt.fp32, .fp16, .bf16, .fp64] ∧ 0xFFEFFFFFFFFFFFFF < 2 ^ Fmt.fp64.width ∧ Fmt.fp64.isNan 0xFFEFFFFFFFFFFFFF = false) := by decide +kernel

theorem test_hyp_TileResults : goes [.shfi vf, .shfu vf, .shfd vf, .shfx vf, .ballot uf, .vany uf, .vall uf, .first uf] = true := by decide +kernel

theorem test_hyp_ReductionResults :
    goes [.psum .i32 true uf, .psum .n32 false uf, .rsum .i32 uf, .rsum .n32 uf, .psum .f32 true uf, .rsum .f32 uf, .rmin .i32 uf, .rmax .i32 uf,
      .rmin .n32 uf, .rmax .n32 uf, .rmin .f32 uf, .rmax .f32 uf] = true := by decide +kernel

/-- APPEND at the last counter of the scratchpad: of many tiles, none of which has been performed, of one that is left, and of none. -/
def appended (n : Nat) : State → State := setEntry fun e => { e with appended := (List.range n).map fun l => (l, 0) }
theorem test_hyp_RankResults : goes [.topk vf] &&
    [(0, false), (31, true), (32, true)].all (fun x => goesWith (.append vf) (fun s => appended x.1 (vregs [(6, fun _ => 32764)] s)) fun _ c =>
      let left := (c.appendTiles (c.act 0)).filter fun y => !c.e.appended.any fun d => d.1 == y.1
      left.all (fun x => (c.src (.v 6) x.1).toNat + 4 ≤ c.t.hdr.scratch && (c.src (.v 6) x.1).toNat % 4 == 0) &&
        left.isEmpty == (x.1 == 32) && (left.length == 1) == (x.1 == 31) && c.t.spad.wf && c.p.replay.ctl == 0) = true := by decide +kernel

theorem test_hyp_ScalarResults :
    goes [.sadd sf, .ssub sf, .smul sf, .smulh sf, .sand sf, .sor sf, .sxor sf, .sshl sf, .sshr sf, .ssar sf, .smin sf, .smax sf, .snmin sf, .snmax sf,
      .scmp .gen sf, .scmp .eq { sf with a := .const 0 }] = true := by decide +kernel

theorem test_hyp_ScalarOtherResults :
    goes [.sadd64 sf, .ssub64 sf, .srdv 4 (.s 6) 8, .sli 4 0x20000, .saddi 4 1, .slui 4 0x3FFFF, .getxm 4, .setxm (.s 6), .setxp 5] &&
    goesWith (.sli 4 1) (hinted [0xFC000002]) (fun _ c => c.hs.imms.length == 1) &&
    goesWith (.saddi 4 1) (hinted [0xFC000002, 0xFC000003]) (fun _ c => c.hs.imms.length == 2) = true := by decide +kernel

/-! #### Control -/

/-- Jumps within the region and out of it. -/
theorem test_hyp_BranchResults_whole :
    [Instr.jmp 1, .jsz 4 1, .jsnz 4 1, .jany true 0 1, .jany false 0 1, .jall true 0 1, .jall false 0 1].all (fun i =>
      goesWith i id fun _ c => c.p.inRegion (c.target 17 1) && c.hs.imms == []) &&
    goesWith (.jmp 0x10000) id (fun _ c => !c.p.inRegion (c.target 17 0x10000)) = true := by decide +kernel

/-- JG and JGX with no lane, some lanes and every lane taken. -/
theorem test_hyp_BranchResults_lanes :
    [(0 : Word), 1, 0xFFFFFFFF].all (fun m => [Instr.jg false 0 1, .jgx false 0 1].all fun i => goesWith i (setRegs fun r => r.setG 0 m) fun _ c =>
      c.p.inRegion (c.target 17 1) && c.g.freeTwo.isSome) = true := by decide +kernel

/-- A call of depth one, a return from it, a call of no lane and of one target. -/
def called : State → State := setGroup fun g => { g with callRec := [(1, 1)] }
theorem test_hyp_CallResults :
    goesWith (.splice 1) id (fun _ c => c.p.inRegion (c.target 20 1)) &&
    goesWith (.call 4 1) id (fun _ c => c.p.inRegion (c.target 17 1) && (callAdd c.g.callRec c.e.pc.obj 1).isSome) &&
    goesWith (.ret 4) (fun s => called (sregs [(4, 0x44), (5, 1)] s)) (fun _ c => let dst := CodeRef.ofBits (c.g.regs.spair 4)
      c.p.refOk dst && (callDrop c.g.callRec dst.obj).isSome) &&
    goesWith (.calli 4 6) (setEntry fun e => { e with active := 0 }) (fun _ c => c.e.active == 0) &&
    goesWith (.calli 4 6) (vregs [(4, fun _ => 0x40), (5, fun _ => 1)]) (fun _ c => let dst : CodeRef := { obj := 1, off := 0x40 }
      c.e.active != 0 && ((List.range 32).all fun l => CodeRef.ofBits (c.src64 (.v 4) l) == dst) &&
        c.callFault 4 (LaneMask.lanes c.e.active) [(dst, c.e.active)] == none && (callAdd c.g.callRec c.e.pc.obj 1).isSome) = true := by decide +kernel

/-- A call record that can grow and shrink, one that is full, one whose count is at its end. -/
def full : List (Word × Nat) := (List.range 16).map fun i => (BitVec.ofNat 32 i, 65535)
theorem test_hyp_CallResults_record :
    ((full.map Prod.fst).Nodup ∧ full.length ≤ 16 ∧ ∀ x ∈ full, 1 ≤ x.2 ∧ x.2 ≤ 65535) ∧ callAdd full 3 1 = none ∧ callAdd full 77 1 = none ∧
      callDrop full 77 = none ∧ (callDrop full 3).isSome = true ∧ (callAdd [] 3 1).isSome = true := by decide +kernel

def opened (g : Group) : Group :=
  { g with region := some { pc := { obj := 1, off := 0x40 }, regs := g.regs, ctrl := g.ctrl, active := allLanes, callRec := [], retire := 0, rpt := 0 } }
theorem test_hyp_EndingResults :
    goes [.exit, .yield, .region, .pyield] && goesWith .exit id (fun _ c => !c.g.ctxs.any fun x => x.deferred.isSome) &&
    goesWith .pyield id (fun _ c => !c.g.ctrl.preq) &&
    goesWith .pyield (setGroup fun g => { g with ctrl := { g.ctrl with preq := true } }) (fun _ c => c.g.ctrl.preq) = true := by decide +kernel

/-! #### Knots, barriers, control registers -/

def knots (f : Knot → Knot) : State → State := setTeam fun t => { t with knots := t.knots.map f }
theorem test_hyp_KnotResults :
    [(0 : Word), 2].all (fun n => [Instr.waitk 0, .yieldk 255 1].all fun i => goesWith i (knots fun k => { k with count := n }) fun _ c =>
      c.e.grant == none && c.p.inRegion (c.target 12 1) && (c.t.knots[255]?).any fun k => k.count == n && k.status == 0) &&
    [(0 : Word), 1].all (fun n => goesWith (.kinit 0 (.s 6)) (sregs [(6, n)]) fun _ c => c.sop (.s 6) == n) && goesWith (.kquery 255 4) id (fun _ c => c.p.replay.ctl == 0) = true := by decide +kernel

/-- A decrement of a knot at 2, of one at 1, and of one at 0. -/
theorem test_hyp_KnotResults_decrement :
    [(0 : Word), 1, 2].all (fun n => let s := issuing .exit (knots fun k => { k with count := n })
      (s.teams[0]?).any fun t => t.phase == .resident && (t.knots[0]?).any fun k => k.count == n) = true := by decide +kernel

/-- BAR after its release, BAR of one group among two, BAR that completes a generation; BARW before an arrival, after one, and after a release. -/
def barriers (n : Nat) : State → State := setTeam fun t => { t with barriers := t.barriers.map fun b => { b with expected := n, gen := 5 } }
def twoGroups : State → State := fun s => setTeam (fun t => { t with groups := [0, 1] })
  { s with groups := s.groups ++ (s.groups.map fun g => { g with id := 1, ctl := g.ctl.put 0 ((g.ctl.get 0).map fun e => { e with wait := .knot 0 none }) }) }
def arrivals (a : Option Nat) : State → State := setGroup fun g => { g with arrivals := Vector.replicate 16 { gen := a, abandoned := false, place := 0 } }
theorem test_hyp_BarrierResults_bar :
    goes [.bara 15] && goesWith (.bar 15) (setEntry fun e => { e with grant := some .barrier }) (fun _ c => c.e.grant == some .barrier) &&
    goesWith (.bar 15) (fun s => twoGroups (barriers 2 s)) (fun s c => let u := ((s.endRegion c).commitGroup c.gi .h).arrive c.g.team c.gi 15
      c.e.grant == none && (u.arrivalNow c 15).any (fun a => !a.abandoned && a.gen == u.barrierGen c 15)) &&
    goesWith (.bar 15) (barriers 1) (fun s c => let u := ((s.endRegion c).commitGroup c.gi .h).arrive c.g.team c.gi 15
      c.e.grant == none && (u.barrierGen c 15).isSome && (u.arrivalNow c 15).any fun a => !a.abandoned && a.gen != u.barrierGen c 15) = true := by decide +kernel
theorem test_hyp_BarrierResults_barw :
    goesWith (.barw 15) (setEntry fun e => { e with grant := some .barrier }) (fun _ _ => true) &&
    [none, some 5, some 4].all (fun a => goesWith (.barw 15) (fun s => arrivals a (barriers 2 s)) fun s c => c.e.grant == none &&
      s.barrierGen c 15 == some 5 && (c.g.arrivals.toList[15]?).any fun x => x.gen == a && !x.abandoned) = true := by decide +kernel

theorem test_hyp_ControlRegisterResults :
    goes [.getc .cause 4, .getc .landBase 4, .getc .trapBase 4, .getc .preq 4, .getc .deadline 4, .getc .phaseCnt 4, .getc .seed 4, .getc .rptIdx 4,
      .getc .round 4, .getc .fpFlags 4, .getc .trapEn 4, .getc .frame 4, .setc .landBase (.s 6), .setc .trapBase (.s 6), .setc .seed (.s 6),
      .setc .fpFlags (.s 6), .setc .trapEn (.s 6)] &&
    [(0 : Word), 1, 6, 7].all (fun n => goesWith (.setc .round (.s 6)) (sregs [(6, n)]) fun _ c => c.sop (.s 6) == n) &&
    [CtrlReg.cause, .frame, .preq, .deadline, .phaseCnt, .rptIdx].all (fun r => meets (issuing (.setc r (.s 6)) id) fun c => c.classOk (.setc r (.s 6))) = true := by
  decide +kernel

/-! #### Landings, traps and hints -/

def landable : State → State := fun s => setHeader (fun h => { h with landing := true })
  (setGroup (fun g => { g with ctrl := { g.ctrl with landBase := { obj := 1, off := 0x48 }, trapBase := { obj := 1, off := 0x48 } } }) s)
def window : Landing :=
  let x : Captured := { code := 6, present := true, low := Lanes.all 7, high := Lanes.all 0, valid := true }
  { word := 0, hint1 := 0, hint2 := 0, ref := { obj := 1, off := 0x44 }, packet := 0, mask := 0xFFFFFFFF, gmask := 0xFFFFFFFF, d := x, a := x, b := x, c := x, staged := [] }
def landedTimes (n : Nat) : State → State := setGroup fun g =>
  { g with land := List.replicate n window, ctxs := List.replicate n { landing := true, ctl := g.ctl, deferred := none } }

/-- A word that lands: at depth 0, with no handler, at depth 2. -/
theorem test_hyp_LandingResults_entry :
    meets (issuing (.landing 0) landable) (fun c => c.t.hdr.landing && c.p.handlerOk c.g.ctrl.landBase && c.g.land.length < 2 && c.g.log.length + c.g.land.length < 4 && c.g.chain == none) &&
    meets (issuing (.landing 0) id) (fun c => !c.t.hdr.landing) &&
    meets (issuing (.landing 0) fun s => landable (landedTimes 2 s)) (fun c => c.g.land.length == 2 && c.p.handlerOk c.g.ctrl.landBase) = true := by decide +kernel

/-- In a handler: RDX of a window register and of a field, WRX, and EMURET. -/
theorem test_hyp_LandingResults_access :
    goesWith (.rdx 0 7 false 4) (landedTimes 1) (fun _ c => c.g.land.length == 1) &&
    goesWith (.rdx 1 4 false 4) (landedTimes 1) (fun _ c => (match c.readField window 1 false with | .ok _ => true | _ => false)) &&
    goesWith (.wrx 1 4 false 4) (landedTimes 1) (fun _ c => (window.field 1).present && (fieldReg (window.field 1).code false).any c.fieldRegOk) &&
    goesWith .emuret (landedTimes 1) (fun _ c => (c.g.ctxs.head?).any fun x => x.landing && (x.ctl.get x.ctl.cur).isSome) = true := by decide +kernel

theorem test_hyp_TrapEntry :
    let s := issuing .exit landable
    (s.groups[0]?).any (fun g => !g.inTrap) && ((setGroup (fun g => { g with ctxs := [{ landing := false, ctl := g.ctl, deferred := none }] }) s).groups[0]?).any
      (fun g => g.inTrap) = true := by decide +kernel

/-- TRAP; TRET with nothing to return from, and from a trap whose frame reads. -/
theorem test_hyp_TrapWords :
    goesWith (.trap 7) id (fun _ c => c.hs.imms == []) && goesWith .tret id (fun _ c => c.g.ctxs == []) &&
    goesWith .tret (fun s => mapped (setGroup (fun g => { g with ctxs := [{ landing := false, ctl := g.ctl, deferred := none }] })
        { s with mem := (s.mem.write (0x100000 + 8) 0x44).write (0x100000 + 12) 1 })) (fun s c => (match s.returnSlot c.who with | .ok _ => true | .error _ => false) &&
      (c.g.ctxs.head?).any fun x => !x.landing && x.deferred == none && (x.ctl.get x.ctl.cur).isSome) = true := by decide +kernel

/-- Each hint alone, a third hint, and a second of its kind. -/
def hints : List Instr :=
  [.src3 false false (.v 8), .modh { rnd := 0, sat := true, nt := false, bf := false, scope := 0, acq := false, rel := false }, .imm 1, .grd false 1,
   .rep 3 1 1 1, .sched 1 false 0, .live 1]
theorem test_hyp_HintResults :
    hints.all (fun i => i.wf && i.hintKind.isSome && meets (issuing i id) fun c => c.e.hints == []) &&
    meets (issuing (.imm 1) (hinted [0xFC000002, 0xFC000003])) (fun c => c.e.hints.length == 2) &&
    meets (issuing (.grd false 1) (hinted [0xFC40000D])) (fun c => c.e.hints.any fun w => match decode w with
      | .ok j => j.hintKind == some 1
      | .error _ => false) = true := by decide +kernel

/-! #### Memory -/

def reached (r : Reach) : List Piece := match r with | .ok xs => xs | _ => []
def pass (r : Reach) : Bool := match r with | .ok xs => !xs.isEmpty | _ => false
def reach (s : State) (c : Cx) (i : Intent) (tb : Bool) (spans : List Span) : Reach := s.reach c.p (s.sitesOf c.t.hall) i tb spans
/-- The conditions of an access through a base register (the fields of `Clears`). -/
def clear (s : State) (c : Cx) (i : Intent) (o : Operands) (align bytes : Nat) (errs : List Span → Errors) : Bool :=
  let r := reach s c i true (globalSpans c.p i o bytes)
  (List.range 32).all (fun l => !o.act.getLsbD l || ((o.tb.base.toNat : Int) + o.offset l) % (align : Int) == 0) && pass r &&
    errs (globalSpans c.p i o bytes) s (reached r) == none
/-- No lane of a load, or every one, misses (`Whole`). -/
def wholeLoad (s : State) (c : Cx) (owner : Option Nat) (spans : List Span) (m : LaneMask) (xs : List Piece) : Bool :=
  let missing := m &&& ~~~(s.hitLanes c.who owner spans xs)
  missing == 0 || missing == m
def opsOf (c : Cx) (f : MForm) : Operands := c.mOps f (sizeBytes f.size) true
def dataOf (c : Cx) (f : MForm) : Nat → List Byte := storeBytes f.size (c.g.regs.run f.d.toNat (sizeRegs f.size))
def loads (s : State) (c : Cx) (f : MForm) : Bool :=
  let o := opsOf c f
  let spans := globalSpans c.p .load o (sizeBytes f.size)
  clear s c .load o (sizeAlign f.size) (sizeBytes f.size) c.who.loadErrors && wholeLoad s c none spans (c.act f.gd) (reached (reach s c .load true spans))
/-- A base register whose frame is held, and one whose frame has been released. -/
def based (held : Bool) : State → State := fun s => setRegs (fun r => r.setTb 1
  { base := 4096, limit := 65536, wr := true, dsc := true, shr := true,
    frame := if held then some { va := 0, bytes := 2 ^ 30, key := 0, guest := 0, w1 := true, w2 := true, dsc := true, shr := true, cnt := false } else none }) (mapped s)
def globalLine (n : Nat) : State → State := fun s => s.updHall 0 fun h => { h with l1 := [{ line := n, owner := none, dirty := 0 }] }

/-- LD of every size at the page's edge, of lanes that all miss, of lanes that all hit, by the fast path, and after a release. -/
theorem test_hyp_LoadResults_ld :
    [Size.n8, .i8, .n16, .i16, .word, .double, .quad].all (fun z => let f := { mf with size := z }
      goesWith (.ld f) (fun s => vregs [(8, fun _ => 4096 - BitVec.ofNat 32 (sizeBytes z))] (mapped s)) fun s c =>
        loads s c f && f.d.toNat + sizeRegs z ≤ 128) &&
    goesWith (.ld mf) (fun s => globalLine 0 (mapped s)) (fun s c =>
      let spans := globalSpans c.p .load (opsOf c mf) 4
      loads s c mf && s.hitLanes c.who none spans (reached (reach s c .load true spans)) == allLanes) &&
    [true, false].all (fun held => goesWith (.ld mf) (based held) fun s c =>
      loads s c mf && (globalSpans c.p .load (opsOf c mf) 4).any (fun sp => sp.fast.isSome) == held) = true := by decide +kernel

def private4 : State → State := fun s => mapped (setHeader (fun h => { h with priv := 4 }) s)
/-- The lines of the last private word's frame row are in L1. -/
def privLine0 : State → State := fun s => s.updHall 0 fun h => { h with l1 := (List.range 4).map fun n => { line := n, owner := some 0, dirty := 0 } }
def privSpansOf (c : Cx) (f : LForm) : List Span :=
  (LaneMask.lanes (c.act f.gd)).map fun l => ({ lane := l, runs := (List.range (sizeBytes f.size / 4)).map fun (j : Nat) =>
    ((c.t.privBase c.g.id : Int) + ((((c.src f.x l).toNat : Int) + c.hs.offset (sizeBytes f.size / 4) f.imm + j) * 32 + l) * 4, 4) } : Span)
/-- The pieces of a private access lie each in one line that L1 holds for the group. -/
def heldLines (s : State) (c : Cx) (xs : List Piece) : Bool :=
  xs.all fun x => s.holdsL1 c.t.hall (lineOf x.key) (some c.gi) && 0 < x.len && x.key % 128 + x.len ≤ 128
/-- SLD; LDS of the scratchpad's last word; LDP of the last private word, of lines that L1 holds and of others. -/
theorem test_hyp_LoadResults_others :
    goesWith (.sld 4 1 (.s 6) 0) (fun s => sregs [(6, 4092)] (mapped s)) (fun s c =>
      clear s c .load { act := 1, x := c.srcLanes (.s 6), data := [], off := c.hs.offset 4 0, tb := c.g.regs.tbReg 1, tbn := some 1, hints := [], chain := none } 4 4
        c.who.loadErrors) &&
    goesWith (.lds lf) (vregs [(8, fun _ => 32764)]) (fun _ c => (c.src (.v 8) 0).toNat + 4 == c.t.hdr.scratch) &&
    [false, true].all (fun held => goesWith (.ldp lf) (fun s => vregs [(8, fun _ => 3)] (private4 (if held then privLine0 s else s))) (fun s c =>
      let spans := privSpansOf c lf
      let r := reach s c .load false spans
      pass r && c.who.privLoadErrors spans s (reached r) == none && wholeLoad s c (some c.gi) spans (c.act 0) (reached r) && c.who.privLimit == 4 &&
        heldLines s c (reached r) == held)) = true := by decide +kernel

/-- ST within the quota, past it, and under MOD.nt. -/
theorem test_hyp_StoreResults :
    let stores := fun (s : State) (c : Cx) => clear s c .store (opsOf c mf) 4 4 fun spans => c.who.storeErrors spans (dataOf c mf)
    let past := fun (s : State) (c : Cx) => c.g.overQuota c.t.hdr.quota
      (ownStores false (reached (reach s c .store true (globalSpans c.p .store (opsOf c mf) 4))) (dataOf c mf))
    goesWith (.st mf) mapped (fun s c => stores s c && !past s c) &&
    goesWith (.st mf) (fun s => setHeader (fun h => { h with quota := 0 }) (mapped s)) (fun s c => stores s c && past s c) &&
    goesWith (.st mf) (fun s => hinted [nt] (mapped s)) (fun s c => stores s c && c.hs.modh.any ModForm.nt) = true := by decide +kernel

/-- ST.nt with a store of the group's that stays, where the header opens regions and the group may, where it may not, and without the flag. -/
theorem test_hyp_StoreForms_nt :
    [(true, true), (true, false), (false, true)].all (fun x => goesWith (.st mf) (fun s => hinted [nt] (setHeader (fun h => { h with regions := x.1 })
        (setGroup (fun g => { ((opened g).addStore { key := 4096, val := 7, nt := false, level := none, since := true, inRegion := true, atomicAfter := false, fence := 0, va := 4096, shr := false }) with
          ctxs := if x.2 then [] else [{ landing := true, ctl := g.ctl, deferred := none }], land := if x.2 then [] else [window] }) (mapped s)))) fun s c =>
      clear s c .store (opsOf c mf) 4 4 (fun spans => c.who.storeErrors spans (dataOf c mf)) && c.hs.modh.any ModForm.nt && c.t.hdr.regions == x.1 && c.g.mayOpen == x.2 &&
        c.g.stores != []) = true := by decide +kernel

/-- STS of the scratchpad's last word; STP of the last private word, into lines that L1 holds and others. -/
theorem test_hyp_LocalStoreResults :
    goesWith (.sts lf) (vregs [(8, fun _ => 32764)]) (fun _ c => c.t.spad.wf && (c.src (.v 8) 0).toNat + 4 == c.t.hdr.scratch) &&
    [false, true].all (fun held => goesWith (.stp lf) (fun s => setEntry (fun e => { e with active := 0x80000001 })
        (vregs [(8, fun _ => 3)] (private4 (if held then privLine0 s else s)))) (fun s c =>
      let spans := privSpansOf c lf
      let r := reach s c .store false spans
      pass r && c.who.privStoreErrors spans (storeBytes .word (c.g.regs.run 4 1)) s (reached r) == none && c.g.priv == [] && c.who.privLimit == 4 &&
        heldLines s c (reached r) == held)) = true := by decide +kernel

/-- Lanes that are misaligned or beyond a bound, and a page that is not mapped. -/
def faulted : State → State := setPart fun p => { p with xlat := { p.xlat with verdicts := [(0, { result := .page false 0 0 false, readOnly := false })] } }
theorem test_hyp_AccessFailures :
    [Instr.ld mf, .st mf].all (fun i => goesWith i (fun s => vregs [(8, fun l => BitVec.ofNat 32 (l % 2))] (mapped s)) fun _ c =>
      c.laneAddr 1 (.v 8) (c.hs.offset 4 0) 1 % 4 != 0 && c.laneAddr 1 (.v 8) (c.hs.offset 4 0) 0 % 4 == 0) &&
    [Instr.lds lf, .sts lf].all (fun i => goesWith i (vregs [(8, fun _ => 32768)]) fun _ c => c.t.hdr.scratch < (c.src (.v 8) 0).toNat + 4) &&
    [Instr.ldp lf, .stp lf].all (fun i => goesWith i (vregs [(8, fun _ => 4)]) fun _ c => c.who.privLimit < (c.src (.v 8) 0).toNat + 1) &&
    [(Instr.ld mf, Intent.load), (.st mf, .store)].all (fun x => goesWith x.1 faulted fun s c => c.g.log.length + c.g.land.length < 4 &&
      match reach s c x.2 true (globalSpans c.p x.2 (opsOf c mf) 4) with | .page fs _ m => fs.length == 1 && m == allLanes | _ => false) = true := by decide +kernel

/-- Local accesses within their bounds that are misaligned: an odd address, and an odd word of a pair. -/
theorem test_hyp_AccessFailures_align :
    [Instr.lds lf, .sts lf].all (fun i => goesWith i (vregs [(8, fun l => BitVec.ofNat 32 (4 * l + l / 31))]) fun _ c =>
      (List.range 32).all fun l => (c.src (.v 8) l).toNat + 4 ≤ c.t.hdr.scratch && ((c.src (.v 8) l).toNat % 4 != 0) == (l == 31)) &&
    (let f := { lf with size := Size.double }
     [Instr.ldp f, .stp f].all fun i => goesWith i (fun s => vregs [(8, fun l => BitVec.ofNat 32 (l % 2))] (private4 s)) fun _ c =>
       (List.range 32).all fun l => (c.src (.v 8) l).toNat + 2 ≤ c.who.privLimit && ((c.src (.v 8) l).toNat % 2 != 0) == (l % 2 == 1)) = true := by decide +kernel

/-- The atomics of 32 and of 64 bits. -/
def atomics (f : AForm) : List Instr :=
  [.atomSwap f, .atomAdd f, .atomAnd f, .atomOr f, .atomXor f, .atomMin f, .atomMax f, .atomNmin f, .atomNmax f, .atomCas f, .atomFadd f, .atomLoad f, .atomStore f]
theorem test_hyp_AtomicResults :
    [false, true].all (fun z => let f := { af with wide := z }
      let n := if z then 8 else 4
      goes (atomics f) && [Instr.atomLoad f, .atomFadd f].all fun i => goesWith i mapped fun s c =>
        let j := if i == .atomLoad f then Intent.atomLoad else .atomic
        clear s c j (c.aOps f 4) n n (c.who.atomErrors c.hs.atomScope) && c.p.replay.ctl == 0 &&
          ((reached (reach s c j true (globalSpans c.p j (c.aOps f 4) n))).map Piece.lane).Nodup && !c.g.anyEntry fun e => e.wait == .watch) = true := by decide +kernel

/-- The state after reset holds no tracked and no protected write, and memory in its canonical form. -/
theorem test_hyp_AtomicResults_lane :
    let s := issuing .exit id
    (s.groups[0]?).any (fun g => g.stores == []) = true ∧ ((∀ p ∈ s.parts, p.mig.track = false ∧ p.cfg.protect = false) ∧ s.homes.seals = []) ∧ s.mem.wf = true := by decide +kernel

/-- The phase words, and WAITW with no watch, with one that has fired and with one that has not. -/
def watching (b : Bool) : State → State := setGroup fun g => { g with watch := [{ line := 0, fired := b }] }
theorem test_hyp_PhaseWordResults :
    goes [.commitAt .g, .commitAt .h, .commitAt .p, .commitAt .y, .beginAt .g, .beginAt .y, .fence .g, .fence .h, .drain .p, .waitw] &&
    goesWith .waitw (watching true) (fun _ c => c.g.watch.any WatchEntry.fired) && goesWith .waitw (watching false) (fun _ c =>
      !c.g.ctrl.preq && c.e.grant != some .woken && c.g.watch != [] && c.g.watch.all fun w => !w.fired) = true := by decide +kernel

/-- A granule without commits, and one with a visible commit, matched and not. -/
def oneCommit (sc : Scope) (n : Nat) : Commit :=
  { gran := 1, bytes := List.replicate 16 (some 5), scope := sc, party := { part := some 0, hall := some 9, group := some 9 }, seq := n, atHome := true,
    prior := List.replicate 16 3, atomic := false, sector := false, discard := false, fences := List.replicate 16 none }
def readerAt (n : Nat) : Reader := { party := { part := some 0, hall := some 0, group := some 0 }, beginH := n, beginP := n, beginY := n, sysHome := false }
theorem test_hyp_CommitAndRead :
    State.reset.homes.seals = [] ∧ (State.reset.hist.filter fun k => k.gran == 1 && k.visible (readerAt 0)) = [] ∧
    (oneCommit .p 4).visible (readerAt 5) = true ∧ (oneCommit .p 4).matched (readerAt 5) = true ∧ (oneCommit .p 4).matched (readerAt 4) = false ∧
    (oneCommit .p 4).prior.length = 16 ∧ (oneCommit .p 4).bytes[15]? = some (some 5) := by decide +kernel

theorem test_hyp_MemoryWordResults :
    goesWith (.tbset 3 4 6) (fun s => sregs [(4, 0x1000), (6, 64)] (mapped s)) (fun s c =>
      match reach s c .load false (oneSpan (c.g.regs.spair 4).toNat 1) with
      | .ok [x] => (match x.found with | .hit _ => true | _ => false)
      | _ => false) &&
    goesWith (.ktie 255 4) (fun s => sregs [(4, 0x1000)] (mapped s)) (fun s c => (c.t.knots[255]?).isSome &&
      match reach s c .load false (oneSpan (c.g.regs.spair 4).toNat 4) with | .ok [_] => true | _ => false) &&
    goes [.stepCounter (.const 63), .pfetch 1 (.v 8)] &&
    goesWith (.watch 1 4) mapped (fun s c => c.g.watch == [] && match reach s c .load true (oneSpan 0 1) with | .ok [x] => keyClass x.key == 0 | _ => false) &&
    [(0 : Word), 1].all (fun n => goesWith (.discard 1 4 6) (fun s => sregs [(6, n)] (mapped s)) fun s c => let sp := if n = 0 then [] else oneSpan 0 128
      (reach s c .store true sp == .ok (reached (reach s c .store true sp))) &&
        (sp.flatMap (s.pieces c.p (s.sitesOf c.t.hall) .store true)).all (fun x => !x.noDiscard c.p (s.sitesOf c.t.hall)) && s.homes.seals == [] && s.mem.wf) = true := by decide +kernel

/-! #### The matrix engine -/

def bindSlot0 (k : SlotKind) : State → State := setTeam fun t =>
  { t with slots := t.slots.set 0 { bound := some (16, k), cells := Vector.replicate 1024 0, counts := Vector.replicate 1024 0 } }
theorem test_hyp_MatrixWordResults :
    [Instr.zero 3 255, .drainSlot 3, .accld 255 4, .accst 255 4].all (fun i => goesWith i id fun _ c =>
      c.collective && c.t.tiles.wf && c.t.spad.wf && (c.t.slot 3).bound == none && (c.g.regs.sreg 4).toNat % 64 == 0) &&
    [SlotKind.opened, .fp32, .fp64, .integer].all (fun k => [Instr.drainSlot 0, .fold 0, .accrd 0 6 31, .accwr 0 6 31, .galst 0 4].all fun i =>
      goesWith i (bindSlot0 k) fun s c => !s.slotTaken c.t c.gi 0 && (c.t.slot 0).bound == some (16, k) && c.collective && (c.g.regs.sreg 4).toNat + 1024 ≤ c.t.hdr.scratch) = true := by decide +kernel

/-- Another group of the team runs a chain on slot 0. -/
def chainOf (steps : List Nat) (reads : List OperandRead) (form : MmaForm) : Chain :=
  { strand := some 0, log := none, ref := { obj := 1, off := 0x40 }, hints := [], form := form, steps := steps, a := 0, b := 0, x := 0, tba := TbReg.none,
    tbb := TbReg.none, rnd := 1, seed := 0, retire := 0, trapEn := 0, begins := 0, inRegion := false, reads := reads }
def taken : State → State := fun s => (twoGroups (bindSlot0 .integer s)).updGroup 1 fun g => { g with chain := some (chainOf [31] [] mm) }
theorem test_hyp_MatrixWordResults_taken :
    [Instr.zero 0 0, .drainSlot 0, .fold 0, .accrd 0 6 0, .accwr 0 6 0, .galst 0 4].all (fun i => goesWith i taken fun s c => c.collective && s.slotTaken c.t c.gi 0) = true := by
  decide +kernel

/-- A matrix word of a strand without all its lanes. -/
theorem test_hyp_MatrixWordResults_convergence :
    [Instr.zero 0 0, .drainSlot 0, .fold 0, .accrd 0 6 0, .accwr 0 6 0, .accld 0 4, .accst 0 4, .galst 0 4, .mma mm].all (fun i =>
      goesWith i (setEntry fun e => { e with active := 1 }) fun _ c => c.e.active != allLanes) = true := by decide +kernel

/-- An MMA of an unbound slot, of a slot without a live step (SRC3 names 0 as its bitmap), and one whose chain starts. -/
theorem test_hyp_MmaResults :
    goesWith (.mma mm) id (fun _ c => c.collective && slotRefuses c.t mm) &&
    goesWith (.mma mm) (fun s => hinted [0xFC8000E0] (bindSlot0 .integer s)) (fun s c => c.collective && !slotRefuses c.t mm && (c.chain s mm).steps == []) &&
    goesWith (.mma mm) (bindSlot0 .integer) (fun s c => let ch := c.chain s mm
      c.collective && !slotRefuses c.t mm && ch.steps != [] && match s.startChain c.who { ch with reads := s.captureSpad c.who ch } with
        | .run _ => !s.slotTaken c.t c.gi mm.slot
        | _ => false) = true := by decide +kernel

/-- A chain with one step left, and one with two, whose operands for step 31 have been read, or not. -/
def beating (steps : List Nat) (reads : List OperandRead) : State → State := fun s => setGroup (fun g =>
  { g with chain := some { chainOf steps reads mm with rnd := 0 },
           ctl := g.ctl.put 0 ((g.ctl.get 0).map fun e => { e with wait := .chain }) }) (bindSlot0 .integer s)
def beat (steps : List Nat) (reads : List OperandRead) (k : State → Who → Chain → Bool) : Bool :=
  let s := beating steps reads (State.reset.withFetchWord 32 (wordOfInstr (.mma mm)).toNat)
  (s.who? 0).any fun w => w.g.chain.any fun ch => ch.steps == steps && !slotRefuses w.t mm && (w.t.slot 0).bound == some (16, .integer) && !w.t.hdr.carryTrap &&
    k s w ch
theorem test_hyp_MmaResults_beat :
    [[31], [30, 31]].all (fun steps => beat steps [] fun s w ch => (ch.unread 31).isEmpty && mmaKind mm.fmt == .integer &&
      ch.operandBytes 31 0 == [] && ch.operandBytes 31 1 == [] && (match s.beatStep w ch 16 31 with
        | .done _ => true
        | _ => false)) &&
    beat [31] [{ step := 31, operand := 1, bytes := [], runs := [{ pid := 0, va := 4096, key := 4096, len := 128, cnt := false, shr := false }] }] (fun s w ch =>
      !(ch.unread 31).isEmpty && s.beatReady w ch && s.stepError w ch 31 == none && !s.tracks && (ch.unread 31).all fun x => !x.cnt) = true := by decide +kernel

/-- The last step of a chain whose strand has gone on, of an MMA issued and of one replayed from the log. -/
theorem test_hyp_MmaResults_end :
    [none, some 3].all (fun log => let s := setGroup (fun g => { g with chain := some { chainOf [31] [] mm with strand := none, log := log } }) (bindSlot0 .integer base)
      (s.who? 0).any fun w => w.g.chain.any fun ch => ch.strand == none && ch.log == log && (ch.unread 31).isEmpty && (w.t.slot 0).bound == some (16, .integer) &&
        (match s.beatStep w ch 16 31 with | .done _ => true | _ => false)) = true := by decide +kernel

/-- The operands of a step of each float format, without a bad block; a beat of FP64 that raises no enabled flag, and one that does (zero times infinity). -/
def floatChain (fmt : MmaFmt) (a b x : List Byte) : Chain := chainOf [0] [{ step := 0, operand := 0, bytes := a, runs := [] }, { step := 0, operand := 1, bytes := b, runs := [] },
  { step := 0, operand := 2, bytes := x, runs := [] }] { mm with fmt := fmt }
theorem test_hyp_FloatBeats :
    [MmaFmt.fp64, .fp32, .fp16, .bf16, .blk, .blk24].all (fun f => let ch := floatChain f (List.replicate (aBytes f) 0) (List.replicate (bBytes f) 0) (List.replicate 16 (15 :: List.replicate 63 0)).flatten
      mmaKind f != .integer && ch.badBlock 0 == none && (ch.operandBytes 0 0).length == aBytes f && (ch.operandBytes 0 1).length == bBytes f) = true := by decide +kernel
/-- With no flag enabled every beat is quiet; with invalid enabled, one whose first cell multiplies zero and infinity is not. -/
theorem test_hyp_FloatBeats_flags :
    (let s := bindSlot0 .fp64 base
     (s.who? 0).any fun w => w.g.team == 0 && (s.teams[0]?).any (fun t => (t.slot 0).bound == (w.t.slot 0).bound) && (w.t.slot 0).bound == some (16, .fp64)) &&
    (let a : List Byte := [0, 0, 0, 0, 0, 0, 0xF0, 0x7F] ++ List.replicate 504 0
     let b : List Byte := List.replicate 512 0
     a.length == aBytes .fp64 && b.length == bBytes .fp64 && ((Fmt.fp64.decode (fieldAt a 0 8)).mul (Fmt.fp64.decode (fieldAt b 0 8))).2 &&& 1 != 0) = true := by decide +kernel

/-- Carries: a count that goes up, that comes to 0, that would pass 127; a reserve, a pool of no entry and one with room. -/
def counted (reserve : Nat) (n : Int) : State := setTeam (fun t => { t with
  hdr := { t.hdr with reserve := reserve },
  slots := t.slots.set 3 { bound := some (16, .integer), cells := Vector.replicate 1024 0, counts := Vector.replicate 1024 n } }) base
theorem test_hyp_CarryCounts :
    [(0, 5), (0, -1), (0, 127), (4, 0), (2, 0), (0, 0)].all (fun x => let s := counted x.1 x.2
      (s.teams[0]?).any fun t => (s.halls[t.hall]?).any fun h => (t.slot 3).bound == some (16, .integer) && t.tiles.wf && (t.slot 3).counts.toList.getD 1023 9 == x.2 &&
        s.poolSize t.hall == 2048 - 1024 * x.1 && h.pool == []) = true := by decide +kernel
/-- Under TRAP, a beat whose carries find no entry: no pool, a slot beyond the reserve, and a first cell at its greatest value that gains 1. -/
theorem test_hyp_CarryCounts_full :
    (let s := setTeam (fun t => { t with hdr := { t.hdr with carryTrap := true, reserve := 2 },
                                         slots := t.slots.set 3 { bound := some (16, .integer), cells := Vector.replicate 1024 0x1FFFFF, counts := Vector.replicate 1024 0 } }) base
     let ch := floatChain .int8 (1 :: List.replicate 2047 0) (1 :: List.replicate 2047 0) []
     let row := fun n => intElems .int8 (opRow (ch.operandBytes 0 n) 0)
     (s.who? 0).any fun w => w.t.hdr.carryTrap && w.t.hdr.reserve ≤ 3 && s.poolSize w.t.hall == 0 && (w.t.slot 3).counts.toList.getD 0 9 == 0 &&
       2 ^ 21 ≤ (((w.t.slot 3).cells.toList.getD 0 0).extractLsb' 0 22).toInt + ((row 0).zip (row 1)).foldl (fun t x => t + x.1 * x.2) 0) = true := by decide +kernel

/-! #### Engine commands -/

def command (i : Instr) (phase : CmdPhase) : Cmd :=
  { team := 0, group := 0, part := 0, engine := .stair 0, instr := i, knot := 0, record := 0x1000, ref := { obj := 1, off := 0x40 }, hall := 0, phase := phase, pending := [],
    status := 0, addr := 0, beginSeq := 0, order := 0, matched := false, braid := none, data := none, remote := [], know := [], readSpad := false }
/-- A state with one command, and its record in memory. -/
def commanded (c : Cmd) (rec_ : List Byte) : State := mapped { issuing .exit id with cmds := [c], mem := Mem.writeN [] 0x1000 rec_ }
def fields (xs : List (Nat × Nat)) : List Byte := xs.flatMap fun x => natLe x.1 x.2

theorem test_hyp_EngineWordResults :
    [Instr.stair 0 4, .stairg 0 4, .hoist 31 0 4, .braid 15 0 4, .cmpr 7 0 4, .dcmp 0 0 4].all (fun i =>
      goesWith i id (fun s c => s.queued (c.engine i) == 0) &&
      goesWith i (fun s => { s with cmds := List.replicate 64 { command i .queued with
        engine := ((issuing i id).cx?.map fun c => c.engine i).getD (.stair 0) } }) (fun s c => s.queued (c.engine i) == 64)) = true := by decide +kernel

def pendingSector (space addr : Nat) : SectorWrite := { space := space, addr := addr, bytes := List.replicate 32 (some 7), va := addr, shr := false }
theorem test_hyp_EngineWordResults_sector :
    [(0, 0), (1, 32736)].all (fun x => let s := commanded { command (.stair 0 4) .writing with pending := [pendingSector x.1 x.2] } []
      (s.job? 0).any fun j => j.c.pending.all (fun w => w.bytes.length == 32 && w.addr % 32 == 0) && j.c.pending != [] && s.homes.seals == [] && s.parts.all (fun p => !p.mig.track && !p.cfg.protect) && s.mem.wf) = true := by decide +kernel

/-- Records of a STAIR of one dimension of two words, of a STAIRG of one row, and of a HOIST of one row: each is read, sound and within bounds. -/
def stairRec : List Byte := fields [(1, 1), (1, 1), (1, 2), (1, 0), (4, 0), (8, 0x2000), (8, 0x3000), (8, 0), (8, 2), (8, 4), (8, 4)]
def gatherRec : List Byte := fields [(1, 2), (1, 4), (2, 0), (4, 16), (8, 0x2000), (8, 16), (8, 0x3000), (8, 16), (8, 0x4000), (4, 1), (4, 1), (8, 0)]
def hoistRec : List Byte := fields [(8, 3), (8, 0x2000), (8, 0x3000), (8, 16), (4, 1), (4, 0), (8, 16), (8, 16), (8, 0)]
def copies (s : State) (j : Job) (p : CopyPlan) : Bool :=
  (match j.checkBounds p with | .ok _ => true | _ => false) &&
    ((s.begins j).copyElems j p p.elems { read := [], writes := [], stop := none }).stop.isNone && !p.elems.isEmpty
def runs (s : State) (k : State → Job → Bool) : Bool := (s.job? 0).any fun j => s.mayStart 0 && k (s.begins j) j
theorem test_hyp_EngineRuns :
    runs (commanded (command (.stair 0 4) .queued) stairRec) (fun u j => match u.readRecord j 0 32, u.readRecord j 32 24 with
      | .ok h, .ok rest => fieldAt h 0 1 == 1 && fieldAt h 1 1 == 1 && (match j.stairPlan (h ++ rest) with
        | .ok p => copies u j p
        | _ => false)
      | _, _ => false) &&
    runs (commanded (command (.stairg 0 4) .queued) gatherRec) (fun u j => match u.readRecord j 0 64 with
      | .ok rec_ => (match j.checkGather rec_ with
        | .ok g => (match j.checkBounds (g.plan (List.replicate g.rows (2 ^ (8 * g.idx) - 1))), u.readIndices j g with
          | .ok _, .ok idx => idx.all (fun n => n < g.bound || n == 2 ^ (8 * g.idx) - 1) && copies u j (g.plan idx)
          | _, _ => false)
        | _ => false)
      | _ => false) &&
    runs (commanded { command (.hoist 0 0 4) .queued with engine := .hoist 0 } hoistRec) (fun u j => match u.readRecord j 0 64 with
      | .ok rec_ => (match j.hoistPlan rec_ with
        | .ok p => copies u j p
        | _ => false)
      | _ => false) = true := by decide +kernel

/-- A CMPR of no byte; a DCMP of a frame of no byte, of one that ends early, and of one byte with no room for it. -/
def cmprRec (level len cap : Nat) : List Byte := fields [(1, 5), (1, level), (6, 0), (8, 0x2000), (8, len), (8, 0x3000), (8, cap), (8, 0x4000), (16, 0)]
def squeezes (i : Instr) (level cap : Nat) (source : List Byte) (k : State → Job → CmprRecord → List Byte → Bool) : Bool :=
  let s := commanded { command i .queued with engine := .cmpr 0 } (cmprRec level source.length cap)
  runs { s with mem := s.mem.writeN 0x2000 source } fun u j => match u.readRecord j 0 64 with
    | .ok rec_ => (match j.checkCmpr rec_ (fun l => if level == 0 then l == 0 else 1 ≤ l && l ≤ 19) with
      | .ok r => (match u.engRead j r.src r.len with
        | .ok (bytes, _) => k u j r bytes
        | _ => false)
      | _ => false)
    | _ => false
theorem test_hyp_EngineRuns_cmpr :
    squeezes (.cmpr 0 0 4) 19 64 [] (fun _ _ r bytes => r.level == 19 && bytes == []) &&
    squeezes (.dcmp 0 0 4) 0 64 (rawFrame []) (fun u j r bytes => match zstdDecode bytes, u.engPut j [] 0 r.dst [] with
      | some [], .ok ws => (match u.engPut j ws 0 r.result (natLe 8 0) with
        | .ok _ => true
        | _ => false)
      | _, _ => false) &&
    squeezes (.dcmp 0 0 4) 0 64 ((rawFrame []).take 12) (fun _ _ _ bytes => zstdDecode bytes == none) &&
    squeezes (.dcmp 0 0 4) 0 0 (rawFrame [7]) (fun _ _ r bytes => zstdDecode bytes == some [7] && r.cap == 0) = true := by decide +kernel

/-- Two ranks in this package: commands that agree, and two that do not; one that has matched, before and after the sources are read. -/
def rankInfo (rank op : Nat) : BraidInfo :=
  { tag := 7, ranks := 2, rank := rank, op := op, typ := 0, red := 0, count := 1, root := 0, source := 0x2000, dest := 0x3000, desc := 0x4000, timeout := 0,
    ordinal := 0, here := [(0, 0, 0), (1, 0, 1)] }
def rankCmd (rank op : Nat) (matched : Bool) (data : Option (List Byte)) : Cmd :=
  { command (.braid (BitVec.ofNat 5 rank) 0 4) .running with engine := .braid rank, braid := some (rankInfo rank op), matched := matched, data := data }
def ranks (a b : Cmd) : State := { commanded a [] with cmds := [a, b] }
theorem test_hyp_CommandEvents :
    [0, 1].all (fun op => let s := ranks (rankCmd 0 0 false none) (rankCmd 1 op false none)
      (s.job? 0).any fun j => let ms := s.braidMates (rankInfo 0 0)
        j.c.braid == some (rankInfo 0 0) && [0, 1].all (fun k => ms.any fun m => m.2.rank == k) && (ms.all (fun m => m.2.agrees (rankInfo 0 0)) == (op == 0)) && j.c.phase == .running) &&
    [none, some [1, 2, 3, 4]].all (fun d => let s := ranks (rankCmd 0 0 true d) (rankCmd 1 0 true d)
      (s.job? 0).any fun j => j.c.matched && (match s.engRead j 0x2000 4 with | .ok _ => true | _ => false) &&
        (s.braidPeers (rankInfo 0 0)).all (fun m => (s.cmds[m.1]?).any fun c => c.data == d) && 2 ≤ (s.braidPeers (rankInfo 0 0)).length &&
        (match s.engPut j [] 0 0x3000 [1, 2, 3, 4] with | .ok _ => true | _ => false)) &&
    (let s := commanded (command (.stair 0 4) .decrement) []
     (s.job? 0).any fun j => j.c.phase == .decrement) = true := by decide +kernel

/-! #### System words -/

/-- A group-level read translates and finds no error (the fields of `Fetches`). -/
def fetches (s : State) (w : Who) (align va n : Nat) : Bool :=
  let sp := if n = 0 then [] else oneSpan va n
  va % align == 0 && (match s.reach w.p (s.sitesOf w.t.hall) .load false sp with
    | .ok xs => w.loadErrors sp s xs == none
    | _ => false)

/-- PUBLISH of an image of one page; BIND of the entry of object 1; UNBIND of a slot; a slot of a reserved state; BIND of no object; the release
of a hold. -/
def slotted (state : Word) : State → State := fun s => sregs [(6, 0x1000), (8, 0x40), (9, 1)] (mapped { s with mem := s.mem.writeN 0x1000 (natLe 4 state.toNat) })
theorem test_hyp_PublishBindResults :
    [true, false].all (fun b => goesWith (.publish 4 6 8) (fun s => sregs [(6, 0x1000), (8, 64)] (mapped (if b then setGroup (fun g =>
        ((opened g).addStore { key := 16, val := 7, nt := false, level := none, since := true, inRegion := true, atomicAfter := false, fence := 0, va := 16, shr := false })) s else s))) fun s c =>
      let s1 := s.commitGroup c.gi .p
      let s2 := (if c.g.carriesRegion .p then (s1.endRegion c).unpin c.p.id else s1).beginGroup c.gi .p
      c.g.carriesRegion .p == b && (s2.who? c.gi).any fun w => w.p.id == c.p.id && fetches s2 w 64 (c.g.regs.spair 6).toNat (c.g.regs.sreg 8).toNat) &&
    [(0 : Word), 2, 3].all (fun st => [Instr.bindSlot 4 6 8, .unbind 4 6 8, .unbindReleaseHold 4 6 8].all fun i => goesWith i (slotted st) fun s c =>
      let u := s.commitGroup c.gi .y
      c.p.bindStatus (CodeRef.ofBits (c.g.regs.spair 8)) == 0 && c.p.replay.ctl == 0 && c.g.regs.spair 6 != 0 && u.mem.wf && u.homes.seals == [] && u.parts.all (fun p => !p.mig.track && !p.cfg.protect) && u.mem.num 0x1000 4 == st.toNat &&
        (match reach u c .atomic false (oneSpan 0x1000 32) with
         | .ok (x :: xs) => c.who.atomErrors .y (oneSpan 0x1000 32) u (x :: xs) == none && x.key % 32 == 0
         | _ => false) && (u.groups[c.gi]?).any fun g => g.stores == []) &&
    goesWith (.bindSlot 4 6 8) id (fun _ c => c.p.bindStatus (CodeRef.ofBits (c.g.regs.spair 8)) == 8) &&
    [Instr.unbind 4 6 8, .unbindReleaseHold 4 6 8].all (fun i => goesWith i id fun _ c => c.g.regs.spair 6 == 0) = true := by decide +kernel

/-- Launch records: sound; with a reserved field; of a recorded grid. The rest as LAUNCH goes: a hold, a hall that never fits, a full queue. -/
def launchRec (flags reserved : Nat) : List Byte :=
  fields [(8, 0x100000000), (4, 0), (1, 7), (1, 0), (1, 0), (1, flags), (8, 0), (8, 0), (4, 1), (4, reserved), (8, 0x4000), (8, 0), (8, 0)]
def launching (rec_ : List Byte) (f : State → State) : State → State := fun s => f (sregs [(6, 0x1000)] (mapped { s with mem := s.mem.writeN 0x1000 rec_ }))
def grid : Grid :=
  { part := 0, ref := { obj := 1, off := 0 }, hdr := openHeader, teams := 1, queue := 7, knot := 0, deps := [], record := 0, args := 0, privArea := 0, frames := 1,
    saveArea := 0x4000, nextTeam := 0, released := [], foyerTeam := 0, queued := true, done := false, recNo := 0 }
def launches (rec_ : List Byte) (f : State → State) (p : State → Cx → Header → Bool) : Bool :=
  goesWith (.launch 4 6) (launching rec_ f) fun s c => let v := s.commitGroup c.gi .y
    fetches v c.who 1 0x1000 64 && fetches v c.who 1 0x1040 0 && (v.readPieces c.who (reached (reach v c .load false (oneSpan 0x1000 64))) 0 == rec_) &&
      (c.p.launchHeader (CodeRef.ofBits (BitVec.ofNat 64 (fieldAt rec_ 0 8)))).any fun h =>
        fieldAt rec_ 0x0D 1 < c.t.hdr.knots && fieldAt rec_ 0x0E 1 ≤ 16 && fieldAt rec_ 0x0F 1 ≤ 1 && p s c h
theorem test_hyp_LaunchResults_record :
    launches (launchRec 0 1) id (fun _ _ h => !recordOk h (launchRec 0 1)) && launches (launchRec 1 0) id (fun _ _ h => recordOk h (launchRec 1 0) && !h.replay) &&
    launches (launchRec 0 0) id (fun s c h => recordOk h (launchRec 0 0) && c.p.cc.holdState == 0 && s.everFits c.p h && c.p.replay.ctl == 0 && s.grids == []) = true := by
  decide +kernel
theorem test_hyp_LaunchResults_queue :
    launches (launchRec 0 0) (setPart fun p => { p with cc := { p.cc with holdState := 1 } }) (fun _ c h => recordOk h (launchRec 0 0) && c.p.cc.holdState != 0) &&
    launches (launchRec 0 0) (setPart fun p => { p with halls := [] }) (fun s c h => recordOk h (launchRec 0 0) && !s.everFits c.p h) &&
    launches (launchRec 0 0) (fun s => { s with
      grids := List.replicate 64 grid }) (fun s c h => recordOk h (launchRec 0 0) && s.everFits c.p h &&
      (s.grids.filter fun g => g.part == c.p.id && g.queue == 7 && g.queued).length == 64) &&
    [(7 : Word), 8].all (fun q => goesWith (.lquery 4 6) (sregs [(6, q)]) fun _ c => c.p.replay.ctl == 0) = true := by decide +kernel

/-- PREEMPT of a bad operand, of no partition, of a hall it does not hold, of a second one, and one that begins. -/
def preemption (b : Bool) : Preempt := { kind := 0, halls := [0], teams := [], knotTeam := 0, knot := 0, decremented := false, completed := b, saved := [] }
def preempted (b : Bool) : State → State := setPart fun p => { p with sched := { p.sched with preempt := some (preemption b) } }
theorem test_hyp_MonitorResults_preempt :
    goesWith (.preempt 4 6 8) (sregs [(6, 0x80)]) (fun _ c => preemptArgs (c.g.regs.sreg 6) (c.g.regs.sreg 8) c.t.hdr.knots == none) &&
    goesWith (.preempt 4 6 8) (sregs [(6, 1)]) (fun s c => (preemptArgs (c.g.regs.sreg 6) (c.g.regs.sreg 8) c.t.hdr.knots).any fun x => s.part? x.part == none) &&
    goesWith (.preempt 4 6 8) (sregs [(6, 0x100)]) (fun s c => (preemptArgs (c.g.regs.sreg 6) (c.g.regs.sreg 8) c.t.hdr.knots).any fun x =>
      (s.part? x.part).any fun p => x.hall == p.halls.length) &&
    [some false, some true, none].all (fun b => goesWith (.preempt 4 6 8) (match b with | some b => preempted b | none => id) fun s c =>
      (preemptArgs (c.g.regs.sreg 6) (c.g.regs.sreg 8) c.t.hdr.knots).any fun x =>
        (s.part? x.part).any fun p => x.hall < p.halls.length && p.sched.preempt.map Preempt.completed == b) &&
    [some false, none].all (fun b => goesWith (.pcancel 4 6) (match b with | some b => preempted b | none => id) fun s _ =>
      (s.part? 0).any fun p => p.sched.preempt.map Preempt.completed == b) = true := by decide +kernel

/-- PLACE that keeps hall 0, and one that names no partition; CNTRD of a class that the operator may not read, of a counter, and of none. -/
theorem test_hyp_MonitorResults_others :
    [(0 : Word), 1].all (fun v => goesWith (.place 4 6 8) (fun s => sregs [(6, v), (8, 0x1000)] (mapped { s with mem := s.mem.write 0x1000 1 })) fun s c =>
      fetches s c.who 8 0x1000 40 && s.placeStatus v (natLe 40 1) == (if v = 0 then 0 else 2)) &&
    goesWith (.cntrd 4 6) (setPart fun p => { p with cfg := { p.cfg with tag := .operator } }) (fun _ c => c.p.cfg.tag == .operator && (c.g.regs.sreg 6).toNat / 256 % 16 == 0) &&
    [(0 : Word), 0x30000, 0x1010100, 0x60200, 0x10400, 0x500, 0x70000, 0x80].all (fun x => goesWith (.cntrd 4 6) (sregs [(6, x)]) fun s c =>
      c.p.cfg.tag == .owner && c.p.replay.ctl == 0 && (s.part? c.p.id).isSome && c.g.regs.sreg 6 == x) = true := by decide +kernel

/-- Descriptors of EXPORT, IMPORT and SEAL, and the states that each check meets. -/
def keySlot (kind state : BitVec 3) : KeySlot := { kind := kind, state := state, part := some 0, keyId := 0, material := [1], used := false }
def sealing (kind state ctx : BitVec 3) (d : List (Nat × Nat)) : State → State := fun s => sregs [(6, 0x1000)] (mapped (setPart (fun p => { p with ctxState := ctx })
  { s with mem := s.mem.writeN 0x1000 (fields d), keys := s.keys.set 0 (keySlot kind state) }))
def described (i : Instr) (f : State → State) (p : State → Cx → Descriptor → Bool) : Bool :=
  goesWith i f fun s c => let v := s.commitGroup c.gi .y
    fetches v c.who 64 0x1000 64 && p s c (descriptorOf (v.readPieces c.who (reached (reach v c .load false (oneSpan 0x1000 64))) 0))
theorem test_hyp_SealedResults_export :
    described (.exportCtx 4 6) (sealing 3 1 2 [(2, 0), (1, 1)]) (fun _ _ x => !x.ok) && described (.exportCtx 4 6) (sealing 3 1 2 [(1, 1)]) (fun s _ x => x.ok && x.source == 0 && s.part? x.part == none) &&
    [(2 : BitVec 3), 3].all (fun kind => described (.exportCtx 4 6) (sealing kind 1 2 [(1, 0)]) fun s _ x => x.ok && (s.part? x.part).isSome &&
      (match s.keyFor x.slot 0 3 with | .ok _ => kind == 3 | .error _ => kind == 2)) &&
    [(1 : BitVec 3), 2].all (fun ctx => described (.exportCtx 4 6) (fun s => sealing 3 1 ctx [(1, 0)] s) fun s _ x => x.ok && (s.part? x.part).any fun p => p.ctxState == ctx) = true := by decide +kernel
theorem test_hyp_SealedResults_import :
    described (.importCtx 4 6) (sealing 3 1 2 [(2, 0), (1, 1)]) (fun _ _ x => !x.ok) && described (.importCtx 4 6) (sealing 3 1 2 [(1, 1)]) (fun s _ x => x.ok && x.dest == 0 && s.part? x.part == none) &&
    described (.importCtx 4 6) (sealing 3 1 2 [(1, 0)]) (fun s c x => x.ok && (s.part? x.part).any (fun p => p.ctxState != 0) && fetches s c.who 1 x.source x.srcLen) &&
    [(1 : BitVec 3), 2].all (fun st => described (.importCtx 4 6) (sealing 3 st 0 [(1, 0)]) fun s _ x => x.ok && (s.part? x.part).any (fun p => p.ctxState == 0) &&
      (s.keys[x.slot]?).any fun k => k.kind == 3 && k.part == some 0 && k.state == st) = true := by decide +kernel
theorem test_hyp_SealedResults_seal :
    described (.seal 4 6) (sealing 4 1 2 [(1, 1)]) (fun _ _ x => x.part != 0) &&
    [(3 : BitVec 3), 4].all (fun kind => described (.seal 4 6) (sealing kind 1 2 [(8, 0), (8, 0x2000), (8, 64), (8, 0x3000), (8, 0)]) fun s c x => x.ok && x.part == 0 && x.srcLen == 64 &&
      fetches s c.who 1 x.source x.srcLen && (match s.keyFor x.slot c.p.id 4 with | .ok _ => kind == 4 | .error _ => kind == 3)) = true := by decide +kernel

/-! #### Events -/

/-- A strand whose data arrive; a fault entry that waits, with room and without; a RESOLVE with and without its entry. -/
def missed : State := setEntry (fun e => { e with wait := .data, missData := some { mask := 1, writes := [(4, Lanes.all 7)] } }) base
def entry2 : FaultEntry := { addr := 0, serial := 3, kind := 0, reason := 0, hall := 0, ref := 0 }
def queued2 (head : Word) (waiting : List FaultEntry) (pending : List Nat) : State := setPart (fun p => { p with xlat := { p.xlat with
  fq2 := { p.xlat.fq2 with base := 0x1000, size := 16, head := head, waiting := waiting, pending := pending } } }) base
theorem test_hyp_FaultEvents_queue :
    ((missed.groups[0]?).any (fun g => g.ctl.missing.head? == some 0 && ((g.ctl.get 0).bind Entry.missData).any fun d => d.writes.length == 1) &&
    [(16 : Word), 15].all (fun h => let s := queued2 h [entry2] []
      (s.part? 0).any fun q => (q.fq true).room == (h == 15) && (q.fq true).waiting == [entry2] && (s.faultSlot q true).isSome && s.homes.seals == [] && s.mem.wf && q.vfOpen true && !q.mig.track && !q.cfg.protect) &&
    [[], [2 ^ 32 - 1]].all (fun l => ((queued2 0 [] l).part? 0).any fun q => ((q.fq true).pending.find? fun n => n % 2 ^ 32 == 0xFFFFFFFF).isSome == !l.isEmpty)) = true := by decide +kernel

/-- A faulted load that may replay, with a region opened since or none, and one resolved by PAGE. -/
def logged (raise_ : Bool) : State := setGroup (fun g => { g with log := [
  { id := 0, instr := .ld mf, word := 0, ref := { obj := 1, off := 0x40 }, rpt := 0, mask := allLanes, strand := 0,
    ops := { act := allLanes, x := Lanes.all 64, data := [], off := 0, tb := TbReg.none, tbn := some 1, hints := [], chain := none },
    faults := [{ stage2 := false, serial := 0, va := 64, action := some raise_ }], addr := 64, lanes := allLanes, inRegion := false, level := 0, before := none }] }) (mapped base)
theorem test_hyp_FaultEvents_replay :
    ([(true, id), (false, id), (false, opened)].all (fun x => let s := setGroup x.2 (logged x.1)
      (s.who? 0).any fun w => w.mayReplay && !s.replayWaits w && w.g.resolved.any fun l => l.raised == (if x.1 then some 1 else none) && l.ops.chain == none &&
        !l.inRegion && match s.replayAcc w l with
        | .done d => d.more.isNone
        | _ => false)) = true := by decide +kernel

/-- A walk queued, a walk running, an invalidation due, a schedule to load. -/
def walking (ph : WalkPhase) : State := setPart (fun p => { p with xlat := { p.xlat with walks := [{ page := 5, phase := ph, asked := 0, sites := [.hall 0] }], inval1Due := 1, inval2Due := 1 } }) base
theorem test_hyp_TranslationEvents :
    ((let s := walking .queued
     s.walkersBusy < 64 && (s.walkNext).isSome && (s.parts.all fun p => s.part? p.id == some p)) &&
    (let s := walking .running
     !s.runningWalks.isEmpty && (s.part? 0).any fun q => q.vfOpen true && q.xlat.inval1Due != 0 && q.xlat.inval2Due != 0) &&
    base.accessesRun 0 == false && (ranks (command (.braid 0 0 4) .writing) (rankCmd 1 0 false none)).accessesRun 0 &&
    (let s := setPart (fun p => { p with xlat := { p.xlat with keepBase := 0x2000, keepCount := 2 } }) (mapped base)
     (s.part? 0).any fun q => (s.readVa q s.ownerReader [] s.free 0x2000 32).isSome)) = true := by decide +kernel

/-- A lease asked for by a walk, with room and without, and none; one recalled. -/
def leased (held granted : List Lease) (ph : WalkPhase) : State := { walking ph with leasesHeld := held, leasesGranted := granted }
def lease0 : Lease := { part := 0, region := 0, package := 0, recalled := true }
theorem test_hyp_TranslationEvents_lease :
    (base.leaseWalks 0 0 == [] && (leased [] [] .lease).leasesHeld.length < 4096 && (leased (List.replicate 4096 lease0) [] .lease).leasesHeld.length == 4096 &&
    (leased [{ lease0 with recalled := false }] [] .lease).leased 0 0 && (leased [] [lease0] .lease).leasesGranted.any (fun l => l.part == 0 && l.region == 0 && l.recalled) &&
    !base.leased 0 0 && (base.part? 0).any (fun q => q.xlat.inval2Due == 0) && ((leased [] [] .queued).part? 0).any (fun q => q.xlat.inval2Due != 0) &&
    (leased [] [lease0] .lease).recalling 0 && !base.recalling 0) = true := by decide +kernel

/-- Tables of both stages in memory that give page 5 a leaf of class 10, through an entry of the peer window table: package 3, partition 0, window 5. -/
def paged (n : Nat) : State := setPart (fun p => { p with ropeBase := 0x30000, ropeCount := 1, xlat := { p.xlat with s1root := 0x10000, s2root := 0x20000 } })
  { leased (List.replicate n { lease0 with region := 1 }) [] .lease with
    mem := [(0x10000, [0x11001]), (0x11000, [0x12001]), (0x12000, [0x40000007]), (0x20000, [0x21001]), (0x21000, [0x22001]), (0x22000, [7, 0x87]),
      (0x30000, [3 + 2 ^ 32 + 2 ^ 33, 5])].foldl (fun m x => m.writeN x.1 (x.2.flatMap (natLe 8))) [] }
theorem test_hyp_LeaseEvents :
    (let region := (3 * 2 ^ 7 * 2 ^ 17 + 5) * 2 ^ 19
     [0, 4095, 4096].all fun n => let s := paged n
       s.leaseWalks 0 region == [5] && (s.leasesHeld.filter fun l => l.part != 0 || l.region != region).length == n &&
         (s.leasesAsked.filter fun x => x != (0, region)) == [] && (s.part? 0).any fun q => match s.translate (s.unreadable q) q (4096 * 5) with
           | .ok x => leaseRegion (x.at (4096 * 5)) == region && keyClass (x.at (4096 * 5)) == 2
           | .error _ => false) = true := by decide +kernel

/-- A grid's first team, a saved team and a foyer that may start; a team that is finished; a group that has exited; a ready strand. -/
def admitting : State := setTeam (fun t => { t with hdr := { t.hdr with knots := 255 } }) { base with grids := [{ grid with hdr := { openHeader with scratch := 0, tiles := 0, slots := 0, quota := 0, knots := 1, barriers := 0, cregs := 8 } }] }
def savedTeam : State := setTeam (fun t => { t with phase := .saved, foyer := false }) (setGroup (fun g => { g with saved := some .quiescent }) base)
def foyerRec : List Byte := fields [(8, 0x100000000), (8, 0), (8, 0), (8, 0), (4, 1), (4, 0), (8, 0x4000), (8, 0), (8, 0)]
def unstarted : State := mapped (setPart (fun p => { p with
    objects := p.objects.map fun o => { o with code := o.code.set 0xB 1 }
    sched := { p.sched with foyerState := 0 } }) { base with mem := Mem.writeN [] 0x1000 foyerRec })
theorem test_hyp_AdmissionEvents_admit :
    ((admitting.part? 0).any (fun q => (admitting.nextAdmit q).any (fun x => x.1 == .fresh 0) && admitting.foyerBack q == none) &&
    (savedTeam.part? 0).any (fun q => (savedTeam.nextAdmit q).any fun x => x.1 == .saved 0) && (savedTeam.teams[0]?).any (fun t => t.held == []) && !savedTeam.holdsPrivate && savedTeam.hist == [] &&
    (savedTeam.part? 0).any (fun q => q.halls == [0] && (savedTeam.teams[0]?).any fun t => (savedTeam.groups[0]?).any fun g =>
      savedTeam.readVa q (savedTeam.frameReader t) [] savedTeam.free (t.saveFrame + t.hdr.recordAt t.hdr.groupCount) 8192 == none &&
        savedTeam.readVa q (savedTeam.frameReader t) [] savedTeam.free (t.slotAddr g.id + saveSlotBytes) (8192 - saveSlotBytes) == none) &&
    (base.part? 0).any (fun q => !base.mayStartFoyer q) &&
    [(0x1000, true), (0x1001, false)].all (fun x => (unstarted.part? 0).any fun q => q.vfOpen true && unstarted.mayStartFoyer q && q.halls.head? == some 0 &&
      (unstarted.readVa q { party := .outside, beginH := unstarted.seq, beginP := unstarted.seq, beginY := unstarted.seq, sysHome := false } [] unstarted.free x.1 64).any fun r =>
        (q.foyerPlan r).isSome == x.2)) = true := by
  decide +kernel
def ended : State := setGroup (fun g => { g with phase := .exited }) base
def lastLane : State := setGroup (fun g => { g with ctl := g.ctl.put 0 none }) base
theorem test_hyp_AdmissionEvents_end :
    (ended.teamFinished 0 && (lastLane.groups[0]?).any (fun g => g.phase == .running && g.saved == none && g.ctl.live == 0 && g.activeLog == []) &&
    (base.groups[0]?).any (fun g => base.canRun g && (g.ctl.get 0).any fun e => e.overdue == none && e.kind == .strand && e.wait == .ready) &&
    (base.halls[303]?).isSome && (base.halls[0]?).any (fun h => (h.limit 0 11).num == 1 && (h.limit 0 11).den == 1)) = true := by decide +kernel

/-- A team asked to save for another; a deadline in its three forms; a team whose groups are saved; a late one; a parked group. -/
def asked (f : Group → Group) : State := setGroup (fun g => f { g with ctrl := { g.ctrl with preq := true } }) base
theorem test_hyp_SaveEvents_deadline :
    ([id, opened, fun g => { g with ctl := g.ctl.put 0 ((g.ctl.get 0).map fun e => { e with wait := .knot 0 none }) }].all (fun f => let s := asked f
      (s.groups[0]?).any fun g => g.ctrl.preq && g.unsaved && g.whole && (g.quiet || !g.outstanding) && (s.teamOf g).any fun t => t.phase == .resident) &&
    [0, 1, 2].map (fun n => (((asked ([id, opened, fun g => { g with ctl := g.ctl.put 0 ((g.ctl.get 0).map fun e => { e with wait := .knot 0 none }) }].getD n id)).groups[0]?).map fun g =>
      (g.quiet, g.region.isSome)).getD (true, true)) == [(false, false), (false, true), (true, false)]) = true := by decide +kernel
def pressed : State := setPart (fun p => { p with sched := { p.sched with prioGap := 1 } }) (setTeam (fun t => { t with foyer := false, prio := 0, hdr := { t.hdr with knots := 256 } })
  { base with grids := [{ grid with hdr := { openHeader with scratch := 0, tiles := 0, slots := 0, quota := 0, knots := 1, barriers := 0, cregs := 8 } }] })
def savedGroups : State := setGroup (fun g => { g with saved := some .forced }) base
theorem test_hyp_SaveEvents_team :
    ((pressed.part? 0).any (fun q => (pressed.autoTarget q).isSome) &&
    (savedGroups.teams[0]?).any (fun t => t.phase == .resident && savedGroups.allSaved t && !savedGroups.stairRuns 0) &&
    (let s := setGroup (fun g => { g with late := true }) base
     (s.groups[0]?).any fun g => g.late && g.unsaved && g.team == 0)) = true := by decide +kernel
def parkedIn (cls : Nat) (f : Group → Group) : State := setGroup (fun g => f { g with phase := .parked 3 cls }) base
def handling (landing : Bool) (g : Group) : Group := { g with ctxs := [{ landing := landing, ctl := g.ctl, deferred := none }] }
def note : Mgmt := { State.reset.mgmt with parkWaiting := [List.replicate 16 1], parkQBase := 0x1000 }
theorem test_hyp_SaveEvents_park :
    ((parkedIn 2 id).parkedGroup 0 3 == some (0, 2) && (parkedIn 0 id).parkedGroup 0 4 == none &&
    [true, false].all (fun b => let s := parkedIn 0 (handling b)
      s.parkedGroup 0 3 == some (0, 0) && (s.who? 0).any fun w => w.p.id == 0 && w.p.vfOpen true && (w.g.ctxs.head?).any (fun x => x.landing == b) && (s.teams[w.g.team]?).isSome) &&
    (let s := mapped (setPart id { parkedIn 0 (handling false) with mem := (Mem.write [] (0x100000 + 8) 0x44).write (0x100000 + 12) 1 })
     (s.who? 0).any fun w => match s.returnSlot w with | .ok _ => true | .error _ => false) &&
    (let s := parkedIn 0 (handling false)
     (s.who? 0).any fun w => match s.returnSlot w with | .ok _ => false | .error c => c != .integrity) &&
    note.parkRoom && !{ note with parkQHead := 16 }.parkRoom) = true := by decide +kernel

/-- A write to a register that its cell allows, one that it does not; a read of each kind; a checked write that is stored and one that is refused. -/
def writing (r : WinReg) (a : Authority) (v : DWord) (kind : BitVec 3) : State :=
  { base with inbox := { base.inbox with reg := r, auth := a, value := v, kind := kind, part := some 0 } }
theorem test_hyp_RegisterEvents :
    ([(WinReg.mgmtCtxsel, Authority.operator), (.pwrCap, .operator), (.xlatFq2tail, .operator), (.xlatFq1base, .owner), (.schedDeadline, .operator), (.xlatFq1size, .owner)].all (fun x =>
      let s := writing x.1 x.2 5 0
      (WinReg.cell x.1 x.2).writes && s.regOpen x.1 && !WinReg.checked x.1 && (s.part? (s.regPart x.1)).isSome) &&
    !(WinReg.cell .mgmtCtxsel .owner).writes && (WinReg.cell .mgmtCtxsel .operator).reads && !(WinReg.cell .xlatFq1base .operator).reads && WinReg.ownerState .xlatFq1base &&
    WinReg.checked .xlatWalkquota && WinReg.checked .partCodebase && WinReg.checked .ccKeysel && (WinReg.cell .partCodebase .operator).writes &&
    [(64 : Nat), 65, 0].map (fun v => (base.part? 0).map fun q => base.checkWrite q .xlatWalkquota v) == [some 0, some 1, some 1] &&
    base.mgmt.inspStatus == 0 && (base.part? 0).any (fun q => q.ctxState != 0 && q.ctxState != 4) && base.part? 5 == none) = true := by decide +kernel

/-- PART_CREATE and PART_DESTROY, MGMT_RESET, key slots and the flush, each in the states that decide it. -/
def ordered (v : DWord) (sel : BitVec 7) (f : Part → Part) : State :=
  { setPart f base with inbox := { base.inbox with value := v, auth := .operator }, mgmt := { base.mgmt with ctxSel := sel, resetDue := [(0, 0)] } }
def idle (s : State) : State := setGroup (fun g => { g with phase := .exited }) (setTeam (fun t => { t with phase := .released }) s)
theorem test_hyp_PartitionEvents :
    (createBits 0x104 == false && [(0 : Nat), 1, 2, 3].all createBits && (ordered 1 0 id).part? 0 != none && (ordered 1 95 id).part? 95 == none && tagOf 2 == some .auditor &&
    [(0 : BitVec 3), 4].all (fun st => let s := idle (ordered 0 0 fun p => { p with ctxState := st })
      (s.part? 0).any fun q => !q.holdBusy && q.ctxState == st && !s.partRuns 0) &&
    ((ordered 0 0 fun p => { p with cc := { p.cc with holdState := 1 } }).part? 0).any (fun q => q.holdBusy && q.ctxState != 5) && (ranks (rankCmd 0 0 false none) (rankCmd 1 0 false none)).partRuns 0 &&
    (let s := idle (ordered 0 0 fun p => { p with ctxState := 5 })
     s.resetReady 0 && (s.part? 0).any fun q => q.ctxState == 5) &&
    (let s := ordered 0 0 fun p => { p with mig := { p.mig with flushing := 1 } }
     (s.part? 0).any s.flushReady) &&
    (base.keys[127]?).any (fun k => k.part == none && k.state == 0)) = true := by decide +kernel

/-- A slot to erase, with an engine write of its partition under way and without. -/
theorem test_hyp_KeyEvents_erase :
    [CmdPhase.writing, .running].all (fun ph => let s := { base with keys := base.keys.set 0 (keySlot 2 4), cmds := [command (.hoist 0 0 4) ph] }
      (s.keys[0]?).any (fun k => k.state == 4 && s.cmds.any fun c => k.part == some c.part && (c.phase == .writing) == (ph == .writing))) = true := by decide +kernel

/-- A hall to re-plan, one that retires and is empty, with spares and without. -/
theorem test_hyp_EnergyEvents :
    ((base.parts.all fun p => base.part? p.id == some p) && (base.halls[303]?).any (fun h => !h.retiring && !h.failed) &&
    [(true, 0), (false, 0), (true, 0xFFFF)].all (fun x => let s : State := { base with inbox := { base.inbox with index := 303, flag := x.1, bytes := [5, 0] ++ natLe 2 x.2 ++ [5, 0, 5, 0] } }
      (s.halls[303]?).any fun h => (s.inbox.flag || (s.power.drift.toNat : Int) < h.plannedMargin.toInt - (worstOf s.inbox.delays).toInt) == x.1 &&
        (0 ≤ (worstOf s.inbox.delays).toInt) == (x.2 == 0)) &&
    (let s := base.updHall 303 fun h => { h with retiring := true }
     s.hallEmpty 303 && (s.halls[303]?).any fun h => h.retiring && s.power.spares.toList.getD (h.phys / 80) [] != []) &&
    (let s := { base.updHall 303 fun h => { h with retiring := true } with power := { base.power with spares := Vector.replicate 4 [] } }
     (s.halls[303]?).any fun h => s.power.spares.toList.getD (h.phys / 80) [] == []) &&
    (writing .pwrCap .owner 0 0).inbox.part == some 0 && (base.part? 0).any fun q => q.vfOpen true) = true := by decide +kernel

/-- A session on a slot in each state that decides a message. -/
def session (k : KeySlot) (n kind : Nat) (f : Part → Part) : State :=
  { setPart (fun p => f { p with cc := { p.cc with session := some [1] } }) base with
    keys := base.keys.set 0 k, inbox := { base.inbox with part := some 0, index := n, kind := BitVec.ofNat 3 kind, auth := .owner } }
theorem test_hyp_KeyEvents :
    (base.sessionPart == none && ((session (keySlot 2 1) 0 2 id).sessionPart).any (fun p => p.ctxState == 1) &&
    (session (keySlot 2 1) 5 2 id).sessionPart.isSome && ((session (keySlot 2 1) 5 2 id).keys[5]?).any (fun k => k.part != some 0) &&
    [(0 : BitVec 3), 1, 2, 4].all (fun st => [1, 2, 3, 4].all fun kind => let s := session (keySlot kind st) 0 kind.toNat fun p => { p with ctxState := 0 }
      (s.sessionPart).any fun p => (s.keys[0]?).any fun k => k.part == some p.id && k.state == st && k.kind == kind && p.ctxState != 1 && !p.cfg.protect)) = true := by decide +kernel

/-- A session, a hold under way and one that stands, and the owner's chain. -/
def holding (n : BitVec 2) (f : Part → Part) : State := { setPart (fun p => f { p with cc := { p.cc with holdState := n, hbPeriod := 5, session := some [1] } }) base with
  inbox := { base.inbox with part := some 0, chain := [1] } }
theorem test_hyp_HoldEvents :
    (base.inbox.part == none && base.mgmt.operatorSession == none &&
    [(0 : BitVec 2), 1, 2, 3].all (fun n => [true, false].all fun pr => let s := holding n fun p => { p with cfg := { p.cfg with protect := pr } }
      (s.part? 0).any fun p => p.cc.holdState == n && p.cc.session.isSome && p.cc.hbPeriod != 0 && p.ctxState == 1 && p.cfg.protect == pr && p.cc.identity == none) &&
    (holding 1 id).residentTeams 0 != [] && (idle (holding 1 id)).residentTeams 0 == [] && (idle (holding 1 id)).writesDone 0 &&
    !{ idle (holding 1 id) with cmds := [command (.hoist 0 0 4) .running] }.writesDone 0) = true := by decide +kernel

/-- A granule and a port at the ends of their ranges, and a command of a braid that runs. -/
theorem test_hyp_OutsideEvents :
    (base.homes.seals == [] && base.mem.wf && (base.parts.all fun p => !p.mig.track && !p.cfg.protect) && base.hist.all (fun c => c.prior.length == 16) && 23 < 24 &&
    ((ranks (rankCmd 0 0 false none) (rankCmd 1 0 false none)).job? 0).any (fun j => j.c.braid.isSome && j.c.phase == .running)) = true := by decide +kernel

/-- A dropped write: the latest of its granule's bytes at the home, one that a later write covers, and a granule that it does not name. -/
def dropped (hist : List Commit) : State := { base with hist := hist, inbox := { base.inbox with kind := 1, addr := 16, count := 16, value := 4 } }
theorem test_hyp_LinkEvents :
    [([oneCommit .p 4], true), ([oneCommit .p 5, oneCommit .p 4], false)].all (fun x => let s := dropped x.1
      s.mem.wf && outsideKey 2 s.inbox.addr != s.inbox.addr && (s.hist.find? fun c => c.gran == 1 && c.atHome && c.seq == s.inbox.value.toNat).any fun c =>
        (c.bytes[15]?).join.isSome && (s.hist.takeWhile (fun d => d != c)).isEmpty == x.2) = true := by decide +kernel

/-- A write of the host to its homes, and one into HBM. -/
theorem test_hyp_OutsideWrites :
    [true, false].all (fun f => let s : State := { base with inbox := { base.inbox with flag := f, addr := 0x40, bytes := List.replicate 32 7 } }
      s.inbox.flag == f && keyClass (outsideKey (s.inbox.kind.toNat % 4) s.inbox.addr) == 0 && s.mem.wf && s.homes.sysMem.wf && s.homes.seals == [] &&
        s.parts.all fun p => !p.mig.track && !p.cfg.protect) = true := by decide +kernel

/-! #### The machine -/

/-- A word that is an instruction here; each check that fails; and none. -/
theorem test_hyp_WordChecks :
    (meets (issuing (.place 4 6 8) (setPart fun p => { p with cfg := { p.cfg with tag := .owner } })) (fun c => c.classOk (.place 4 6 8) && (c.refused (.place 4 6 8)).isSome) &&
    meets (issuing (.iadd vf) (setHeader fun h => { h with cregs := 4 })) (fun c => c.classOk (.iadd vf) && c.refused (.iadd vf) == none && c.hs.rep == none && c.badHandles (.iadd vf) (.iadd vf) != []) &&
    meets (issuing (.iadd { vf with a := .latch 0 }) id) (fun c => let i := Instr.iadd { vf with a := .latch 0 }
      c.classOk i && c.badHandles i i == [] && c.e.appended == [] && c.lostLatches i.uses != []) &&
    meets (issuing (.iadd { vf with gd := 3 }) id) (fun c => !c.classOk (.iadd { vf with gd := 3 })) && goes [.iadd vf]) = true := by decide +kernel

/-- No move; a strand that runs; a strand outside its code; a word that lands. -/
theorem test_hyp_StepRuns :
    (State.reset.settle.nextMove == none && (State.reset.withFetchWord 32 0x04030102).settle.nextMove.any (fun m => match m with
      | .word _ => true
      | _ => false) &&
    meets base (fun c => (c.p.codeWord c.e.pc).isSome && !c.t.hdr.compat) && meets (issuing .exit (setHeader fun h => { h with compat := true })) (fun c => c.t.hdr.compat) &&
    meets (setEntry (fun e => { e with pc := { obj := 1, off := 0x50 } }) base) (fun c => (c.p.codeWord c.e.pc).isNone) &&
    (({ State.reset with events := [.parkNotice, .flitRetry] }).settle.nextMove == some (.event .flitRetry))) = true := by decide +kernel

/-- Instructions of every shape have words and are well formed; the bytes of a memory in its form. -/
theorem test_hyp_EncodingRoundTrip :
    ([Instr.iadd vf, .vcmp { gd := 3, c := .fun_, k := 7, a := .const 63, b := .latch 3 }, .mov { uf with a := .special .ones }, .scmp .gen { sf with b := .const 63 },
      .sli 47 0x3FFFF, .jmp 0x1FFFF, .jany true 7 0x1FFFF, .splice 0xFFFFF, .yieldk 255 0xFFF, .kinit 255 (.special .ones), .ld { mf with size := .quad, imm := 7 },
      .lds lf, .atomCas { af with wide := true }, .tbset 7 46 47, .zero 3 255, .mma mm, .stair 255 46, .unbindReleaseHold 4 6 8, .cntrd 46 47, .imm 0x3FFFFF,
      .src3 true true (.v 127)].all (fun i => i.wf && (encode i).isSome)) = true := by decide +kernel

theorem test_hyp_MemoryLaws : ((Mem.write [] 5 1).write 4 2).wf = true ∧ ((Mem.write [] 5 1).write 4 2) = [(4, 2), (5, 1)] ∧ (Mem.write [(5, 1)] 5 0) = [] := by decide +kernel

/-- Memory after reset is in its form, and a step from there on keeps a program's: the stored byte stands. -/
theorem test_hyp_MemoryStaysCanonical : State.reset.mem.wf = true ∧ State.reset.homes.sysMem.wf = true ∧ State.reset.homes.backing.wf = true ∧
    steps (.commitAt .p) (setGroup fun g => g.addStore { key := 16, val := 7, nt := false, level := none, since := true, inRegion := false, atomicAfter := false, fence := 0, va := 16, shr := false }) (fun t => t.mem == [(16, 7)] && t.homes.sysMem == [(16, 7)]) = true := by decide +kernel

end Sys2Proof.Tests
end

section
/-! PROOFS. Bytes of memory: the canonical form, what a read returns, and numbers in bytes (R6, R46, R48). -/

namespace Sys2Proof.Machine

/-! ### Bytes of a number (R6) -/

theorem leNat_natLe (n x : Nat) : leNat (natLe n x) = x % 256 ^ n := by
  induction n generalizing x with
  | zero => simp [natLe, leNat, Nat.mod_one]
  | succ n ih =>
    have low : (BitVec.ofNat 8 x).toNat = x % 256 := by simp
    rw [natLe, leNat, ih, low, Nat.pow_succ', Nat.mod_mul]

@[simp] theorem natLe_length (n x : Nat) : (natLe n x).length = n := by
  induction n generalizing x with
  | zero => rfl
  | succ n ih => simp [natLe, ih]

/-! ### Memories in the canonical form (log 3) -/

/-- A listed byte is not the unlisted one: from an address on, a memory without listed bytes reads differently from one with. -/
theorem Mem.read_head_ne {k lo : Nat} {x : Byte} {rest : Mem} (h : Mem.wfFrom lo ((k, x) :: rest) = true) :
    Mem.read ((k, x) :: rest) k ≠ unlisted := by
  simp only [Mem.wfFrom, Bool.and_eq_true, bne_iff_ne] at h
  simpa [Mem.read] using h.1.2

/-- Memories whose listed addresses begin at different places do not read alike: the earlier first byte is not listed in the other. -/
theorem Mem.read_head_lt {k j : Nat} {x y : Byte} {m n : Mem} {lo : Nat} (hm : Mem.wfFrom lo ((k, x) :: m) = true)
    (hkj : k < j) : Mem.read ((k, x) :: m) k ≠ Mem.read ((j, y) :: n) k := by
  have unread : Mem.read ((j, y) :: n) k = unlisted := by simp [Mem.read, hkj, Nat.ne_of_gt hkj]
  rw [unread]
  exact Mem.read_head_ne hm

/-- Canonical memories with the same first byte that read alike have rests that read alike. -/
theorem Mem.read_tail_eq {k : Nat} {x : Byte} {m n : Mem} (hm : Mem.wfFrom (k + 1) m = true) (hn : Mem.wfFrom (k + 1) n = true)
    (h : ∀ a, Mem.read ((k, x) :: m) a = Mem.read ((k, x) :: n) a) (a : Nat) : m.read a = n.read a := by
  rcases Nat.lt_or_ge k a with hka | hak
  · simpa [Mem.read, Nat.ne_of_lt hka, Nat.not_lt_of_gt hka] using h a
  · rw [Mem.read_below m hm (by omega), Mem.read_below n hn (by omega)]

theorem Mem.eq_of_read_eq {m n : Mem} {lo : Nat} (hm : Mem.wfFrom lo m = true) (hn : Mem.wfFrom lo n = true)
    (h : ∀ a, m.read a = n.read a) : m = n := by
  induction m generalizing n lo with
  | nil =>
    cases n with
    | nil => rfl
    | cons d n => exact absurd (h d.1).symm (Mem.read_head_ne hn)
  | cons c m ih =>
    obtain ⟨k, x⟩ := c
    cases n with
    | nil => exact absurd (h k) (Mem.read_head_ne hm)
    | cons d n =>
      obtain ⟨j, y⟩ := d
      rcases Nat.lt_trichotomy k j with hkj | rfl | hjk
      · exact absurd (h k) (Mem.read_head_lt hm hkj)
      · have hxy : x = y := by simpa [Mem.read] using h k
        subst hxy
        simp only [Mem.wfFrom, Bool.and_eq_true] at hm hn
        rw [ih hm.2 hn.2 (Mem.read_tail_eq hm.2 hn.2 h)]
      · exact absurd (h j).symm (Mem.read_head_lt hn hjk)

theorem Mem.readN_writeN (bs : List Byte) (m : Mem) (a : Nat) (h : m.wf = true) : (m.writeN a bs).readN a bs.length = bs := by
  induction bs generalizing m a with
  | nil => rfl
  | cons b bs ih =>
    have hw := Mem.write_wf m a b h
    have first : (m.writeN a (b :: bs)).read a = b := by
      rw [Mem.writeN, Mem.read_writeN_outside bs _ _ _ hw (.inl (Nat.lt_succ_self a)), Mem.read_write_same m a b h]
    rw [List.length_cons, Mem.readN, first, Mem.writeN, ih _ _ hw]

theorem Mem.num_writeN_natLe (m : Mem) (a n x : Nat) (h : m.wf = true) : (m.writeN a (natLe n x)).num a n = x % 256 ^ n := by
  have back := Mem.readN_writeN (natLe n x) m a h
  rw [natLe_length] at back
  rw [Mem.num, back, leNat_natLe]

/-- Dropping the bytes at some addresses leaves those unlisted, and every other byte. -/
theorem Mem.read_filter (q : Nat → Bool) (m : Mem) (b : Nat) {lo : Nat} (h : Mem.wfFrom lo m = true) :
    Mem.read (List.filter (fun c => q c.1) m) b = if q b then m.read b else unlisted := by
  induction m generalizing lo with
  | nil => simp [Mem.read]
  | cons c rest ih =>
    obtain ⟨k, x⟩ := c
    simp only [Mem.wfFrom, Bool.and_eq_true] at h
    have below : b ≤ k → Mem.read (List.filter (fun c => q c.1) rest) b = unlisted := fun hb =>
      Mem.read_below _ (Mem.filter_wfFrom _ rest h.2) (Nat.lt_succ_of_le hb)
    rcases Nat.lt_trichotomy b k with hb | rfl | hb
    · cases hq : q k <;> simp [List.filter, hq, Mem.read, hb, Nat.ne_of_gt hb, below (Nat.le_of_lt hb)]
    · cases hq : q b <;> simp [List.filter, hq, Mem.read, below (Nat.le_refl b)]
    · cases hq : q k <;> simp [List.filter, hq, Mem.read, Nat.ne_of_lt hb, Nat.not_lt_of_gt hb, ih h.2]

theorem Mem.read_clear (m : Mem) (a n b : Nat) (h : m.wf = true) :
    (m.clear a n).read b = if a ≤ b ∧ b < a + n then 0 else m.read b := by
  rw [Mem.clear, Mem.read_filter (fun c => !(decide (a ≤ c) && decide (c < a + n))) m b h]
  by_cases hb : a ≤ b ∧ b < a + n <;> simp [hb, unlisted]

/-- Settles O58: memories in the canonical form, their writes and their reads. -/
theorem memoryLaws : Obligations.MemoryLaws := by
  intro m h
  exact ⟨fun a b x => ⟨Mem.write_wf m a x h, Mem.read_write m a b x h⟩,
    fun n hn he => Mem.eq_of_read_eq h hn he,
    fun a bs => ⟨Mem.writeN_wf bs m a h, Mem.readN_writeN bs m a h⟩,
    fun a bs b hb => Mem.read_writeN_outside bs m a b h hb,
    fun a n x => Mem.num_writeN_natLe m a n x h,
    fun a n b => ⟨Mem.clear_wf m a n h, Mem.read_clear m a n b h⟩⟩

end Sys2Proof.Machine
end

section
/-! PROOFS. How `exec` runs an instruction: as a word, a hint, a landing or an event (R4, R96, R151, R155). -/

namespace Sys2Proof.Machine

/-- What `exec` answers for an instruction: a word, which goes through the checks of R97 before its meaning; a hint (R73), which waits for
its word; a word that lands (R155); or an event, which happens whatever the state (R4). -/
inductive Runs (i : Instr) (s : State) : Host.Outcome State Fault Refusal → Prop
  | word (k : Cx → State) (coded : (encode i).isSome = true) (unhinted : i.hintKind = none) : Runs i s (issue i s k)
  | hint (coded : (encode i).isSome = true) (hinted : i.hintKind.isSome = true) : Runs i s (issueHint i s)
  | landing (w : Word) (lands : i = .landing w) : Runs i s (execLanding w s)
  | event (t : State) (uncoded : encode i = none) (occurs : ∀ w, i ≠ .landing w) : Runs i s (.next t)

/-- R433: a write of the host reaches the system homes or HBM; both answer a next state. -/
theorem execHostWrite_next (s : State) : ∃ t, execHostWrite s = .next t := by
  unfold execHostWrite
  dsimp only
  split
  · exact ⟨_, rfl⟩
  · exact ⟨_, rfl⟩

/-- Every instruction of the dispatch runs in one of the four ways. -/
theorem exec_runs (i : Instr) (s : State) : Runs i s (exec i s) := by
  cases i with
  | imm | grd | src3 | modh | rep | sched | live => exact .hint rfl rfl
  | landing w => exact .landing w rfl
  | hostWrite =>
    obtain ⟨t, ht⟩ := execHostWrite_next s
    rw [exec, ht]
    exact .event t rfl fun _ h => nomatch h
  | missDataArrival | groupExitComplete | faultEntryWrite | xlatFq1Resolve | xlatFq2Resolve | faultReplay | xlatInval1 | xlatInval2
  | xlatS1root | xlatS2root | invalidationComplete | l2schedLoad | leaseReq | leaseGrant | leaseDeny | leaseRecall | leaseAck
  | leaseRelease | leaseTimeout | engineEnqueue | stairExecute | stairgExecute | hoistExecute | braidExecute | braidMatch | braidTimeout
  | braidAbort | cmprExecute | dcmpExecute | knotDecrement | matrixBeat | schedFoyerrec | teamAdmit | teamRelease | strandOverdue
  | lldWindowEnd | autoPreempt | deadlineExpiry | teamSaveComplete | wedgeTimeout | ownParkactKill | ownParkactResume | resetComplete
  | migFlushComplete | spareSubstitute | revokeErase | holdComplete | holdTimeExpiry | ntStorePerformed | engineSectorCommit | walkStart
  | walkComplete | parkNotice | mgmtInspid | inspectionComplete | mgmtReset | partCreate | partDestroy | ccSlotassign
  | ccSlotfree | migFlushgo | migTrackOn | migTrackOff | bwEpoch | energyRefill | ageReplan | replayRecord | replayRerun | replayOff
  | keyExchange | heartbeat | heartbeatTimeout | keySet | keyRevoke | keyQuery | keyProg | kSetGo | kSetStop | getMeasurements | flitRetry
  | portFailover | ropeUnreachableTimeout | registerWrite | partRegisterWrite =>
    exact .event _ rfl fun _ h => nomatch h
  | _ => exact .word _ rfl rfl

/-! ### Words with a context, and without one -/

theorem execLanding_cx {s : State} {c : Cx} (h : s.cx? = some c) (w : Word) : execLanding w s = .next (s.land c w) := by
  simp only [execLanding, h]

theorem execLanding_noCx {s : State} (h : s.cx? = none) (w : Word) : execLanding w s = .fault .noGroup := by
  simp only [execLanding, h]

theorem issue_noCx {s : State} (h : s.cx? = none) (i : Instr) (k : Cx → State) : issue i s k = .fault .noGroup := by
  simp only [issue, h]

theorem issueHint_cx {s : State} {c : Cx} (h : s.cx? = some c) (i : Instr) : ∃ t, issueHint i s = .next t := by
  simp only [issueHint, h]
  split
  · exact ⟨_, rfl⟩
  · exact ⟨_, rfl⟩

theorem issueHint_noCx {s : State} (h : s.cx? = none) (i : Instr) : issueHint i s = .fault .noGroup := by
  simp only [issueHint, h]

/-- With a context, whatever runs answers a next state. -/
theorem Runs.next_of_cx {i : Instr} {s : State} {o : Host.Outcome State Fault Refusal} {c : Cx} (r : Runs i s o) (h : s.cx? = some c) :
    ∃ t, o = .next t := by
  cases r with
  | word k => exact issue_next i s k c h
  | hint => exact issueHint_cx h i
  | landing w => exact ⟨_, execLanding_cx h w⟩
  | event t => exact ⟨t, rfl⟩

/-- An event has no word, and answers a next state. -/
theorem Runs.next_of_event {i : Instr} {s : State} {o : Host.Outcome State Fault Refusal} (r : Runs i s o) (uncoded : encode i = none)
    (occurs : ∀ w, i ≠ .landing w) : ∃ t, o = .next t := by
  cases r with
  | word k coded => simp [uncoded] at coded
  | hint coded => simp [uncoded] at coded
  | landing w lands => exact absurd lands (occurs w)
  | event t => exact ⟨t, rfl⟩

/-- Without a context, an instruction answers a next state or the fault that no group is selected. -/
theorem Runs.of_noCx {i : Instr} {s : State} {o : Host.Outcome State Fault Refusal} (r : Runs i s o) (h : s.cx? = none) :
    (∃ t, o = .next t) ∨ o = .fault .noGroup := by
  cases r with
  | word k => exact .inr (issue_noCx h i k)
  | hint => exact .inr (issueHint_noCx h i)
  | landing w => exact .inr (execLanding_noCx h w)
  | event t => exact .inl ⟨t, rfl⟩

/-- What an instruction can answer: a next state, or, with no group selected, the fault that says so. -/
theorem exec_answers (i : Instr) (s : State) : (∃ t, exec i s = .next t) ∨ (exec i s = .fault .noGroup ∧ s.cx? = none) := by
  cases h : s.cx? with
  | some c => exact .inl ((exec_runs i s).next_of_cx h)
  | none => exact ((exec_runs i s).of_noCx h).imp_right fun hf => ⟨hf, rfl⟩

/-- Settles O54: each instruction runs in one of four ways, none of which refuses, and only a missing context faults. -/
theorem nothingStops : Obligations.NothingStops := by
  intro i s
  refine ⟨fun hc => ?_, (exec_runs i s).next_of_event, fun r hr => ?_, fun f hf => ?_⟩
  · obtain ⟨c, h⟩ := Option.ne_none_iff_exists'.mp hc
    exact (exec_runs i s).next_of_cx h
  · rcases exec_answers i s with ⟨t, ht⟩ | ⟨hf, -⟩
    · exact absurd (ht.symm.trans hr) (fun h => nomatch h)
    · exact absurd (hf.symm.trans hr) (fun h => nomatch h)
  · rcases exec_answers i s with ⟨t, ht⟩ | ⟨hn, hc⟩
    · exact absurd (ht.symm.trans hf) (fun h => nomatch h)
    · exact ⟨(Host.Outcome.fault.inj (hn.symm.trans hf)).symm, hc⟩

end Sys2Proof.Machine
end

section
/-! PROOFS. One step: the chosen move, and what a chosen strand fetches (R4, R58, R96, R119, R167). -/

namespace Sys2Proof.Machine

/-! ### One step (R4) -/

theorem step_idle {s : State} (h : s.settle.nextMove = none) : step s = .fault .idle := by
  simp only [step, h]

theorem step_event {s : State} {e : Instr} (h : s.settle.nextMove = some (.event e)) : step s = exec e (s.settle.toMove (.event e)) := by
  simp only [step, h, State.makeMove]

/-- R58: a chosen strand's step, by what the strand fetches. -/
theorem step_word {s : State} {r : Ready} {c : Cx} (h : s.settle.nextMove = some (.word r))
    (hc : (s.settle.toMove (.word r)).cx? = some c) :
    step s = match c.fetch with
      | .instr i => exec i (s.settle.toMove (.word r))
      | .noInstr w => exec (.landing w) (s.settle.toMove (.word r))
      | .outside => .next ((s.settle.toMove (.word r)).fetchFault c) := by
  simp only [step, h, State.makeMove, State.fetched, State.outsideCode, hc]
  cases c.fetch <;> rfl

/-! ### What a strand fetches (R58, R96, R119) -/

theorem fetch_outside {c : Cx} (h : c.p.codeWord c.e.pc = none) : c.fetch = .outside := by
  simp only [Cx.fetch, h]

theorem fetch_instr {c : Cx} {w : Word} {i : Instr} (h : c.p.codeWord c.e.pc = some w) (hd : decode w = .ok i)
    (runs : (c.t.hdr.compat && i.compatLands) = false) : c.fetch = .instr i := by
  simp [Cx.fetch, h, decodeFor, hd, runs]

theorem fetch_compatLands {c : Cx} {w : Word} {i : Instr} (h : c.p.codeWord c.e.pc = some w) (hd : decode w = .ok i)
    (lands : (c.t.hdr.compat && i.compatLands) = true) : c.fetch = .noInstr w := by
  simp [Cx.fetch, h, decodeFor, hd, lands]

theorem fetch_noInstr {c : Cx} {w : Word} {e : Reject} (h : c.p.codeWord c.e.pc = some w) (hd : decode w = .error e) :
    c.fetch = .noInstr w := by
  simp [Cx.fetch, h, decodeFor, hd]

/-- Settles O53: the step of the chosen move, by what the chosen strand fetches. -/
theorem stepRuns : Obligations.StepRuns := by
  intro s
  refine ⟨step_idle, fun e => step_event, fun r c h hc => ⟨fun hw => ?_, fun w hw => ⟨fun i hd plain => ?_, fun i hd compat => ?_, fun e hd => ?_⟩⟩⟩
  · rw [step_word h hc, fetch_outside hw]
    rfl
  · rw [step_word h hc, fetch_instr hw hd (by rw [plain]; rfl)]
  · cases lands : i.compatLands with
    | false => rw [step_word h hc, fetch_instr hw hd (by rw [lands, Bool.and_false])]; rfl
    | true => rw [step_word h hc, fetch_compatLands hw hd (by rw [compat, lands]; rfl)]; rfl
  · rw [step_word h hc, fetch_noInstr hw hd]

end Sys2Proof.Machine
end

section
/-! PROOFS. The checks of a word in their order, and who may execute which word (R97, R153). -/

namespace Sys2Proof.Machine

theorem exec_issue (i : Instr) (s : State) (coded : (encode i).isSome = true) (unhinted : i.hintKind = none) :
    ∃ k, exec i s = issue i s k := by
  have runs := exec_runs i s
  generalize exec i s = o at runs ⊢
  cases runs with
  | word k => exact ⟨k, rfl⟩
  | hint _ hinted => simp [unhinted] at hinted
  | landing w lands => subst lands; cases coded
  | event t uncoded => simp [uncoded] at coded

/-! ### The checks of a word (R97) -/

theorem check_land {c : Cx} {i : Instr} (h : c.classOk i = false) : c.check i = .land := by
  simp [Cx.check, h]

theorem check_rights {c : Cx} {i : Instr} {d : Word} (hc : c.classOk i = true) (h : c.refused i = some d) :
    c.check i = .trap .rights [d] := by
  simp [Cx.check, hc, h]

theorem check_badHandle {c : Cx} {i : Instr} (hc : c.classOk i = true) (hr : c.refused i = none) (hrep : c.hs.rep = none)
    (h : c.badHandles i i ≠ []) : c.check i = .trap .badHandle (c.badHandles i i) := by
  obtain ⟨d, ds, hd⟩ := List.exists_cons_of_ne_nil h
  simp [Cx.check, hc, hr, hrep, hd]

theorem check_latchLost {c : Cx} {i : Instr} (hc : c.classOk i = true) (hr : c.refused i = none) (hrep : c.hs.rep = none)
    (hb : c.badHandles i i = []) (ha : c.e.appended = []) (h : c.lostLatches i.uses ≠ []) :
    c.check i = .trap .latchLost (c.lostLatches i.uses) := by
  obtain ⟨d, ds, hd⟩ := List.exists_cons_of_ne_nil h
  simp [Cx.check, hc, hr, hrep, hb, ha, hd]

/-- R153: the detail of a trap is the value of one of the fields that offend. -/
theorem detailOf_mem (s : State) {ds : List Word} (h : ds ≠ []) : s.detailOf ds ∈ ds := by
  match ds, h with
  | [d], _ => exact List.mem_singleton_self d
  | d :: e :: rest, _ =>
    have inside : Config.freePick s.free 7 % ((e :: rest).length + 1) < (d :: e :: rest).length :=
      Nat.mod_lt _ (Nat.succ_pos _)
    rw [State.detailOf, List.getD_eq_getElem _ _ inside]
    · exact List.getElem_mem inside
    · exact nofun

/-- A word that its checks trap raises the cause, with the value of one of its fields that offend. -/
theorem issue_raises {s : State} {c : Cx} {i : Instr} {cause : Cause} {ds : List Word} (k : Cx → State) (h : s.cx? = some c)
    (hc : c.check i = .trap cause ds) (hne : ds ≠ []) :
    ∃ d ∈ ds, issue i s k = .next (s.spend.trap c (wordOfInstr i) cause d 0 0) :=
  ⟨s.detailOf ds, detailOf_mem s hne, issue_trap i s k c cause ds h hc⟩

/-- What a word whose checks pass has passed. -/
theorem check_go_fields {c : Cx} {i : Instr} (hc : c.classOk i = true) (hr : c.refused i = none) (hrep : c.hs.rep = none)
    (h : c.check i = .go) : c.badHandles i i = [] ∧ (c.e.appended = [] → c.lostLatches i.uses = []) := by
  have handles : c.badHandles i i = [] := by
    by_contra hb
    rw [check_badHandle hc hr hrep hb] at h
    cases h
  refine ⟨handles, fun ha => ?_⟩
  by_contra hl
  rw [check_latchLost hc hr hrep handles ha hl] at h
  cases h

/-- Settles O51: the checks by their first failure, and the rights of each family of words. -/
theorem wordChecks : Obligations.WordChecks := by
  refine ⟨fun s c i h coded unhinted => ?_, fun c f z t k v row e a b d => ?_⟩
  · obtain ⟨m, hm⟩ := exec_issue i s coded unhinted
    rw [hm]
    refine ⟨fun hc => issue_land i s m c h (check_land hc), fun hc => ⟨fun d hd => ?_, fun hr hrep => ⟨fun hb => ?_, fun hb ha hl => ?_, ?_⟩⟩⟩
    · exact issue_trap i s m c .rights [d] h (check_rights hc hd)
    · exact issue_raises m h (check_badHandle hc hr hrep hb) hb
    · exact issue_raises m h (check_latchLost hc hr hrep hb ha hl) hl
    · exact check_go_fields hc hr hrep
  · refine ⟨?_, ?_, ?_, ?_, ?_, ?_⟩
    -- each family is a row of the table that `Cx.refused` is
    all_goals simp [Cx.refused]

end Sys2Proof.Machine
end

section
/-! PROOFS. The register windows: reads, plain and checked writes, and inspections (R9, R10, R264, R393, R394, R407, R409). -/

namespace Sys2Proof.Machine

/-! ### Partitions by their number -/

theorem part?_id {s : State} {id : Nat} {p : Part} (h : s.part? id = some p) : p.id = id := by
  simpa using List.find?_some h

/-- An update that leaves the numbers of partitions changes the partition of a number, and no other. -/
theorem part?_updPart (s : State) (id n : Nat) {f : Part → Part} (hf : ∀ p, (f p).id = p.id) :
    (s.updPart id f).part? n = (s.part? n).map fun p => if p.id == id then f p else p := by
  have same : ∀ p : Part, (if p.id == id then f p else p).id = p.id := fun p => by split <;> simp [hf]
  simp only [State.part?, State.updPart, List.find?_map, Function.comp_def, same]

theorem part?_updPart_same {s : State} {id : Nat} {p : Part} {f : Part → Part} (hf : ∀ p, (f p).id = p.id) (h : s.part? id = some p) :
    (s.updPart id f).part? id = some (f p) := by
  simp [part?_updPart s id id hf, h, part?_id h]

theorem part?_countRefused {s : State} {id : Nat} {p : Part} (h : s.part? id = some p) :
    ∃ q, (s.countRefused id).part? id = some q ∧ q.counters.refusedReads = p.counters.refusedReads + 1 :=
  ⟨_, part?_updPart_same (fun _ => rfl) h, rfl⟩

/-! ### Values of registers -/

@[simp] theorem loWord_toNat (v : DWord) : (loWord v).toNat = v.toNat % 2 ^ 32 := by
  simp [loWord]

theorem sizeOk_iff (n : Nat) : sizeOk n = true ↔ ∃ i, i < 9 ∧ n = 2 ^ (i + 4) := by
  simp [sizeOk]

theorem deadlineOk_iff (v : Word) : deadlineOk v = true ↔ 1000 ≤ v.toNat ∧ v.toNat ≤ 2 ^ 24 := by
  simp [deadlineOk]

/-! ### Registers of the package and of partitions -/

/-- R393, R428, R444, R447: the registers that the package holds, and no partition. -/
def packageReg : WinReg → Bool
  | .mgmtCtxsel | .mgmtInspdata | .mgmtInspstatus | .mgmtParkqbase | .mgmtParkqsize | .mgmtParkqhead | .mgmtParkqtail => true
  | .mgmtResetdone | .mgmtHallsel | .mgmtHallmap | .mgmtResetrecbase | .partStatus | .ccKeysel | .ccKeyinfo | .ccKeyid => true
  | .pwrCap | .pwrBalance | .pwrUnattr | .ageSel | .ageMargin | .ageDrift | .agePlans | .ageSpares | .ageRetired | .ageFailed => true
  | _ => false

theorem readReg_ofPart {s : State} {pid : Nat} {p : Part} {r : WinReg} (h : s.part? pid = some p) (hr : packageReg r = false) :
    s.readReg pid r = s.readPart p r := by
  unfold packageReg at hr
  split at hr <;> simp_all [State.readReg]

theorem setReg_ofPart (s : State) {r : WinReg} (v : DWord) (hr : packageReg r = false) :
    s.setReg r v = s.updPart (s.regPart r) (Part.setReg r v) := by
  unfold packageReg at hr
  split at hr <;> simp_all [State.setReg]

/-! ### What a plain write stores -/

theorem Part.setReg_id (r : WinReg) (v : DWord) (p : Part) : (p.setReg r v).id = p.id := by
  cases r with
  | schedDeadline => rw [Part.setReg]; split <;> rfl
  | _ => rfl

theorem Part.setChecked_id (r : WinReg) (v : DWord) (p : Part) : (p.setChecked r v).id = p.id := by
  cases r with
  | migNqsize => rw [Part.setChecked]; split <;> rfl
  | _ => rfl

/-- The registers of the package that store what is written, with their widths (R393, R447). -/
def packageWidths : List (WinReg × Nat) :=
  [(WinReg.mgmtCtxsel, 7), (.mgmtParkqbase, 64), (.mgmtParkqtail, 32), (.mgmtHallsel, 9), (.mgmtResetrecbase, 64), (.ageSel, 9)]

/-- The registers of a partition that store what is written, with their widths (R264, R366, R428, R450, R453). -/
def partWidths : List (WinReg × Nat) :=
  [(WinReg.xlatFq1base, 64), (.xlatFq2base, 64), (.xlatFq1tail, 32), (.xlatFq2tail, 32),
              (.l2schedBase, 64), (.l2schedCount, 13), (.schedPriogap, 3), (.schedLldthresh, 16), (.ownKeysel, 7), (.replayLogbase, 64),
              (.replayLogsize, 32), (.replayLogtail, 32), (.replayRangebase, 64), (.replayRangecount, 5), (.ropePwbase, 64), (.ropePwcount, 13)]

/-- The registers of a partition whose writes are checked, with their widths (R264, R407, R416, R428, R444). -/
def checkedWidths : List (WinReg × Nat) :=
  [(WinReg.xlatWalkquota, 7), (.partCodebase, 64), (.partCodesize, 11), (.partWaymask, 16), (.partSlicemask0, 32),
                (.partSlicemask1, 32), (.partSlicemask2, 32), (.partBwfloor, 16), (.partBwweight, 8), (.partHoistmask, 32), (.partBraidmask, 16),
                (.partCmprmask, 8), (.partEnfloor, 32), (.partEnweight, 8), (.partVfmin, 3), (.ccHbperiod, 8), (.ccHoldtime, 32), (.migCntbase, 64),
                (.migCntfirst, 64), (.migCntpages, 32), (.migThresh, 16), (.migNqbase, 64), (.migNqtail, 32), (.migTrkfirst, 64), (.migTrkpages, 32),
                (.migBmbase, 64), (.migFlushfirst, 64), (.migFlushpages, 32)]

theorem packageWidths_ne {r : WinReg} {w : Nat} (h : (r, w) ∈ packageWidths) : r ≠ .partStatus :=
  (by decide : ∀ x ∈ packageWidths, x.1 ≠ .partStatus) _ h

theorem packageReg_partWidths {r : WinReg} {w : Nat} (h : (r, w) ∈ partWidths) : packageReg r = false :=
  (by decide : ∀ x ∈ partWidths, packageReg x.1 = false) _ h

theorem packageReg_checkedWidths {r : WinReg} {w : Nat} (h : (r, w) ∈ checkedWidths) : packageReg r = false :=
  (by decide : ∀ x ∈ checkedWidths, packageReg x.1 = false) _ h

/-- A value of 64 bits is stored whole. -/
theorem toNat_mod_dword (v : DWord) : v.toNat % 18446744073709551616 = v.toNat := Nat.mod_eq_of_lt v.isLt

/-- A field of `w` bits holds what is written modulo 2^w: each register's write sets the field that its read returns. -/
theorem readPart_setReg {s : State} {p : Part} {r : WinReg} {w : Nat} (v : DWord) (h : (r, w) ∈ partWidths) :
    s.readPart (p.setReg r v) r = v.toNat % 2 ^ w := by
  have each : ∀ x ∈ partWidths, s.readPart (p.setReg x.1 v) x.1 = v.toNat % 2 ^ x.2 := by
    simp [partWidths, State.readPart, Part.setReg, Part.setFq, toNat_mod_dword]
  exact each _ h

theorem readPart_setChecked {s : State} {p : Part} {r : WinReg} {w : Nat} (v : DWord) (h : (r, w) ∈ checkedWidths) :
    s.readPart (p.setChecked r v) r = v.toNat % 2 ^ w := by
  have each : ∀ x ∈ checkedWidths, s.readPart (p.setChecked x.1 v) x.1 = v.toNat % 2 ^ x.2 := by
    simp [checkedWidths, State.readPart, Part.setChecked, toNat_mod_dword]
  exact each _ h

theorem readReg_setReg_package {s : State} {pid : Nat} {r : WinReg} {w : Nat} (v : DWord) (h : (r, w) ∈ packageWidths) :
    (s.setReg r v).readReg pid r = v.toNat % 2 ^ w := by
  have each : ∀ x ∈ packageWidths, (s.setReg x.1 v).readReg pid x.1 = v.toNat % 2 ^ x.2 := by
    simp [packageWidths, State.readReg, State.setReg, toNat_mod_dword]
  exact each _ h

/-- R264: a queue takes a size that is a power of two from 16 to 4,096, and keeps its own otherwise. -/
theorem setSize_toNat (q : FaultQueue) (v : Nat) : (q.setSize (v % 65536)).size.toNat =
    if ∃ i, i < 9 ∧ v % 65536 = 2 ^ (i + 4) then v % 65536 else q.size.toNat := by
  simp only [FaultQueue.setSize, sizeOk_iff]
  split <;> simp

/-! ### What is noted beside a write: events that are due, and PART_STATUS -/

/-- A state with its due events and PART_STATUS replaced. -/
def State.noting (s : State) (es : List Instr) (st : BitVec 3) : State := { s with events := es, mgmt := { s.mgmt with partStatus := st } }

@[simp] theorem noting_noting (s : State) (es fs : List Instr) (st su : BitVec 3) : (s.noting es st).noting fs su = s.noting fs su := rfl

theorem readReg_noting (s : State) (es : List Instr) (st : BitVec 3) (pid : Nat) {r : WinReg} (hr : r ≠ .partStatus) :
    (s.noting es st).readReg pid r = s.readReg pid r := by
  cases r with
  | partStatus => exact absurd rfl hr
  | _ => rfl

theorem due_noting (s : State) (e : Instr) : ∃ es, s.due e = s.noting es s.mgmt.partStatus ∧ e ∈ es := by
  unfold State.due
  split
  · next h => exact ⟨s.events, rfl, by simpa using h⟩
  · exact ⟨s.events ++ [e], rfl, by simp⟩

theorem mem_due (s : State) (e : Instr) : e ∈ (s.due e).events := by
  obtain ⟨es, he, hmem⟩ := due_noting s e
  rw [he]
  exact hmem

@[simp] theorem part?_due (s : State) (e : Instr) (id : Nat) : (s.due e).part? id = s.part? id := by
  simp only [State.part?, State.due_parts]

theorem schedule_noting (s : State) (pid : Nat) : ∃ es, s.schedule pid = s.noting es s.mgmt.partStatus := by
  unfold State.schedule
  split
  · obtain ⟨es, he, -⟩ := due_noting s (.teamAdmit pid)
    obtain ⟨fs, hf, -⟩ := due_noting (s.due (.teamAdmit pid)) (.autoPreempt pid)
    rw [hf, he]
    exact ⟨fs, rfl⟩
  · exact ⟨s.events, rfl⟩

theorem noFlush_noting (s : State) (r : WinReg) (pid : Nat) : ∃ st, s.noFlush r pid = s.noting s.events st := by
  unfold State.noFlush
  split
  · exact ⟨_, rfl⟩
  · exact ⟨s.mgmt.partStatus, rfl⟩

/-! ### A write through a window (R10) -/

theorem setReg_frame (s : State) (r : WinReg) (v : DWord) : (s.setReg r v).mem = s.mem ∧ (s.setReg r v).groups = s.groups := by
  cases r with
  | mgmtParkqsize | pwrCap | ageDrift =>
    simp only [State.setReg]
    split <;> exact ⟨rfl, rfl⟩
  | mgmtParkqtail => simp [State.setReg]
  | _ => exact ⟨rfl, rfl⟩

theorem writeWindow_refused {s : State} (h : (WinReg.cell s.inbox.reg s.inbox.auth).writes = false) : s.writeWindow = s := by
  simp [State.writeWindow, h]

theorem writeWindow_checked {s : State} (hw : (WinReg.cell s.inbox.reg s.inbox.auth).writes = true) (ho : s.regOpen s.inbox.reg = true)
    (hc : WinReg.checked s.inbox.reg = true) : s.writeWindow = s.due .partRegisterWrite := by
  simp [State.writeWindow, hw, ho, hc]

/-- A plain write that is allowed stores the value, and notes the event that it sets going; nothing else changes. -/
theorem writeWindow_plain {s : State} (hw : (WinReg.cell s.inbox.reg s.inbox.auth).writes = true) (ho : s.regOpen s.inbox.reg = true)
    (hc : WinReg.checked s.inbox.reg = false) :
    ∃ es st, s.writeWindow = (s.setReg s.inbox.reg s.inbox.value).noting es st ∧
      ∀ e, regEvent s.inbox.reg (s.regPart s.inbox.reg) s.inbox.value = some e → e ∈ es := by
  simp only [State.writeWindow, hw, ho, hc, Bool.and_self, Bool.not_true, Bool.false_eq_true, if_false]
  generalize s.setReg s.inbox.reg s.inbox.value = t
  generalize s.regPart s.inbox.reg = pid
  generalize s.inbox.reg = r
  generalize s.inbox.value = v
  have stored : ∃ es, (if r == .schedPriogap then t.schedule pid else t) = t.noting es t.mgmt.partStatus := by
    split
    · exact schedule_noting t pid
    · exact ⟨t.events, rfl⟩
  obtain ⟨es, stored⟩ := stored
  rw [stored]
  cases regEvent r pid v with
  | none =>
    obtain ⟨st, hst⟩ := noFlush_noting (t.noting es t.mgmt.partStatus) r pid
    rw [noting_noting] at hst
    exact ⟨_, st, hst, fun _ he => by cases he⟩
  | some e =>
    dsimp only
    split
    · obtain ⟨fs, hf, hmem⟩ := due_noting (t.noting es t.mgmt.partStatus) e
      rw [noting_noting] at hf
      exact ⟨fs, _, hf, fun _ he => by cases he; exact hmem⟩
    · exact ⟨es ++ [e], t.mgmt.partStatus, rfl, fun _ he => by cases he; simp⟩

/-- After a plain write, a register of the package reads as it was set. -/
theorem readReg_written {s t : State} {es : List Instr} {st : BitVec 3} {r : WinReg} {v : DWord} (ht : t = (s.setReg r v).noting es st)
    (pid : Nat) (hr : r ≠ .partStatus) : t.readReg pid r = (s.setReg r v).readReg pid r := by
  rw [ht, readReg_noting _ _ _ _ hr]

/-- After a plain write, a register of a partition reads as it was set there. -/
theorem readReg_written_part {s t : State} {es : List Instr} {st : BitVec 3} {r : WinReg} {v : DWord} {q : Part}
    (ht : t = (s.setReg r v).noting es st) (hr : packageReg r = false) (hq : s.part? (s.regPart r) = some q) :
    t.readReg (s.regPart r) r = (s.setReg r v).readPart (q.setReg r v) r := by
  have hr' : r ≠ .partStatus := by rintro rfl; cases hr
  have hp : (s.setReg r v).part? (s.regPart r) = some (q.setReg r v) := by
    rw [setReg_ofPart s v hr]
    exact part?_updPart_same (Part.setReg_id r v) hq
  rw [readReg_written ht _ hr', readReg_ofPart hp hr]


/-- R444: the cap takes a value in its range, and keeps its own otherwise. -/
theorem readReg_written_cap {s t : State} {es : List Instr} {st : BitVec 3} {r : WinReg} {v : DWord} (ht : t = (s.setReg r v).noting es st)
    (pid : Nat) (hr : r = .pwrCap) :
    t.readReg pid r = if 1200 ≤ v.toNat % 4096 ∧ v.toNat % 4096 ≤ 2800 then v.toNat % 4096 else s.readReg pid r := by
  subst hr
  rw [readReg_written ht pid nofun]
  simp only [State.setReg, Bool.and_eq_true, decide_eq_true_eq]
  split <;> simp [State.readReg]

/-- R366: the deadline takes a value in its range, and keeps its own otherwise. -/
theorem readReg_written_deadline {s t : State} {es : List Instr} {st : BitVec 3} {r : WinReg} {v : DWord} {q : Part}
    (ht : t = (s.setReg r v).noting es st) (hq : s.part? (s.regPart r) = some q) (hr : r = .schedDeadline) :
    t.readReg (s.regPart r) r =
      if 1000 ≤ v.toNat % 2 ^ 32 ∧ v.toNat % 2 ^ 32 ≤ 2 ^ 24 then v.toNat % 2 ^ 32 else s.readReg (s.regPart r) r := by
  subst hr
  rw [readReg_written_part ht rfl hq, readReg_ofPart hq rfl]
  simp only [Part.setReg, deadlineOk_iff, loWord_toNat]
  split <;> simp [State.readPart]

theorem readReg_written_size {s t : State} {es : List Instr} {st : BitVec 3} {r : WinReg} {v : DWord} {q : Part}
    (ht : t = (s.setReg r v).noting es st) (hq : s.part? (s.regPart r) = some q) (hr : r = .xlatFq1size ∨ r = .xlatFq2size) :
    t.readReg (s.regPart r) r =
      if ∃ i, i < 9 ∧ v.toNat % 65536 = 2 ^ (i + 4) then v.toNat % 65536 else s.readReg (s.regPart r) r := by
  rcases hr with rfl | rfl
  · rw [readReg_written_part ht rfl hq, readReg_ofPart hq rfl]
    exact setSize_toNat q.xlat.fq1 v.toNat
  · rw [readReg_written_part ht rfl hq, readReg_ofPart hq rfl]
    exact setSize_toNat q.xlat.fq2 v.toNat

/-! ### A read through a window (R10, R394) -/

theorem readWindow_allowed {s : State} (hr : (WinReg.cell s.inbox.reg s.inbox.auth).reads = true) (ho : s.regOpen s.inbox.reg = true) :
    s.readWindow = { s.spend with reply := some { status := 0, data := s.readBytes (s.regPart s.inbox.reg) s.inbox.reg } } := by
  simp [State.readWindow, hr, ho]

theorem readWindow_refused {s : State} (h : ((WinReg.cell s.inbox.reg s.inbox.auth).reads && s.regOpen s.inbox.reg) = false) :
    s.readWindow = { (if s.inbox.auth == .operator && WinReg.ownerState s.inbox.reg then s.countRefused (s.regPart s.inbox.reg) else s) with
      reply := some { status := 1, data := natLe 8 0 } } := by
  simp [State.readWindow, h]

theorem readBytes_natLe (s : State) (pid : Nat) {r : WinReg} (hr : r ≠ .ownResetrec) : s.readBytes pid r = natLe 8 (s.readReg pid r) := by
  cases r with
  | ownResetrec => exact absurd rfl hr
  | _ => rfl

theorem readWindow_replies (s : State) : ∃ reply, s.readWindow.reply = some reply ∧ s.readWindow.mem = s.mem := by
  cases h : (WinReg.cell s.inbox.reg s.inbox.auth).reads && s.regOpen s.inbox.reg with
  | true =>
    rw [Bool.and_eq_true] at h
    rw [readWindow_allowed h.1 h.2]
    exact ⟨_, rfl, rfl⟩
  | false =>
    rw [readWindow_refused h]
    refine ⟨_, rfl, ?_⟩
    dsimp only
    split <;> rfl

/-! ### A checked write (R409) -/

section
variable {s : State} (ha : s.inbox.auth = .operator) (hc : WinReg.checked s.inbox.reg = true)
include ha hc

theorem checkedWrite_keySel (hr : s.inbox.reg = .ccKeysel) :
    execPartRegisterWrite s = .next ({ s with mgmt := { s.mgmt with ccKeySel := s.inbox.value.setWidth 7 } }.partStatus 0) := by
  rw [hr] at hc
  simp [execPartRegisterWrite, ha, hc, hr]

theorem checkedWrite_noPart (hr : s.inbox.reg ≠ .ccKeysel) (hp : s.part? (s.regPart s.inbox.reg) = none) :
    execPartRegisterWrite s = .next (s.partStatus 3) := by
  simp [execPartRegisterWrite, ha, hc, hr, hp]

theorem checkedWrite_refused {p : Part} (hr : s.inbox.reg ≠ .ccKeysel) (hp : s.part? (s.regPart s.inbox.reg) = some p)
    (hst : s.checkWrite p s.inbox.reg s.inbox.value.toNat ≠ 0) :
    execPartRegisterWrite s = .next (s.partStatus (BitVec.ofNat 3 (s.checkWrite p s.inbox.reg s.inbox.value.toNat))) := by
  simp [execPartRegisterWrite, ha, hc, hr, hp, hst]

theorem checkedWrite_stored {p : Part} (hr : s.inbox.reg ≠ .ccKeysel) (hp : s.part? (s.regPart s.inbox.reg) = some p)
    (hst : s.checkWrite p s.inbox.reg s.inbox.value.toNat = 0) :
    execPartRegisterWrite s =
      .next ((s.updPart (s.regPart s.inbox.reg) (Part.setChecked s.inbox.reg s.inbox.value)).partStatus 0) := by
  simp [execPartRegisterWrite, ha, hc, hr, hp, hst, part?_id hp]

end

theorem readReg_setChecked {s : State} {pid : Nat} {p : Part} {r : WinReg} {w : Nat} (v : DWord) (hp : s.part? pid = some p)
    (h : (r, w) ∈ checkedWidths) : ((s.updPart pid (Part.setChecked r v)).partStatus 0).readReg pid r = v.toNat % 2 ^ w := by
  have hr := packageReg_checkedWidths h
  have hp' : ((s.updPart pid (Part.setChecked r v)).partStatus 0).part? pid = some (p.setChecked r v) :=
    part?_updPart_same (Part.setChecked_id r v) hp
  rw [readReg_ofPart hp' hr, readPart_setChecked v h]

/-! ### Results of checks (R264, R407, R409) -/

theorem checkWrite_walkquota_range (s : State) (p : Part) (v : Nat) (h : v % 128 = 0 ∨ 64 < v % 128) :
    s.checkWrite p .xlatWalkquota v = 1 := by
  simp [State.checkWrite, h]

/-- R264: the quota of a partition that is alone fits where it is in its range. -/
theorem checkWrite_walkquota_alone {s : State} {p : Part} {v : Nat} (h1 : 1 ≤ v % 128) (h2 : v % 128 ≤ 64) (hp : s.parts = [p]) :
    s.checkWrite p .xlatWalkquota v = 0 := by
  have inRange : (v % 128 == 0 || decide (64 < v % 128)) = false := by
    simp only [Bool.or_eq_false_iff, beq_eq_false_iff_ne, decide_eq_false_iff_not]
    omega
  have total : s.sumWith p.id (v % 128) (fun q => q.xlat.quota.toNat) = v % 128 := by
    simp [State.sumWith, sumOf, hp]
  simp only [State.checkWrite, inRange, total, Bool.false_eq_true, if_false, if_neg (Nat.not_lt_of_le h2)]

theorem checkWrite_bwfloor_range (s : State) (p : Part) {v : Nat} (h : 45000 < v % 65536) : s.checkWrite p .partBwfloor v = 1 := by
  simp [State.checkWrite, h]

theorem checkWrite_bwweight_zero (s : State) (p : Part) {v : Nat} (h : v % 256 = 0) : s.checkWrite p .partBwweight v = 1 := by
  simp [State.checkWrite, h]

theorem codeStatus_unaligned (s : State) (p : Part) {base : Nat} (size : Nat) (h : base % 65536 ≠ 0) : s.codeStatus p base size = 1 := by
  simp [State.codeStatus, h]

theorem codeStatus_busy (s : State) {p : Part} {base size : Nat} (h1 : base % 65536 = 0) (h2 : size ≤ 1024)
    (h3 : base + 65536 * size ≤ 768 * 2 ^ 30) (h4 : p.ctxState ≠ 0) : s.codeStatus p base size = 2 := by
  have inRange : (base % 65536 != 0 || decide (1024 < size) || decide (768 * 2 ^ 30 < base + 65536 * size)) = false := by
    simp only [h1, bne_self_eq_false, Bool.false_or, Bool.or_eq_false_iff, decide_eq_false_iff_not]
    omega
  have busy : (p.ctxState != 0) = true := bne_iff_ne.mpr h4
  simp only [State.codeStatus, inRange, busy, Bool.false_eq_true, if_false, if_true]

/-! ### Inspections (R394) -/

theorem inspect_refused {s : State} {v : Word} (h : v.toNat % 256 ≠ 0) : s.inspect v = (1, 0) := by
  simp [State.inspect, h]

/-- R394: class 0 has five items. -/
theorem metadata_unknown (s : State) (p : Part) {item : Nat} (h : 5 ≤ item) : s.metadata p item = none := by
  match item, h with
  | n + 5, _ => rfl

theorem inspect_unknown {s : State} {v : Word} (h0 : v.toNat % 256 = 0) (h : s.part? s.mgmt.ctxSel.toNat = none ∨ 5 ≤ v.toNat / 256) :
    s.inspect v = (2, 0) := by
  have none' : ((s.part? s.mgmt.ctxSel.toNat).bind fun p => s.metadata p (v.toNat / 256)) = none := by
    rcases h with h | h
    · rw [h]; rfl
    · simp [metadata_unknown s _ h]
  simp [State.inspect, h0, none']

/-- R394: the items of class 0 of a partition that is neither idle nor destroyed. -/
def State.activeItem (s : State) (p : Part) : Nat → Nat
  | 0 => p.ctxState.toNat
  | 1 => p.halls.length
  | 2 => s.grids.countP fun g => g.part == p.id && g.queued
  | 3 => s.teamsIn p.id .resident
  | _ => s.teamsIn p.id .saved

theorem metadata_active (s : State) {p : Part} {item : Nat} (hs : p.ctxState ≠ 0 ∧ p.ctxState ≠ 4) (h : item < 5) :
    s.metadata p item = some (BitVec.ofNat 64 (s.activeItem p item)) := by
  have active : (p.ctxState == 0 || p.ctxState == 4) = false := by simpa using hs
  match item, h with
  | 0, _ => rfl
  | 1, _ => rfl
  | 2, _ => simp only [State.metadata, active, Bool.false_eq_true, if_false, State.gridCount, State.activeItem, List.countP_eq_length_filter]
  | 3, _ => simp only [State.metadata, active, Bool.false_eq_true, if_false, State.activeItem]
  | 4, _ => simp only [State.metadata, active, Bool.false_eq_true, if_false, State.activeItem]

theorem inspect_known {s : State} {v : Word} {p : Part} {x : DWord} (h0 : v.toNat % 256 = 0) (hp : s.part? s.mgmt.ctxSel.toNat = some p)
    (hm : s.metadata p (v.toNat / 256) = some x) : s.inspect v = (0, x) := by
  simp [State.inspect, h0, hp, hm]

theorem mgmtInspid_idle {s : State} (h : s.inbox.auth ≠ .operator ∨ s.mgmt.inspStatus = 3) : exec .mgmtInspid s = .next s := by
  have off : (s.inbox.auth != .operator || s.mgmt.inspStatus == 3) = true := by simpa using h
  simp only [exec, execMgmtInspid, off, if_true]

/-- The partitions after an inspection is taken up: its step is counted, and its refusal. -/
def State.inspecting (s : State) : State :=
  let pid := s.mgmt.ctxSel.toNat
  if (s.inspect (loWord s.inbox.value)).1 == 1 then (s.countStep pid 6).countRefused pid else s.countStep pid 6

theorem mgmtInspid_takes {s : State} (ha : s.inbox.auth = .operator) (hi : s.mgmt.inspStatus ≠ 3) :
    exec .mgmtInspid s = .next ({ s.inspecting with mgmt := { s.inspecting.mgmt with
      inspId := loWord s.inbox.value, inspData := 0, inspStatus := 3, inspResult := some (s.inspect (loWord s.inbox.value)) } }.due
        .inspectionComplete) := by
  have on : (s.inbox.auth != .operator || s.mgmt.inspStatus == 3) = false := by simpa [ha] using hi
  simp only [exec, execMgmtInspid, on, Bool.false_eq_true, if_false]
  rfl

theorem inspecting_mem (s : State) : s.inspecting.mem = s.mem := by
  simp only [State.inspecting]
  split <;> rfl

theorem part?_inspecting_refused {s : State} {p : Part} (h : (loWord s.inbox.value).toNat % 256 ≠ 0)
    (hp : s.part? s.mgmt.ctxSel.toNat = some p) :
    ∃ q, s.inspecting.part? s.mgmt.ctxSel.toNat = some q ∧ q.counters.refusedReads = p.counters.refusedReads + 1 := by
  have counted : (s.countStep s.mgmt.ctxSel.toNat 6).part? s.mgmt.ctxSel.toNat = some _ := part?_updPart_same (fun _ => rfl) hp
  obtain ⟨q, hq, hr⟩ := part?_countRefused counted
  simp only [State.inspecting, inspect_refused h]
  exact ⟨q, hq, hr⟩

theorem inspectionComplete_shows {s : State} {x : BitVec 2 × DWord} (h : s.mgmt.inspResult = some x) :
    exec .inspectionComplete s = .next { s with mgmt := { s.mgmt with inspStatus := x.1, inspData := x.2, inspResult := none } } := by
  simp only [exec, execInspectionComplete, h]

/-! ### The statement, clause by clause -/

/-- R10, R394: a read. -/
theorem registerRead {s : State} (hk : s.inbox.kind = 1) :
    ∃ (t : State) (reply : Reply), exec .registerWrite s = .next t ∧ t.reply = some reply ∧ t.mem = s.mem ∧
      ((WinReg.cell s.inbox.reg s.inbox.auth).reads = true → s.regOpen s.inbox.reg = true → reply.status = 0 ∧ t.parts = s.parts ∧
        (s.inbox.reg ≠ .ownResetrec → reply.data = natLe 8 (s.readReg (s.regPart s.inbox.reg) s.inbox.reg))) ∧
      ((WinReg.cell s.inbox.reg s.inbox.auth).reads = false → reply.status = 1 ∧ reply.data = List.replicate 8 0 ∧
        (s.inbox.auth = .operator → WinReg.ownerState s.inbox.reg = true →
          ∀ q, s.part? (s.regPart s.inbox.reg) = some q → ∃ q', t.part? (s.regPart s.inbox.reg) = some q' ∧
            q'.counters.refusedReads = q.counters.refusedReads + 1)) := by
  obtain ⟨reply, hreply, hmem⟩ := readWindow_replies s
  refine ⟨s.readWindow, reply, by simp only [exec, execRegisterWrite, hk, beq_self_eq_true, if_true], hreply, hmem, fun hr ho => ?_,
    fun hr => ?_⟩
  · rw [readWindow_allowed hr ho] at hreply ⊢
    cases hreply
    exact ⟨rfl, rfl, readBytes_natLe s _⟩
  · rw [readWindow_refused (by rw [hr]; rfl)] at hreply ⊢
    cases hreply
    refine ⟨rfl, rfl, fun ha hown q hq => ?_⟩
    simp only [ha, hown, beq_self_eq_true, Bool.and_self, if_true]
    exact part?_countRefused hq

theorem registerWrite_writes {s : State} (hk : s.inbox.kind ≠ 1) : exec .registerWrite s = .next s.writeWindow := by
  have write : (s.inbox.kind == 1) = false := beq_eq_false_iff_ne.mpr hk
  simp only [exec, execRegisterWrite, write, Bool.false_eq_true, if_false]

/-- Settles O46: a read, a plain write, a checked write, and an inspection from its start to its end. -/
theorem registerEvents : Obligations.RegisterEvents := by
  intro s r v pid cell result
  refine ⟨registerRead, fun hk => ⟨fun hw => ?refused, fun hw ho => ⟨fun hc => ?due, fun hc => ?plain⟩⟩,
    fun ha hc => ⟨fun hr => ?keySel, fun hr => ⟨fun hp => ?noPart, fun q hq => ⟨fun hst => ?notStored, fun hst => ?stored, ?results⟩⟩⟩,
    mgmtInspid_idle, fun ha hi => ?inspection, fun x hx => ⟨_, inspectionComplete_shows hx, rfl, rfl, rfl, rfl⟩⟩
  case refused => rw [registerWrite_writes hk, writeWindow_refused hw]
  case due => rw [registerWrite_writes hk, writeWindow_checked hw ho hc]
  case plain =>
    obtain ⟨es, st, ht, hevent⟩ := writeWindow_plain hw ho hc
    obtain ⟨hmem, hgroups⟩ := setReg_frame s r v
    refine ⟨s.writeWindow, registerWrite_writes hk, by rw [ht]; exact hmem, by rw [ht]; exact hgroups, fun e he => by rw [ht]; exact hevent e he,
      fun w hw => ?_, fun w q hq hw => ?_, fun q => readReg_written_deadline ht, fun q => readReg_written_size ht, readReg_written_cap ht pid⟩
    · rw [readReg_written ht pid (packageWidths_ne hw), readReg_setReg_package v hw]
    · rw [readReg_written_part ht (packageReg_partWidths hw) hq, readPart_setReg v hw]
  case keySel => exact ⟨_, checkedWrite_keySel ha hc hr, ⟨rfl, rfl, rfl⟩, BitVec.toNat_setWidth ..⟩
  case noPart => exact ⟨_, checkedWrite_noPart ha hc hr hp, rfl, rfl, rfl⟩
  case notStored => exact ⟨_, checkedWrite_refused ha hc hr hq hst, rfl, rfl, rfl⟩
  case stored => exact ⟨_, checkedWrite_stored ha hc hr hq hst, rfl, rfl, fun w hw => readReg_setChecked v hq hw⟩
  case results =>
    refine ⟨fun h => ?_, fun h => ?_, fun h => ?_, fun h => ?_, fun h => ?_⟩ <;> rw [h]
    · exact ⟨checkWrite_walkquota_range s q _, checkWrite_walkquota_alone⟩
    · exact checkWrite_bwfloor_range s q
    · exact checkWrite_bwweight_zero s q
    · exact codeStatus_unaligned s q _
    · exact codeStatus_busy s
  case inspection =>
    refine ⟨_, (s.inspect (loWord v)).1, (s.inspect (loWord v)).2, mgmtInspid_takes ha hi, by rw [State.due_mgmt], by rw [State.due_mgmt],
      by rw [State.due_mem]; exact inspecting_mem s, by rw [State.due_mgmt], mem_due _ _, fun h => ?_,
      fun h => ⟨fun hu => ?_, fun q hq active h5 => ?_⟩⟩
    · rw [inspect_refused h]
      refine ⟨rfl, rfl, fun q hq => ?_⟩
      rw [part?_due]
      exact part?_inspecting_refused h hq
    · rw [inspect_unknown h hu]
      exact ⟨rfl, rfl⟩
    · rw [inspect_known h hq (metadata_active s active h5), ← part?_id hq]
      exact ⟨rfl, rfl⟩

end Sys2Proof.Machine
end

section
/-! PROOFS. The package after reset (R14, R408, R427, R428, R440, R444, R447). -/

namespace Sys2Proof.Machine

/-- R408: at reset no event is due and no group exists, so that there is no move. -/
theorem reset_nextMove : State.reset.settle.nextMove = none := rfl

theorem reset_hall {n : Nat} (h : n < 304) : State.reset.halls[n]? = some (Hall.reset n) := by
  simp [State.reset, h]

/-- Settles O52: the fields of the reset state, and that no move follows it. -/
theorem resetState : Obligations.ResetState := by
  have halls : State.reset.halls.length = 304 := by simp [State.reset]
  have keys : State.reset.keys.length = 128 := by simp [State.reset]
  have free : ∀ k ∈ State.reset.keys, k.kind = 0 ∧ k.state = 0 ∧ k.part = none := by
    intro k hk
    obtain rfl := List.eq_of_mem_replicate hk
    exact ⟨rfl, rfl, rfl⟩
  have phys : ∀ n, n < 304 → (State.reset.halls[n]?).map Hall.phys = some (80 * (n / 76) + n % 76) := fun n hn => by
    rw [reset_hall hn]; rfl
  exact ⟨rfl, rfl, rfl, rfl, rfl, rfl, rfl, State.reset_mem_wf, rfl, rfl, rfl, rfl, rfl, State.reset_homes_wf.1, State.reset_homes_wf.2,
    halls, phys 0 (by decide), phys 75 (by decide), phys 76 (by decide), phys 303 (by decide), rfl, keys, free,
    rfl, rfl, rfl, rfl, rfl, rfl, step_idle reset_nextMove⟩

end Sys2Proof.Machine
end

section
/-! PROOFS. Knots: observations, KINIT, decrements, and the release of the strands that wait (R27, R28, R53, R179, R180, R307, R309, R323). -/

namespace Sys2Proof.Machine

/-! ### Entries of a list and of a strand table -/

theorem listModify_eq_set {α : Type} {l : List α} {n : Nat} {x : α} (f : α → α) (h : l[n]? = some x) :
    listModify l n f = l.set n (f x) := by
  induction l generalizing n with
  | nil => cases h
  | cons y ys ih =>
    cases n with
    | zero => cases h; rfl
    | succ n => rw [listModify, List.set_cons_succ, ih (by simpa using h)]

/-- A change of every entry of a table. -/
def Control.mapAll (f : Entry → Entry) (c : Control) : Control := { c with entries := c.entries.map fun x => x.map f }

theorem Control.get_mapAll (f : Entry → Entry) (c : Control) (k : Fin 8) : (c.mapAll f).get k = (c.get k).map f := by
  simp [Control.mapAll, Control.get]

theorem Group.mapEntries_eq (f : Entry → Entry) (g : Group) :
    g.mapEntries f = { g with ctl := g.ctl.mapAll f, ctxs := g.ctxs.map fun x => { x with ctl := x.ctl.mapAll f } } := rfl

theorem Control.mapAll_idem {f : Entry → Entry} (hf : ∀ e, f (f e) = f e) (c : Control) : (c.mapAll f).mapAll f = c.mapAll f := by
  have twice : (fun x : Option Entry => x.map f) ∘ (fun x : Option Entry => x.map f) = fun x : Option Entry => x.map f := by
    funext x
    cases x <;> simp [hf]
  simp [Control.mapAll, Vector.map_map, twice]

theorem Group.mapEntries_idem {f : Entry → Entry} (hf : ∀ e, f (f e) = f e) (g : Group) :
    (g.mapEntries f).mapEntries f = g.mapEntries f := by
  simp [Group.mapEntries_eq, Control.mapAll_idem hf]

/-! ### Groups of a team -/

theorem foldl_updGroup_keeps (f : Group → Group) (gis : List Nat) (s : State) :
    ∃ gs, gis.foldl (fun s gi => s.updGroup gi f) s = { s with groups := gs } := by
  induction gis generalizing s with
  | nil => exact ⟨_, rfl⟩
  | cons gi gis ih => exact ih (s.updGroup gi f)

theorem foldl_updGroup_other {f : Group → Group} {gi : Nat} {gis : List Nat} (h : gi ∉ gis) (s : State) :
    (gis.foldl (fun s gj => s.updGroup gj f) s).groups[gi]? = s.groups[gi]? := by
  induction gis generalizing s with
  | nil => rfl
  | cons gj gis ih =>
    rw [List.mem_cons, not_or] at h
    rw [List.foldl_cons, ih h.2, updGroup_get_other _ _ _ _ h.1]

/-- A change that may be made twice reaches each group of a list once, however often the list names it. -/
theorem foldl_updGroup_same {f : Group → Group} (hf : ∀ g, f (f g) = f g) {gi : Nat} {gis : List Nat} (h : gi ∈ gis) (s : State) :
    (gis.foldl (fun s gj => s.updGroup gj f) s).groups[gi]? = s.groups[gi]?.map f := by
  induction gis generalizing s with
  | nil => cases h
  | cons gj gis ih =>
    rw [List.foldl_cons]
    by_cases later : gi ∈ gis
    · rw [ih later]
      by_cases here : gi = gj
      · subst here
        rw [updGroup_get_same, Option.map_map]
        congr 1
        funext g
        exact hf g
      · rw [updGroup_get_other _ _ _ _ here]
    · obtain rfl : gi = gj := (List.mem_cons.mp h).resolve_right later
      rw [foldl_updGroup_other later, updGroup_get_same]

/-- A change of a team leaves what its groups become. -/
theorem updTeamGroups_updTeam (s : State) (ti : Nat) (h : Team → Team) (t : Team) (f : Group → Group) :
    (s.updTeam ti h).updTeamGroups t f = { s.updTeam ti h with groups := (s.updTeamGroups t f).groups } := by
  simp only [State.updTeamGroups]
  generalize t.groups = gis
  induction gis generalizing s with
  | nil => rfl
  | cons gi gis ih => exact ih (s.updGroup gi f)

/-- Changing a team's groups by what may be done twice: each of them is changed, and nothing else. -/
theorem updTeamGroups_spec {f : Group → Group} (hf : ∀ g, f (f g) = f g) (s : State) (t : Team) :
    ∃ gs, s.updTeamGroups t f = { s with groups := gs } ∧ (∀ gi ∈ t.groups, gs[gi]? = s.groups[gi]?.map f) ∧
      ∀ gi, gi ∉ t.groups → gs[gi]? = s.groups[gi]? := by
  obtain ⟨gs, hgs⟩ := foldl_updGroup_keeps f t.groups s
  have eq : gs = (t.groups.foldl (fun s gi => s.updGroup gi f) s).groups := by rw [hgs]
  exact ⟨gs, hgs, fun gi h => eq ▸ foldl_updGroup_same hf h s, fun gi h => eq ▸ foldl_updGroup_other h s⟩

/-! ### A knot whose count becomes zero (R28, R309) -/

theorem Group.knotEnd_eq (n : Nat) (kn : Knot) : Group.knotEnd n kn.scope kn.status kn.addr = Group.mapEntries (Entry.joinsKnot n kn) := by
  funext g
  refine congrArg (fun f => g.mapEntries f) ?_
  funext e
  rw [Entry.joinsKnot]
  cases e.wait <;> simp

theorem Entry.joinsKnot_idem (n : Nat) (kn : Knot) (e : Entry) : (e.joinsKnot n kn).joinsKnot n kn = e.joinsKnot n kn := by
  cases h : e.wait with
  | knot m cont => by_cases hm : m = n <;> simp [Entry.joinsKnot, h, hm]
  | _ => simp [Entry.joinsKnot, h]

/-- The strands of a group that wait on a knot are released with its join, frozen ones too; nothing else of the group changes. -/
theorem Group.knotEnd_releases (n : Nat) (kn : Knot) (g : Group) :
    let g' := Group.knotEnd n kn.scope kn.status kn.addr g
    g' = { g with ctl := g'.ctl, ctxs := g'.ctxs } ∧
      (∀ k, g'.ctl.get k = (g.ctl.get k).map (Entry.joinsKnot n kn)) ∧ g'.ctl.cur = g.ctl.cur ∧ g'.ctl.serial = g.ctl.serial ∧
      ∀ (j : Nat) (x : Ctx), g.ctxs[j]? = some x → ∃ x' : Ctx, g'.ctxs[j]? = some x' ∧ x' = { x with ctl := x'.ctl } ∧
        ∀ k, x'.ctl.get k = (x.ctl.get k).map (Entry.joinsKnot n kn) := by
  rw [Group.knotEnd_eq, Group.mapEntries_eq]
  refine ⟨rfl, Control.get_mapAll _ _, rfl, rfl, fun j x hx => ⟨{ x with ctl := x.ctl.mapAll _ }, ?_, rfl, Control.get_mapAll _ _⟩⟩
  simp [hx]

/-- Changes of one team after another are changes of that team. -/
theorem State.updTeam_comp (s : State) (ti : Nat) (f g : Team → Team) : (s.updTeam ti f).updTeam ti g = s.updTeam ti fun t => g (f t) := by
  simp [State.updTeam, listModify_comp]

theorem updTeam_get_same {s : State} {ti : Nat} {t : Team} (f : Team → Team) (h : s.teams[ti]? = some t) :
    (s.updTeam ti f).teams[ti]? = some (f t) := by
  rw [State.updTeam_teams, listModify_get_same, h, Option.map_some]

theorem updTeam_get_other (s : State) (ti j : Nat) (f : Team → Team) (h : j ≠ ti) : (s.updTeam ti f).teams[j]? = s.teams[j]? :=
  listModify_get_other _ _ _ _ h

/-- A team with one of its knots replaced. -/
def Team.setKnot (n : Nat) (kn : Knot) : Team → Team := fun t => { t with knots := t.knots.set n kn }

/-- R309: a knot after its count became zero: its status is cleared where some strand took it. -/
def Knot.taken (waiting : Bool) (kn : Knot) : Knot := if waiting then { kn with status := 0, addr := 0 } else kn

/-- R370: a grid of the foyer of team `ti` is told that the count of knot `n` has become zero. -/
def Grid.told (ti n : Nat) (gr : Grid) : Grid :=
  if gr.foyerTeam = ti ∧ gr.queued = true then
    { gr with deps := gr.deps.map fun d => if d.kind = 0 ∧ d.knot = n then { d with met := true } else d } else gr

/-- R28, R309, R370: knot `n` of a team becomes `kn`, and the knot is told that its count is zero: the state that follows. -/
theorem knotZero_setKnot {s : State} {ti n : Nat} {t : Team} {old : Knot} (kn : Knot) (ht : s.teams[ti]? = some t)
    (hn : t.knots[n]? = some old) :
    let waiting := t.groups.any fun gi => (s.groups[gi]?).any (Group.waitsKnot n)
    (s.updTeam ti (Team.setKnot n kn)).knotZero ti n =
      { s.updTeam ti (Team.setKnot n (kn.taken waiting)) with
        groups := (s.updTeamGroups t (Group.knotEnd n kn.scope kn.status kn.addr)).groups, grids := s.grids.map (Grid.told ti n) } := by
  have hkn : (Team.setKnot n kn t).knots[n]? = some kn := by
    have := (List.getElem?_eq_some_iff.mp hn).1
    simp [Team.setKnot, this]
  have told : (fun gr : Grid => if (gr.foyerTeam == ti && gr.queued) = true then
      { gr with deps := gr.deps.map fun d => if (d.kind == 0 && d.knot == n) = true then { d with met := true } else d } else gr) =
      Grid.told ti n := by
    funext gr
    simp [Grid.told]
  unfold State.knotZero
  simp only [updTeam_get_same (Team.setKnot n kn) ht, hkn, told]
  rw [updTeamGroups_updTeam]
  split
  · next waits =>
    have waiting : (t.groups.any fun gi => (s.groups[gi]?).any (Group.waitsKnot n)) = true := waits
    rw [waiting]
    simp only [State.updTeam, listModify_comp, Team.setKnot, List.set_set, Knot.taken]
    rfl
  · next quiet =>
    have waiting : (t.groups.any fun gi => (s.groups[gi]?).any (Group.waitsKnot n)) = false := Bool.eq_false_iff.mpr quiet
    rw [waiting]
    rfl

/-- R28, R309: knot `n` of a team becomes `kn`, and is told that its count is zero. -/
theorem knotReleased_setKnot {s : State} {ti n : Nat} {t : Team} {old : Knot} (kn : Knot) (ht : s.teams[ti]? = some t)
    (hn : t.knots[n]? = some old) : KnotReleased s ((s.updTeam ti (Team.setKnot n kn)).knotZero ti n) ti n t kn := by
  obtain ⟨gs, hgs, mine, others⟩ := updTeamGroups_spec (f := Group.knotEnd n kn.scope kn.status kn.addr)
    (fun g => by rw [Group.knotEnd_eq, Group.mapEntries_idem (Entry.joinsKnot_idem n kn)]) s t
  rw [knotZero_setKnot kn ht hn, hgs]
  exact {
    team := updTeam_get_same _ ht
    teams := fun j hj => updTeam_get_other _ _ _ _ hj
    waiters := fun gi g hgi hg => ⟨_, by rw [mine gi hgi, hg]; rfl, Group.knotEnd_releases n kn g⟩
    others := others
    grids := rfl
    rest := rfl }

/-! ### Words that observe and set knots (R28, R53, R179, R180, R323) -/

theorem cx?_team {s : State} {c : Cx} (h : s.cx? = some c) : s.teams[c.g.team]? = some c.t := (cx?_spec h).2.2.1

theorem knotSeen_zero {s : State} {c : Cx} {n : Nat} {kn : Knot} (hn : c.t.knots[n]? = some kn) (hg : c.e.grant = none)
    (h0 : kn.count = 0) : s.knotSeen c n = some (kn.scope, kn.status, kn.addr) := by
  simp [State.knotSeen, hg, hn, h0]

theorem knotSeen_waits {s : State} {c : Cx} {n : Nat} {kn : Knot} (hn : c.t.knots[n]? = some kn) (hg : c.e.grant = none)
    (h0 : kn.count ≠ 0) : s.knotSeen c n = none := by
  simpa [State.knotSeen, hg, hn] using h0

/-- R28, R53: a knot whose count is zero and whose status is clear is joined at its scope. -/
theorem observeKnot_joins {s : State} {c : Cx} {n : Nat} {kn : Knot} (i : Instr) (cont : Option CodeRef) (k : State → State)
    (hn : c.t.knots[n]? = some kn) (hg : c.e.grant = none) (h0 : kn.count = 0) (hs : kn.status = 0) :
    s.observeKnot c i n cont k = k ((s.takeStatus c n).joinKnot c n kn.scope) := by
  simp [State.observeKnot, knotSeen_zero hn hg h0, hs]

theorem observeKnot_waits {s : State} {c : Cx} {n : Nat} {kn : Knot} (i : Instr) (cont : Option CodeRef) (k : State → State)
    (hn : c.t.knots[n]? = some kn) (hg : c.e.grant = none) (h0 : kn.count ≠ 0) :
    s.observeKnot c i n cont k = s.waitQuiet c (.knot n cont) := by
  simp [State.observeKnot, knotSeen_waits hn hg h0]

theorem checked_inRegion {s : State} {c : Cx} {dst : CodeRef} (i : Instr) (k : State) (h : c.p.inRegion dst = true) :
    s.checked c i dst k = k := if_pos h

theorem exec_waitk {s : State} {c : Cx} {n : BitVec 8} (h : s.cx? = some c) (hc : c.check (.waitk n) = .go) :
    exec (.waitk n) s = .next (s.observeKnot c (.waitk n) n.toNat none fun s1 => s1.retire c) := issue_go _ s _ c h hc

theorem exec_yieldk {s : State} {c : Cx} {n : BitVec 8} {off : BitVec 12} (h : s.cx? = some c) (hc : c.check (.yieldk n off) = .go)
    (hr : c.p.inRegion (c.target 12 off.toNat) = true) :
    exec (.yieldk n off) s = .next (s.observeKnot c (.yieldk n off) n.toNat (some (c.target 12 off.toNat))
      fun s1 => s1.retireTo c (c.target 12 off.toNat)) :=
  (issue_go _ s _ c h hc).trans (congrArg _ (checked_inRegion _ _ hr))

/-- R180: a knot after KINIT. -/
def Knot.init (count : Word) (kn : Knot) : Knot :=
  { kn with count := count, underflow := false, scope := .h, status := 0, addr := 0, failed := false }

/-- R180: KINIT sets its knot, and tells it where the count is zero. -/
theorem exec_kinit {s : State} {c : Cx} {n : BitVec 8} {x : SOp} {kn : Knot} (h : s.cx? = some c) (hc : c.check (.kinit n x) = .go)
    (hn : c.t.knots[n.toNat]? = some kn) :
    let s1 := s.updTeam c.g.team (Team.setKnot n.toNat (kn.init (c.sop x)))
    exec (.kinit n x) s = .next ((if c.sop x = 0 then s1.knotZero c.g.team n.toNat else s1).retire c) := by
  have set : s.updTeam c.g.team (fun t => { t with knots := listModify t.knots n.toNat (Knot.init (c.sop x)) }) =
      s.updTeam c.g.team (Team.setKnot n.toNat (kn.init (c.sop x))) := by
    have ht := cx?_team h
    rw [State.updTeam, State.updTeam, listModify_eq_set _ ht, listModify_eq_set _ ht, Team.setKnot, listModify_eq_set _ hn]
  have run : exec (.kinit n x) s = .next ((if c.sop x == 0 then
      (s.updTeam c.g.team (fun t => { t with knots := listModify t.knots n.toNat (Knot.init (c.sop x)) })).knotZero c.g.team n.toNat else
      s.updTeam c.g.team (fun t => { t with knots := listModify t.knots n.toNat (Knot.init (c.sop x)) })).retire c) :=
    issue_go _ s _ c h hc
  intro s1
  rw [run, set]
  simp only [beq_iff_eq, s1]

/-- What a word does to its group and the counts does not hang on the teams. -/
theorem WordDone.withTeams {s t : State} {c : Cx} {r : Regs} {x : Ctrl} (h : WordDone s t c r x) (ts : List Team) :
    WordDone { s with teams := ts } { t with teams := ts } c r x :=
  ⟨h.group, h.others, congrArg (fun u : State => { u with teams := ts }) h.rest⟩

theorem valueRead_plain (s : State) {p : Part} (t : Team) (g : Group) (kind : Nat) (v : DWord) (h : p.replay.ctl = 0) :
    s.valueRead p t g kind v = (s, v) := by
  simp [State.valueRead, State.recorded, h]

theorem kquery_done {s : State} {c : Cx} {n : BitVec 8} {d : SReg} {kn : Knot} (h : s.cx? = some c) (hc : c.check (.kquery n d) = .go)
    (hn : c.t.knots[n.toNat]? = some kn) (hr : c.p.replay.ctl = 0) : ScalarDone (exec (.kquery n d) s) s c d kn.count := by
  have run : exec (.kquery n d) s = _ := issue_go _ s _ c h hc
  simp only [valueRead_plain s c.t c.g 1 _ hr, hn, loWord_pairOf] at run
  rw [run]
  exact sDone_spec h d kn.count

/-! ### A decrement of a knot (R27, R53, R307) -/

theorem Scope.le_max (a b : Scope) : (a.max b = a ∨ a.max b = b) ∧ a.rank ≤ (a.max b).rank ∧ b.rank ≤ (a.max b).rank := by
  unfold Scope.max
  split
  · exact ⟨.inr rfl, by omega, by omega⟩
  · exact ⟨.inl rfl, by omega, by omega⟩

theorem decrement_resident {s : State} {ti n : Nat} {t : Team} {kn : Knot} (scope : Scope) (status : Nat) (addr : DWord)
    (know : List (SpadBy × Nat)) (ht : s.teams[ti]? = some t) (hp : t.phase = .resident) (hn : t.knots[n]? = some kn) :
    let s1 := s.updTeam ti (Team.setKnot n (kn.step scope status addr know))
    s.decrement ti n scope status addr know = if kn.count = 1 then s1.knotZero ti n else s1 := by
  intro s1
  simp only [State.decrement, ht, hp, hn, beq_iff_eq]
  rfl

section
variable (kn : Knot) (scope : Scope) (status : Nat) (addr : DWord) (know : List (SpadBy × Nat))

/-- R307: a knot after a decrement, field by field. -/
theorem Knot.step_eq : kn.step scope status addr know =
    { kn with
      count := if kn.count = 0 then 0 else kn.count - 1
      underflow := if kn.count = 0 then true else kn.underflow
      scope := if kn.count = 0 then kn.scope else kn.scope.max scope
      status := if status ≠ 0 ∧ kn.failed = false then status else if kn.count = 0 ∧ kn.status = 0 then 13 else kn.status
      addr := if status ≠ 0 ∧ kn.failed = false then addr else if kn.count = 0 ∧ kn.status = 0 then 0 else kn.addr
      failed := kn.failed || status != 0
      know := know ++ kn.know } := by
  unfold Knot.step
  by_cases first : status ≠ 0 ∧ kn.failed = false
  · by_cases zero : kn.count = 0#32
    · simp [first, zero]
    · simp [first, zero]
  · have same : (kn.failed || status != 0) = kn.failed := by
      cases hf : kn.failed <;> simp_all
    by_cases zero : kn.count = 0#32
    · by_cases clear : kn.status = 0
      · simp [first, zero, clear, same]
      · simp [first, zero, clear, same]
    · simp [first, zero, same]

/-- R27, R53, R307: what a decrement makes of its knot, above zero and at zero. -/
theorem Knot.step_spec :
    let kn' := kn.step scope status addr know
    (kn'.tie = kn.tie ∧ kn'.know = know ++ kn.know ∧ kn'.failed = (kn.failed || status != 0)) ∧
    (kn.count ≠ 0 → (kn'.scope = kn.scope ∨ kn'.scope = scope) ∧ kn.scope.rank ≤ kn'.scope.rank ∧ scope.rank ≤ kn'.scope.rank ∧
      kn'.count = kn.count - 1 ∧ kn'.underflow = kn.underflow ∧
      (kn'.status, kn'.addr) = if status ≠ 0 ∧ kn.failed = false then (status, addr) else (kn.status, kn.addr)) ∧
    (kn.count = 0 → kn'.scope = kn.scope ∧ kn'.count = 0 ∧ kn'.underflow = true ∧
      (kn'.status, kn'.addr) =
        if status ≠ 0 ∧ kn.failed = false then (status, addr) else if kn.status = 0 then (13, 0) else (kn.status, kn.addr)) := by
  rw [Knot.step_eq]
  refine ⟨⟨rfl, rfl, rfl⟩, fun above => ?_, fun zero => ?_⟩
  · obtain ⟨one, old, new⟩ := Scope.le_max kn.scope scope
    simp only [above, if_false, false_and]
    refine ⟨one, old, new, trivial, trivial, ?_⟩
    split <;> rfl
  · simp only [zero, if_true, true_and]
    split
    · rfl
    · split <;> rfl

end

/-- R28, R53, R307: a decrement of a knot of a resident team. -/
theorem decrement_spec {s : State} {ti n : Nat} {t : Team} {kn : Knot} (scope : Scope) (status : Nat) (addr : DWord)
    (know : List (SpadBy × Nat)) (ht : s.teams[ti]? = some t) (hp : t.phase = .resident) (hn : t.knots[n]? = some kn) :
    let kn' := kn.step scope status addr know
    (kn.count ≠ 1 → s.decrement ti n scope status addr know = s.updTeam ti (Team.setKnot n kn')) ∧
      (kn.count = 1 → KnotReleased s (s.decrement ti n scope status addr know) ti n t kn') := by
  rw [decrement_resident scope status addr know ht hp hn]
  refine ⟨fun more => if_neg more, fun last => ?_⟩
  rw [if_pos last]
  exact knotReleased_setKnot _ ht hn

/-- R180: what KINIT does, by the count it sets. -/
theorem kinit_spec {s : State} {c : Cx} {n : BitVec 8} {x : SOp} {kn : Knot} (h : s.cx? = some c) (hc : c.check (.kinit n x) = .go)
    (hn : c.t.knots[n.toNat]? = some kn) :
    let kn' := kn.init (c.sop x)
    (c.sop x ≠ 0 → ∃ t u, exec (.kinit n x) s = .next u ∧ Passes (.next u) t c ∧
      t = { s with teams := t.teams } ∧ (∀ j, j ≠ c.g.team → t.teams[j]? = s.teams[j]?) ∧
      t.teams[c.g.team]? = some { c.t with knots := c.t.knots.set n.toNat kn' }) ∧
    (c.sop x = 0 → ∃ t, exec (.kinit n x) s = .next (t.retire c) ∧ KnotReleased s t c.g.team n.toNat c.t kn') := by
  intro kn'
  rw [exec_kinit h hc hn]
  refine ⟨fun some => ?_, fun zero => ?_⟩
  · rw [if_neg some]
    exact ⟨s.updTeam c.g.team (Team.setKnot n.toNat kn'), _, rfl, ⟨_, rfl, (retire_plain h).withTeams _⟩, rfl,
      fun j hj => updTeam_get_other _ _ _ _ hj, updTeam_get_same _ (cx?_team h)⟩
  · rw [if_pos zero]
    exact ⟨_, rfl, knotReleased_setKnot kn' (cx?_team h) hn⟩

/-- Settles O17: observations by the knot's count, KINIT and KQUERY, and a decrement by what the count was. -/
theorem knotResults : Obligations.KnotResults := by
  refine ⟨fun s c n kn h hn hg => ⟨fun zero clear => ⟨fun hc => ?_, fun off hc hr => ?_⟩, fun above => ⟨fun hc => ?_, fun off hc hr => ?_⟩,
    fun x hc => kinit_spec h hc hn, fun d hc hr => kquery_done h hc hn hr⟩,
    fun s ti n t kn scope status addr know ht hp hn => ?_⟩
  · rw [exec_waitk h hc, observeKnot_joins _ _ _ hn hg zero clear]
  · rw [exec_yieldk h hc hr, observeKnot_joins _ _ _ hn hg zero clear]
  · rw [exec_waitk h hc, observeKnot_waits _ _ _ hn hg above]
  · rw [exec_yieldk h hc hr, observeKnot_waits _ _ _ hn hg above]
  · obtain ⟨⟨tie, knew, failed⟩, above, zero⟩ := kn.step_spec scope status addr know
    obtain ⟨other, one⟩ := decrement_spec scope status addr know ht hp hn
    exact ⟨_, tie, knew, failed, other, one, above, zero⟩

end Sys2Proof.Machine
end

section
/-! PROOFS. What a commit may change: bytes, the history, what stands beyond the homes, and what its watches set off (R40, R252, R291, R370,
R421, R433). -/

namespace Sys2Proof.Machine

/-! ### Groups whose watches may have fired (R291, R292) -/

/-- A group some of whose watches may have fired: only its watches and its strands differ, and no strand where none sleeps in WAITW. -/
structure Fired (g g' : Group) : Prop where
  rest : g' = { g with ctl := g'.ctl, ctxs := g'.ctxs, watch := g'.watch }
  asleep : g.anyEntry (fun e => e.wait == .watch) = false → g'.ctl = g.ctl ∧ g'.ctxs = g.ctxs

theorem Fired.refl (g : Group) : Fired g g := ⟨rfl, fun _ => ⟨rfl, rfl⟩⟩

theorem Group.anyEntry_congr {g g' : Group} (f : Entry → Bool) (h : g'.ctl = g.ctl ∧ g'.ctxs = g.ctxs) : g'.anyEntry f = g.anyEntry f := by
  rw [Group.anyEntry, Group.anyEntry, h.1, h.2]

theorem Fired.trans {a b c : Group} (h : Fired a b) (k : Fired b c) : Fired a c := by
  refine ⟨?_, fun awake => ?_⟩
  · have e := k.rest
    rw [h.rest] at e
    exact e
  · obtain ⟨ctl, ctxs⟩ := h.asleep awake
    obtain ⟨ctl', ctxs'⟩ := k.asleep (by rw [Group.anyEntry_congr _ ⟨ctl, ctxs⟩, awake])
    exact ⟨ctl'.trans ctl, ctxs'.trans ctxs⟩

theorem Entry.rouse_awake {e : Entry} (h : (e.wait == .watch) = false) : e.rouse = e := by
  simp only [Entry.rouse, h]
  rfl

/-- Where no strand of a table sleeps in WAITW, none is roused. -/
theorem Control.rouse_awake {c : Control} (h : c.entries.any (fun x => x.any fun e => e.wait == .watch) = false) :
    { c with entries := c.entries.map fun x => x.map Entry.rouse } = c := by
  rw [Vector.any_eq_false] at h
  have same : c.entries.map (fun x => x.map Entry.rouse) = c.entries := by
    ext i hi : 1
    rw [Vector.getElem_map]
    have awake := h i hi
    cases hx : c.entries[i] with
    | none => rfl
    | some e =>
      rw [hx] at awake
      exact congrArg some (Entry.rouse_awake (Bool.eq_false_iff.mpr awake))
  rw [same]

theorem Group.rouse_awake {g : Group} (h : g.anyEntry (fun e => e.wait == .watch) = false) : g.mapEntries Entry.rouse = g := by
  rw [Group.anyEntry, Bool.or_eq_false_iff, List.any_eq_false] at h
  obtain ⟨own, frozen⟩ := h
  have ctxs : g.ctxs.map (fun x => { x with ctl := { x.ctl with entries := x.ctl.entries.map fun e => e.map Entry.rouse } }) = g.ctxs := by
    refine (List.map_congr_left fun x hx => ?_).trans (List.map_id _)
    rw [Control.rouse_awake (Bool.eq_false_iff.mpr (frozen x hx))]
    rfl
  simp only [Group.mapEntries, Control.rouse_awake own, ctxs]

theorem Group.fire_fired (line : Nat) (g : Group) : Fired g (Group.fire line g) := by
  unfold Group.fire
  split
  · refine ⟨rfl, fun awake => ?_⟩
    rw [Group.rouse_awake awake]
    exact ⟨rfl, rfl⟩
  · exact .refl g

/-! ### What a commit may change -/

/-- Between two states only what commits change may differ: the bytes at the homes and beyond them, the history, the poisoned and broken granules,
the place of the scope order, the groups whose watches fired, and the dependences of grids. -/
structure CommitOnly (s t : State) : Prop where
  length : t.groups.length = s.groups.length
  groups : ∀ (gi : Nat) (g : Group), s.groups[gi]? = some g → ∃ g', t.groups[gi]? = some g' ∧ Fired g g'
  grids : ∀ (n : Nat) (g : Grid), s.grids[n]? = some g → ∃ g', t.grids[n]? = some g' ∧ g' = { g with deps := g'.deps }
  hist : s.hist <:+ t.hist
  rest : t =
    { s with mem := t.mem, homes := t.homes, poison := t.poison, broken := t.broken, hist := t.hist, seq := t.seq, groups := t.groups,
             grids := t.grids }

theorem CommitOnly.refl (s : State) : CommitOnly s s := ⟨rfl, fun _ g h => ⟨g, h, .refl g⟩, fun _ g h => ⟨g, h, rfl⟩, List.suffix_rfl, rfl⟩

theorem CommitOnly.trans {a b c : State} (h : CommitOnly a b) (k : CommitOnly b c) : CommitOnly a c := by
  refine ⟨k.length.trans h.length, fun gi g hg => ?_, fun n g hg => ?_, h.hist.trans k.hist, ?_⟩
  · obtain ⟨g', hg', f⟩ := h.groups gi g hg
    obtain ⟨g'', hg'', f'⟩ := k.groups gi g' hg'
    exact ⟨g'', hg'', f.trans f'⟩
  · obtain ⟨g', hg', e⟩ := h.grids n g hg
    obtain ⟨g'', hg'', e'⟩ := k.grids n g' hg'
    exact ⟨g'', hg'', by rw [e] at e'; exact e'⟩
  · have e := k.rest
    rw [h.rest] at e
    exact e

/-- Changes of memory and of the places beside it are among those of a commit. -/
theorem CommitOnly.memory (s : State) (m : Mem) (h : Homes) (p b : List Nat) {cs : List Commit} (q : Nat) (kept : s.hist <:+ cs) :
    CommitOnly s { s with mem := m, homes := h, poison := p, broken := b, hist := cs, seq := q } :=
  ⟨rfl, fun _ g hg => ⟨g, hg, .refl g⟩, fun _ g hg => ⟨g, hg, rfl⟩, kept, rfl⟩

theorem CommitOnly.foldl {α : Type} {f : State → α → State} (hf : ∀ s a, CommitOnly s (f s a)) (l : List α) (s : State) :
    CommitOnly s (l.foldl f s) := by
  induction l generalizing s with
  | nil => exact .refl s
  | cons a l ih => exact (hf s a).trans (ih _)

/-- R291, R370: a write performed at a home fires watches, and dependences are read again. -/
theorem written_only (s : State) (gran : Nat) : CommitOnly s (s.written gran) := by
  refine ⟨?_, fun gi g hg => ?_, fun n g hg => ?_, List.suffix_rfl, rfl⟩
  · simp only [State.written]
    split
    · exact List.length_map _
    · rfl
  · simp only [State.written]
    split
    · exact ⟨_, by rw [List.getElem?_map, hg]; rfl, Group.fire_fired _ g⟩
    · exact ⟨g, hg, .refl g⟩
  · simp only [State.written]
    split
    · exact ⟨_, by rw [List.getElem?_map, hg]; rfl, rfl⟩
    · exact ⟨g, hg, rfl⟩

theorem CommitOnly.writtenIf {s t : State} (h : CommitOnly s t) (fires : Bool) (gran : Nat) :
    CommitOnly s (if fires then t.written gran else t) := by
  cases fires with
  | false => exact h
  | true => exact h.trans (written_only t gran)

section
variable (s : State) (k : CommitKind) (w : GranWrite)

theorem putHome_only : CommitOnly s (s.putHome k w) := .memory s _ _ _ _ _ (List.suffix_cons _ _)

theorem putThrough_only : CommitOnly s (s.putThrough k w) := ((putHome_only s k w).trans (.memory _ _ _ _ _ _ List.suffix_rfl)).writtenIf _ _

theorem putRaw_only : CommitOnly s (s.putRaw k w) := (CommitOnly.memory s _ _ _ _ _ List.suffix_rfl).writtenIf _ _

/-- R433: what a protected write makes of its sector. -/
theorem sealGran_only : CommitOnly s (s.sealGran k w) := by
  have opened : ∀ sec, CommitOnly s (s.reopen sec) := fun sec => by
    unfold State.reopen
    split
    · exact .memory s _ _ _ _ _ List.suffix_rfl
    · exact .refl s
  unfold State.sealGran
  split
  · exact .refl s
  · exact (opened _).trans (.memory _ _ _ _ _ _ List.suffix_rfl)

theorem trackGran_only (gran : Nat) : CommitOnly s (s.trackGran gran) := by
  refine CommitOnly.foldl (fun s p => ?_) _ s
  split
  · split
    · exact putThrough_only _ _ _
    · exact .refl s
  · exact .refl s

theorem trackAll_only (grans : List Nat) : CommitOnly s (s.trackAll grans) := by
  unfold State.trackAll
  split
  · exact CommitOnly.foldl trackGran_only _ s
  · exact .refl s

theorem fillLine_only (p : Part) (prot : Bool) (va line : Nat) (valid dirty : BitVec 4) :
    CommitOnly s (s.fillLine p prot va line valid dirty) :=
  (CommitOnly.memory s _ _ _ _ _ List.suffix_rfl).trans (trackAll_only _ _)

theorem putL2_only (p : Part) : CommitOnly s (s.putL2 k w p) := ((putHome_only s k w).trans (fillLine_only _ _ _ _ _ _ _)).writtenIf _ _

theorem placeGran_only : CommitOnly s (s.placeGran k w) := by
  unfold State.placeGran
  split
  · exact .memory s _ _ _ _ _ (List.suffix_cons _ _)
  · split
    · exact .refl s
    · split
      · exact putRaw_only s k w
      · refine (sealGran_only s k w).trans ?_
        split
        · split
          · exact putThrough_only _ k w
          · exact putL2_only _ k w _
        · exact putThrough_only _ k w

end

theorem placeGrans_only (k : CommitKind) (ws : List GranWrite) (s : State) : CommitOnly s (s.placeGrans k ws) := by
  induction ws generalizing s with
  | nil => exact .refl s
  | cons w ws ih => exact (placeGran_only s k w).trans (ih _)

/-- R40, R421: a commit. -/
theorem commit_only (s : State) (k : CommitKind) (ws : List GranWrite) : CommitOnly s (s.commit k ws) := by
  have placed := placeGrans_only k ws s
  simp only [State.commit]
  split
  · exact (placed.trans (trackAll_only _ _)).trans (.memory _ _ _ _ _ _ List.suffix_rfl)
  · exact placed.trans (.memory _ _ _ _ _ _ List.suffix_rfl)

end Sys2Proof.Machine
end

section
/-! PROOFS. Engine words and the sectors of their commands (R23, R25, R51, R52, R305, R306, R310, R321). -/

namespace Sys2Proof.Machine

/-! ### A group's commit, and the end of its word -/

/-- What a group keeps through a commit of its stores and the close of its region: the registers, the counts, and, where no strand sleeps in
WAITW, the strand table. -/
structure Committed (g g' : Group) : Prop where
  regs : g'.regs = g.regs
  ctrl : g'.ctrl = g.ctrl
  retire : g'.retire = g.retire
  awake : g.anyEntry (fun e => e.wait == .watch) = false → g'.ctl = g.ctl

theorem Committed.of_fired {g g' : Group} (h : Fired g g') : Committed g g' := by
  rw [h.rest]
  exact ⟨rfl, rfl, rfl, fun awake => (h.asleep awake).1⟩

theorem commitSome_committed {s : State} {gi : Nat} {g : Group} (sc : Scope) (pick : OwnStore → Bool) (h : s.groups[gi]? = some g) :
    ∃ g', (s.commitSome gi sc pick).groups[gi]? = some g' ∧ Committed g g' := by
  obtain ⟨g', hg', fired⟩ := (commit_only s
    { party := s.partyOf gi, scope := sc, atHome := sc.rank ≥ 2, atomic := false, sector := false, discard := false }
    (s.commitWrites gi g.stores fun o => OwnStore.carried sc o && pick o)).groups gi g h
  obtain ⟨regs, ctrl, retire, awake⟩ := Committed.of_fired fired
  simp only [State.commitSome, h]
  rw [updGroup_get_same, hg', Option.map_some]
  exact ⟨_, rfl, regs, ctrl, retire, awake⟩

theorem commitGroup_committed {s : State} {gi : Nat} {g : Group} (sc : Scope) (h : s.groups[gi]? = some g) :
    ∃ g', (s.commitGroup gi sc).groups[gi]? = some g' ∧ Committed g g' := by
  unfold State.commitGroup
  split
  · exact ⟨g, h, .of_fired (.refl g)⟩
  · exact commitSome_committed sc _ h

/-- What a commit of a group leaves outside the groups. -/
theorem commitGroup_rest (s : State) (gi : Nat) (sc : Scope) : ∃ u gs, CommitOnly s u ∧ s.commitGroup gi sc = { u with groups := gs } := by
  unfold State.commitGroup State.commitSome
  split
  · exact ⟨s, _, .refl s, rfl⟩
  · split
    · exact ⟨s, _, .refl s, rfl⟩
    · exact ⟨_, _, commit_only _ _ _, rfl⟩

theorem closeRegion_committed {s : State} {c : Cx} {g g' : Group} (h : s.groups[c.gi]? = some g') (kept : Committed g g') :
    ∃ g'', (s.closeRegion c).groups[c.gi]? = some g'' ∧ Committed g g'' := by
  rw [State.closeRegion, updGroup_get_same, h, Option.map_some]
  obtain ⟨regs, ctrl, retire, awake⟩ := kept
  refine ⟨_, rfl, ?_⟩
  unfold Group.autoRegion
  split
  · exact ⟨regs, ctrl, retire, awake⟩
  · exact ⟨regs, ctrl, retire, awake⟩

/-- R70, R80: what the end of a word leaves of the registers, and the strand table after it. -/
theorem retireWord_regs (k : Fin 8) (rep : Nat) (g : Group) : (Group.retireWord k rep g).regs.v = g.regs.v ∧
    (Group.retireWord k rep g).regs.s = g.regs.s ∧
    (Group.retireWord k rep g).ctl = ((g.ctl.put k ((g.ctl.get k).map (Entry.done rep))).settle settleFuel false).1 := by
  have fused : ∀ (b : Bool) (r : Regs), (if b then r.loseLatches else r).v = r.v ∧ (if b then r.loseLatches else r).s = r.s := by
    intro b r
    cases b <;> exact ⟨rfl, rfl⟩
  exact ⟨(fused _ _).1, (fused _ _).2, rfl⟩

/-- R80, R203: the group of a word that retires: its count, its registers but for latches, and its strand table. -/
theorem retire_group {s : State} {c : Cx} {g : Group} (h : s.groups[c.gi]? = some g) : ∃ g', (s.retire c).groups[c.gi]? = some g' ∧
    g'.retire = g.retire + 1 ∧ g'.regs.v = g.regs.v ∧ g'.regs.s = g.regs.s ∧ g'.ctrl = g.ctrl ∧
    g'.ctl = ((g.ctl.put c.k ((g.ctl.get c.k).map (Entry.done c.repeats))).settle settleFuel false).1 := by
  have retired : ((s.updGroup c.gi (Group.retireWord c.k c.repeats)).countRetired c.p.id).groups[c.gi]? =
      some (Group.retireWord c.k c.repeats g) := by
    simpa [h] using updGroup_get_same s c.gi (Group.retireWord c.k c.repeats)
  obtain ⟨v, scalars, ctl⟩ := retireWord_regs c.k c.repeats g
  rw [State.retire, State.yieldAfter, updGroup_get_same, retired, Option.map_some]
  split
  · exact ⟨_, rfl, by simp, v, scalars, by simp, ctl⟩
  · exact ⟨_, rfl, by simp, v, scalars, by simp, ctl⟩

/-! ### The fork of an engine command (R25, R51, R305, R306, R321) -/

/-- R24, R305: an engine word, whose checks pass, issues its command. -/
theorem exec_engineWord {s : State} {c : Cx} {i : Instr} {e : BitVec 5} {k : BitVec 8} {r : SReg} (h : s.cx? = some c) (hc : c.check i = .go)
    (hi : i ∈ [Instr.stair k r, .stairg k r, .hoist e k r, .braid e k r, .cmpr e k r, .dcmp e k r]) :
    exec i s = .next (s.issueEngine c i k r) := by
  have word : exec i s = issue i s fun c => s.issueEngine c i k r := by
    simp only [List.mem_cons, List.not_mem_nil, or_false] at hi
    rcases hi with rfl | rfl | rfl | rfl | rfl | rfl <;> rfl
  rw [word, issue_go i s _ c h hc]

/-- R306: the commands queued before stand before the new one in the order. -/
theorem le_orders (cmds : List Cmd) (a : Nat) : a ≤ cmds.foldl (fun n d => max n (d.order + 1)) a ∧
    ∀ d ∈ cmds, d.order < cmds.foldl (fun n d => max n (d.order + 1)) a := by
  induction cmds generalizing a with
  | nil => exact ⟨Nat.le_refl a, fun d hd => absurd hd List.not_mem_nil⟩
  | cons d cmds ih =>
    obtain ⟨above, orders⟩ := ih (max a (d.order + 1))
    rw [List.foldl_cons]
    refine ⟨by omega, fun x hx => ?_⟩
    rcases List.mem_cons.mp hx with rfl | hx
    · omega
    · exact orders x hx

/-- R25, R51: a fork before its command is queued: the group's stores are committed, and an open region that they carry is closed. -/
def State.forked (s : State) (c : Cx) (sc : Scope) : State :=
  if c.g.carriesRegion sc then (s.commitGroup c.gi sc).closeRegion c else s.commitGroup c.gi sc

theorem forked_group {s : State} {c : Cx} (sc : Scope) (h : s.cx? = some c) :
    ∃ g, (s.forked c sc).groups[c.gi]? = some g ∧ Committed c.g g := by
  obtain ⟨g, hg, kept⟩ := commitGroup_committed sc (cx?_group h)
  unfold State.forked
  split
  · exact closeRegion_committed hg kept
  · exact ⟨g, hg, kept⟩

theorem forked_rest (s : State) (c : Cx) (sc : Scope) : (s.forked c sc).mem = (s.commitGroup c.gi sc).mem ∧
    (s.forked c sc).hist = (s.commitGroup c.gi sc).hist ∧ (s.forked c sc).teams = s.teams ∧ (s.forked c sc).cmds = s.cmds := by
  have kept : (s.commitGroup c.gi sc).teams = s.teams ∧ (s.commitGroup c.gi sc).cmds = s.cmds := by
    obtain ⟨u, gs, only, eq⟩ := commitGroup_rest s c.gi sc
    rw [eq, only.rest]
    exact ⟨rfl, rfl⟩
  unfold State.forked
  split
  · simpa using kept
  · exact ⟨rfl, rfl, kept⟩

/-- R305, R306: the command that a fork queues. -/
def State.command (s : State) (c : Cx) (i : Instr) (k : BitVec 8) (r : SReg) : Cmd :=
  let begins := (s.forked c (c.engine i).scope).seq + 1
  { team := c.g.team, group := c.gi, part := c.p.id, engine := c.engine i, instr := i, knot := k.toNat, record := c.g.regs.spair r.val,
    ref := c.e.pc, hall := c.p.relHall c.t.hall, phase := .queued, pending := [], status := 0, addr := 0, beginSeq := begins,
    order := s.cmds.foldl (fun n d => max n (d.order + 1)) 0, matched := false, braid := none, data := none, remote := [],
    know := (.group c.gi, begins) :: c.g.know.map (fun k => (k.by_, k.upTo)), readSpad := false }

theorem fork_eq (s : State) (c : Cx) (i : Instr) (k : BitVec 8) (r : SReg) :
    let u := s.forked c (c.engine i).scope
    s.fork c i k r =
      ({ u with seq := u.seq + 1, cmds := u.cmds ++ [s.command c i k r] }.due (runEvent i u.cmds.length)).retire c := rfl

theorem issueEngine_full {s : State} {c : Cx} {i : Instr} (k : BitVec 8) (r : SReg) (h : (c.engine i).capacity ≤ s.queued (c.engine i)) :
    s.issueEngine c i k r = s.holdWord c .engineQueue := if_pos h

theorem issueEngine_room {s : State} {c : Cx} {i : Instr} (k : BitVec 8) (r : SReg) (h : s.queued (c.engine i) < (c.engine i).capacity) :
    s.issueEngine c i k r = s.fork c i k r := if_neg (by omega)

/-- R25, R51, R305, R306: the state after a fork. -/
theorem fork_spec {s : State} {c : Cx} (i : Instr) (k : BitVec 8) (r : SReg) (h : s.cx? = some c) :
    let t := s.fork c i k r
    let s1 := s.commitGroup c.gi (c.engine i).scope
    t.cmds = s.cmds ++ [s.command c i k r] ∧ runEvent i s.cmds.length ∈ t.events ∧ t.mem = s1.mem ∧ t.hist = s1.hist ∧ t.teams = s.teams ∧
      ∃ g, t.groups[c.gi]? = some g ∧ g.retire = c.g.retire + 1 ∧ g.regs.v = c.g.regs.v ∧ g.regs.s = c.g.regs.s ∧ g.ctrl = c.g.ctrl ∧
        (c.g.anyEntry (fun e => e.wait == .watch) = false → g.ctl = c.tableAfter.1) := by
  obtain ⟨mem, hist, teams, cmds⟩ := forked_rest s c (c.engine i).scope
  obtain ⟨g1, hg1, regs, ctrl, count, awake⟩ := forked_group (c.engine i).scope h
  obtain ⟨g, hg, retire, v, scalars, ctrl', ctl⟩ := retire_group (s := { s.forked c (c.engine i).scope with
    seq := (s.forked c (c.engine i).scope).seq + 1, cmds := (s.forked c (c.engine i).scope).cmds ++ [s.command c i k r] }.due
      (runEvent i (s.forked c (c.engine i).scope).cmds.length)) (by rw [State.due_groups]; exact hg1)
  rw [fork_eq]
  refine ⟨by simp [cmds], ?_, by simpa using mem, by simpa using hist, by simpa using teams, g, hg, ?_, ?_, ?_, ?_, fun calm => ?_⟩
  · rw [State.retire_events, cmds]
    exact mem_due _ _
  · rw [retire, count]
  · rw [v, regs]
  · rw [scalars, regs]
  · rw [ctrl', ctrl]
  · rw [ctl, awake calm, cx?_entry h]
    rfl

/-! ### Commits into plain memory (R40, R421, R432) -/

section
variable (h : Homes) (mem : Mem) (free : Nat)

theorem fillMsc_seals (line : Nat) (dirty : Bool) : (h.fillMsc free line dirty).seals = h.seals := by
  unfold Homes.fillMsc
  split
  · rfl
  · split <;> rfl

variable (none : h.seals = [])
include none

theorem putSector_seals (sec : Nat) (plain : List Byte) : (h.putSector sec plain).seals = [] := by
  unfold Homes.putSector
  split
  · simp [none]
  · exact none

theorem perform_seals (gran : Nat) : (h.perform mem free gran).seals = [] := by
  rw [Homes.perform, fillMsc_seals]
  split
  · exact putSector_seals h none _ _
  · exact none

theorem writeBack_seals (l : L2Line) : (h.writeBack mem free l).seals = [] := by
  unfold Homes.writeBack
  split
  · exact none
  · rw [fillMsc_seals]
    refine foldl_keeps (fun h : Homes => h.seals = []) _ (fun h i seals => ?_) _ _ none
    dsimp only
    split
    · exact putSector_seals h seals _ _
    · exact seals

theorem fill_seals (f : L2Fill) : (h.fill mem free f).1.seals = [] := by
  unfold Homes.fill
  split
  · exact writeBack_seals _ mem free (by exact none) _
  · exact none
  · dsimp only
    split
    · exact writeBack_seals _ mem free (by exact none) _
    · exact none
    · exact writeBack_seals _ mem free (by exact none) _

theorem through_seals (grans : List Nat) : (h.through mem free grans).seals = [] :=
  foldl_keeps (fun h : Homes => h.seals = []) _ (fun h g seals => perform_seals h mem free seals g) _ _ none

end

/-- R40: after a granule's commit into memory where none is tracked or protected: its bytes at their home, and one more commit; no seal appears
and the place stays. -/
structure PutPlain (s t : State) (k : CommitKind) (w : GranWrite) : Prop where
  mem : t.mem = s.mem.writeSome (16 * w.gran) w.bytes
  hist : t.hist = s.commitOf k w :: s.hist
  seq : t.seq = s.seq
  seals : t.homes.seals = []
  parts : t.parts = s.parts

section
variable {s : State} (plain : s.plainMemory) (k : CommitKind) (w : GranWrite)

theorem PutPlain.writtenIf {s t : State} {k : CommitKind} {w : GranWrite} (h : PutPlain s t k w) (fires : Bool) (gran : Nat) :
    PutPlain s (if fires then t.written gran else t) k w := by
  obtain ⟨mem, hist, seq, seals, parts⟩ := h
  cases fires with
  | false => exact ⟨mem, hist, seq, seals, parts⟩
  | true => exact ⟨mem, hist, seq, seals, parts⟩

include plain

theorem plain_tracks : s.tracks = false := by
  rw [State.tracks, List.any_eq_false]
  intro p hp
  rw [(plain.1 p hp).1]
  exact Bool.false_ne_true

theorem plain_protects (own : Option Nat) (shr : Bool) (gran : Nat) : s.protects own shr gran = false := by
  cases hp : own.bind s.part? with
  | none => rw [State.protects, hp]; rfl
  | some p =>
    obtain ⟨id, -, found⟩ := Option.bind_eq_some_iff.mp hp
    rw [State.protects, hp, Option.any_some, (plain.1 p (List.mem_of_find?_eq_some found)).2]
    rfl

theorem plain_sealer (own : Option Nat) (shr : Bool) (gran : Nat) : s.sealer own shr gran = none := by
  rw [State.sealer, plain_protects plain]
  rfl

theorem putThrough_plain : PutPlain s (s.putThrough k w) k w :=
  have put : PutPlain s { s.putHome k w with homes := (s.putHome k w).homes.through (s.putHome k w).mem s.dice [w.gran] } k w :=
    ⟨rfl, rfl, rfl, through_seals _ _ _ plain.2 _, rfl⟩
  put.writtenIf k.fires w.gran

theorem putL2_plain (p : Part) : PutPlain s (s.putL2 k w p) k w := by
  have untracked : ∀ (u : State) (grans : List Nat), u.parts = s.parts → u.trackAll grans = u := fun u grans hu => by
    rw [State.trackAll, State.tracks, hu, ← State.tracks, plain_tracks plain]
    rfl
  refine PutPlain.writtenIf ?_ k.fires w.gran
  rw [State.fillLine, untracked]
  · exact ⟨rfl, rfl, rfl, fill_seals _ _ _ plain.2 _, rfl⟩
  · rfl

/-- R40: a commit of a granule that is performed at its home. -/
theorem placeGran_plain (home : k.atHome = true) : PutPlain s (s.placeGran k w) k w := by
  have raw : s.isRaw k w = false := by simp [State.isRaw, Homes.seal?, plain.2]
  have unsealed : s.sealGran k w = s := by simp only [State.sealGran, plain_sealer plain]
  have keyed : s.keyless k.own w.shr w.gran = false := by simp [State.keyless, plain_protects plain]
  unfold State.placeGran
  simp only [home, raw, keyed, unsealed, Bool.not_true, Bool.false_eq_true, if_false]
  split
  · split
    · exact putThrough_plain plain k w
    · exact putL2_plain plain k w _
  · exact putThrough_plain plain k w

end

theorem PutPlain.plainMemory {s t : State} {k : CommitKind} {w : GranWrite} (h : PutPlain s t k w) (plain : s.plainMemory) : t.plainMemory :=
  ⟨by rw [h.parts]; exact plain.1, h.seals⟩

/-- R40: what a commit writes of some granules. -/
theorem placeGrans_plain {s : State} (plain : s.plainMemory) {k : CommitKind} (home : k.atHome = true) (ws : List GranWrite) :
    let t := s.placeGrans k ws
    t.plainMemory ∧ t.seq = s.seq ∧ t.mem = ws.foldl (fun m w => m.writeSome (16 * w.gran) w.bytes) s.mem ∧
      ∃ new, t.hist = new ++ s.hist ∧ ∀ c ∈ new, c.scope = k.scope ∧ c.sector = k.sector ∧ c.seq = s.seq := by
  induction ws generalizing s with
  | nil => exact ⟨plain, rfl, rfl, [], rfl, fun c hc => absurd hc List.not_mem_nil⟩
  | cons w ws ih =>
    have put := placeGran_plain plain k w home
    obtain ⟨plain', seq, mem, new, hist, kinds⟩ := ih (put.plainMemory plain)
    refine ⟨plain', seq.trans put.seq, ?_, new ++ [s.commitOf k w], ?_, fun c hc => ?_⟩
    · rw [List.foldl_cons, ← put.mem]
      exact mem
    · rw [List.append_assoc, List.singleton_append, ← put.hist]
      exact hist
    · rcases List.mem_append.mp hc with hc | hc
      · obtain ⟨scope, sector, place⟩ := kinds c hc
        exact ⟨scope, sector, place.trans put.seq⟩
      · rw [List.mem_singleton.mp hc]
        exact ⟨rfl, rfl, rfl⟩

/-- R40: a commit into memory where none is tracked or protected. -/
theorem commit_plain {s : State} (plain : s.plainMemory) {k : CommitKind} (home : k.atHome = true) (ws : List GranWrite) :
    (s.commit k ws).mem = ws.foldl (fun m w => m.writeSome (16 * w.gran) w.bytes) s.mem ∧
      ∃ new, (s.commit k ws).hist = new ++ s.hist ∧ ∀ c ∈ new, c.scope = k.scope ∧ c.sector = k.sector ∧ c.seq = s.seq := by
  obtain ⟨plain', -, written⟩ := placeGrans_plain plain home ws
  simp only [State.commit, home, if_true, State.trackAll, plain_tracks plain', Bool.false_eq_true, if_false]
  exact written

/-! ### The sectors of a command (R51, R52, R310) -/

theorem Mem.writeSome_none {bs : List (Option Byte)} (h : bs.any Option.isSome = false) (m : Mem) (a : Nat) : m.writeSome a bs = m := by
  induction bs generalizing a with
  | nil => rfl
  | cons b bs ih =>
    rw [List.any_cons, Bool.or_eq_false_iff] at h
    cases b with
    | none => exact ih h.2 _
    | some b => exact absurd h.1 (by simp)

theorem Mem.writeSome_append (xs ys : List (Option Byte)) (m : Mem) (a : Nat) :
    m.writeSome a (xs ++ ys) = (m.writeSome a xs).writeSome (a + xs.length) ys := by
  induction xs generalizing m a with
  | nil => rfl
  | cons x xs ih =>
    have next : a + 1 + xs.length = a + (x :: xs).length := by rw [List.length_cons]; omega
    cases x with
    | none => rw [List.cons_append, Mem.writeSome, Mem.writeSome, ih, next]
    | some b => rw [List.cons_append, Mem.writeSome, Mem.writeSome, ih, next]

/-- R41: the bytes that are present are written, and every other byte stays. -/
theorem Mem.read_writeSome (bs : List (Option Byte)) (m : Mem) (a b : Nat) (h : m.wf = true) :
    (m.writeSome a bs).read b = if a ≤ b then (bs.getD (b - a) none).getD (m.read b) else m.read b := by
  induction bs generalizing m a with
  | nil => simp [Mem.writeSome]
  | cons x bs ih =>
    have later : a < b → (x :: bs).getD (b - a) none = bs.getD (b - (a + 1)) none := fun hab => by
      obtain ⟨n, rfl⟩ := Nat.exists_eq_add_of_lt hab
      simp [show a + n + 1 - a = n + 1 by omega, show a + n + 1 - (a + 1) = n by omega]
    rcases Nat.lt_trichotomy b a with hb | rfl | hb
    · cases x with
      | none => simp [Mem.writeSome, ih m (a + 1) h, show ¬ a ≤ b by omega, show ¬ a + 1 ≤ b by omega]
      | some v =>
        simp [Mem.writeSome, ih _ (a + 1) (Mem.write_wf m a v h), Mem.read_write m a b v h, show ¬ a ≤ b by omega, show ¬ a + 1 ≤ b by omega,
          show b ≠ a by omega]
    · cases x with
      | none => simp [Mem.writeSome, ih m (b + 1) h]
      | some v => simp [Mem.writeSome, ih _ (b + 1) (Mem.write_wf m b v h), Mem.read_write m b b v h]
    · rw [later hb]
      cases x with
      | none => simp [Mem.writeSome, ih m (a + 1) h, show a ≤ b by omega, show a + 1 ≤ b by omega]
      | some v =>
        simp [Mem.writeSome, ih _ (a + 1) (Mem.write_wf m a v h), Mem.read_write m a b v h, show a ≤ b by omega, show a + 1 ≤ b by omega,
          show b ≠ a by omega]

/-- What the granules of a write put into memory. -/
def putGrans (ws : List GranWrite) (m : Mem) : Mem := ws.foldl (fun m w => m.writeSome (16 * w.gran) w.bytes) m

/-- One granule of a sector write, where it has bytes. -/
def SectorWrite.half (w : SectorWrite) (n : Nat) (bs : List (Option Byte)) : List GranWrite :=
  if bs.any Option.isSome then [{ gran := granOf w.addr + n, bytes := bs, va := w.va, shr := w.shr }] else []

theorem SectorWrite.grans_eq (w : SectorWrite) :
    writesAt w.va w.shr w.grans = w.half 0 (w.bytes.take 16) ++ w.half 1 ((w.bytes.drop 16).take 16) := by
  unfold writesAt SectorWrite.grans SectorWrite.half
  simp only [List.filterMap, Nat.mul_zero, Nat.mul_one, List.drop_zero]
  cases (w.bytes.take 16).any Option.isSome <;> cases ((w.bytes.drop 16).take 16).any Option.isSome <;> rfl

theorem putGrans_half {w : SectorWrite} (aligned : w.addr % 32 = 0) (n : Nat) (bs : List (Option Byte)) (m : Mem) :
    putGrans (w.half n bs) m = m.writeSome (w.addr + 16 * n) bs := by
  have place : 16 * (granOf w.addr + n) = w.addr + 16 * n := by
    unfold granOf
    omega
  unfold SectorWrite.half
  split
  · rw [putGrans, List.foldl_cons, List.foldl_nil, place]
  · next empty => exact (Mem.writeSome_none (Bool.eq_false_iff.mpr empty) _ _).symm

/-- R52: the granules of an aligned sector put its bytes at its address. -/
theorem putGrans_sector {w : SectorWrite} (len : w.bytes.length = 32) (aligned : w.addr % 32 = 0) (m : Mem) :
    putGrans (writesAt w.va w.shr w.grans) m = m.writeSome w.addr w.bytes := by
  have high : (w.bytes.drop 16).take 16 = w.bytes.drop 16 := List.take_of_length_le (by simp [len])
  have both : ∀ xs ys, putGrans (xs ++ ys) m = putGrans ys (putGrans xs m) := fun xs ys => List.foldl_append
  rw [w.grans_eq, both, putGrans_half aligned, putGrans_half aligned, high]
  conv_rhs => rw [← List.take_append_drop 16 w.bytes, Mem.writeSome_append]
  simp [len]

theorem writeSector_cmds (s : State) (j : Job) (w : SectorWrite) : (s.writeSector j w).cmds = s.cmds := by
  unfold State.writeSector
  split
  · rw [(commit_only _ _ _).rest]
  · rfl
  · rfl

/-- R50, R330: a sector of scratchpad or of tiles is no write to memory. -/
theorem writeSector_local (s : State) (j : Job) {w : SectorWrite} (h : w.space ≠ 0) :
    (s.writeSector j w).mem = s.mem ∧ (s.writeSector j w).hist = s.hist := by
  unfold State.writeSector
  split
  · contradiction
  · exact ⟨rfl, rfl⟩
  · exact ⟨rfl, rfl⟩

/-- R51, R52: a sector of a command is performed at its home, at the engine's scope, as a whole. -/
def Job.sectorKind (j : Job) : CommitKind :=
  { party := j.party, scope := j.c.engine.scope, atHome := true, atomic := false, sector := true, discard := false, own := some j.p.id }

/-- R51, R52: a sector in global memory is a commit of its bytes and no other. -/
theorem writeSector_global {s : State} (j : Job) {w : SectorWrite} (plain : s.plainMemory) (wf : s.mem.wf = true) (h : w.space = 0)
    (len : w.bytes.length = 32) (aligned : w.addr % 32 = 0) :
    (∃ new, (s.writeSector j w).hist = new ++ s.hist ∧ ∀ k ∈ new, k.scope = j.c.engine.scope ∧ k.sector = true ∧ k.seq = s.seq) ∧
      ∀ a, (s.writeSector j w).mem.read a =
        if w.addr ≤ a ∧ a < w.addr + 32 then ((w.bytes.getD (a - w.addr) none).getD (s.mem.read a)) else s.mem.read a := by
  obtain ⟨mem, hist⟩ := commit_plain (k := j.sectorKind) plain rfl (writesAt w.va w.shr w.grans)
  have write : s.writeSector j w = s.commit j.sectorKind (writesAt w.va w.shr w.grans) := by
    simp only [State.writeSector, h]
    rfl
  rw [write]
  refine ⟨hist, fun a => ?_⟩
  have put := putGrans_sector len aligned s.mem
  rw [mem, ← putGrans, put, Mem.read_writeSome _ _ _ _ wf]
  rcases Nat.lt_or_ge a w.addr with below | above
  · rw [if_neg (by omega), if_neg (by omega)]
  · rw [if_pos above]
    rcases Nat.lt_or_ge a (w.addr + 32) with inside | outside
    · rw [if_pos ⟨above, inside⟩]
    · rw [if_neg (by omega), List.getD_eq_default _ _ (by omega)]
      rfl

/-- The sector that the device takes next. -/
def Job.nextSector (j : Job) (free : Nat) (w0 : SectorWrite) (rest : List SectorWrite) : SectorWrite :=
  j.c.pending.getD (Config.freePick free j.ci % (rest.length + 1)) w0

theorem nextSector_mem {j : Job} {w0 : SectorWrite} {rest : List SectorWrite} (h : j.c.pending = w0 :: rest) (free : Nat) :
    j.nextSector free w0 rest ∈ j.c.pending := by
  have inside : Config.freePick free j.ci % (rest.length + 1) < j.c.pending.length := by
    rw [h, List.length_cons]
    exact Nat.mod_lt _ (Nat.succ_pos _)
  rw [Job.nextSector, List.getD_eq_getElem _ _ inside]
  exact List.getElem_mem inside

theorem job?_spec {s : State} {ci : Nat} {j : Job} (h : s.job? ci = some j) : j.ci = ci ∧ s.cmds[ci]? = some j.c := by
  unfold State.job? at h
  split at h
  · cases h
  · next c hc =>
    split at h
    · cases h
      exact ⟨rfl, hc⟩
    · cases h

/-- R51: one sector of a command is performed, and the command is told. -/
theorem exec_sectorCommit {s : State} {ci : Nat} {j : Job} (h : s.job? ci = some j) (some_ : j.c.pending ≠ []) :
    ∃ w ∈ j.c.pending, exec (.engineSectorCommit ci) s =
      .next (let left := j.c.pending.erase w
        let s1 := ((s.writeSector j w).setCmd j fun c => { c with pending := left }).spend
        if left.isEmpty then s1.engDone j else s1.due (.engineSectorCommit ci)) := by
  obtain ⟨w0, rest, hp⟩ := List.exists_cons_of_ne_nil some_
  obtain ⟨rfl, -⟩ := job?_spec h
  refine ⟨_, nextSector_mem hp s.free, ?_⟩
  have run : exec (.engineSectorCommit j.ci) s = execEngineSectorCommit j.ci s := rfl
  rw [run, execEngineSectorCommit]
  simp only [h, hp, Job.nextSector]

theorem setCmd_get {u : State} {j : Job} {c : Cmd} (f : Cmd → Cmd) (h : u.cmds[j.ci]? = some c) : (u.setCmd j f).cmds[j.ci]? = some (f c) := by
  rw [State.setCmd, State.updCmd_cmds, listModify_get_same, h, Option.map_some]

/-- R307: a command with a sector less: it has its knot to decrement, or another sector to write. -/
theorem sector_left (u : State) {j : Job} {c : Cmd} (left : List SectorWrite) (h : u.cmds[j.ci]? = some c) :
    let s1 := (u.setCmd j fun c => { c with pending := left }).spend
    let t := if left.isEmpty then s1.engDone j else s1.due (.engineSectorCommit j.ci)
    t.mem = u.mem ∧ t.hist = u.hist ∧ t.teams = u.teams ∧ ∃ c', t.cmds[j.ci]? = some c' ∧ c'.pending = left ∧
      (left = [] → c'.phase = .decrement ∧ .knotDecrement j.ci ∈ t.events) ∧ (left ≠ [] → .engineSectorCommit j.ci ∈ t.events) := by
  intro s1 t
  have marked : s1.cmds[j.ci]? = some { c with pending := left } := setCmd_get (fun c => { c with pending := left }) h
  cases left with
  | nil =>
    have done : t.cmds = (s1.setCmd j fun c => { c with phase := .decrement }).cmds := State.due_cmds _ _
    refine ⟨State.due_mem _ _, State.due_hist _ _, State.due_teams _ _, _, by rw [done]; exact setCmd_get _ marked, rfl,
      fun _ => ⟨rfl, mem_due _ _⟩, fun more => absurd rfl more⟩
  | cons w ws =>
    refine ⟨State.due_mem _ _, State.due_hist _ _, State.due_teams _ _, _, (congrArg (·[j.ci]?) (State.due_cmds _ _)).trans marked, rfl,
      fun none => absurd none (List.cons_ne_nil _ _), fun _ => mem_due _ _⟩

/-- R306, R321: what an engine word does, by the room in its engine's queue. -/
theorem engineWord_spec {s : State} {c : Cx} {i : Instr} {e : BitVec 5} {k : BitVec 8} {r : SReg} (h : s.cx? = some c) (hc : c.check i = .go)
    (hi : i ∈ [Instr.stair k r, .stairg k r, .hoist e k r, .braid e k r, .cmpr e k r, .dcmp e k r]) :
    let en := c.engine i
    (s.queued en < en.capacity → ∃ t g cmd, exec i s = .next t ∧ t.cmds = s.cmds ++ [cmd] ∧
      cmd.instr = i ∧ cmd.engine = en ∧ cmd.knot = k.toNat ∧ cmd.record = c.g.regs.spair r.val ∧ cmd.ref = c.e.pc ∧ cmd.phase = .queued ∧
      cmd.team = c.g.team ∧ cmd.part = c.p.id ∧ cmd.pending = [] ∧ cmd.status = 0 ∧ (∀ d ∈ s.cmds, d.order < cmd.order) ∧
      runEvent i s.cmds.length ∈ t.events ∧ t.mem = (s.commitGroup c.gi en.scope).mem ∧ t.hist = (s.commitGroup c.gi en.scope).hist ∧
      t.teams = s.teams ∧ t.groups[c.gi]? = some g ∧ g.retire = c.g.retire + 1 ∧ g.regs.v = c.g.regs.v ∧
      (c.g.anyEntry (fun e => e.wait == .watch) = false → g.ctl = c.tableAfter.1) ∧
      g.regs.s = c.g.regs.s ∧ g.ctrl = c.g.ctrl) ∧
    (en.capacity ≤ s.queued en → exec i s = .next (s.holdWord c .engineQueue)) := by
  intro en
  rw [exec_engineWord h hc hi]
  refine ⟨fun room => ?_, fun full => by rw [issueEngine_full k r full]⟩
  rw [issueEngine_room k r room]
  obtain ⟨cmds, due, mem, hist, teams, g, hg, retire, v, scalars, ctrl, awake⟩ := fork_spec i k r h
  exact ⟨_, g, s.command c i k r, rfl, cmds, rfl, rfl, rfl, rfl, rfl, rfl, rfl, rfl, rfl, rfl, (le_orders s.cmds 0).2, due, mem, hist, teams, hg,
    retire, v, awake, scalars, ctrl⟩

/-- Settles O34: an engine word by the room in its queue, and the commit of one sector by its space. -/
theorem engineWordResults : Obligations.EngineWordResults := by
  refine ⟨fun s c i e k r h hc hi => ?_, fun s ci j hj some_ plain wf sound => ?_⟩
  · intro en room scope
    have capacity : room = en.capacity := by cases he : en <;> simp only [room, he] <;> rfl
    have width : scope = en.scope := by cases he : en <;> simp only [scope, he] <;> rfl
    rw [capacity, width]
    refine ⟨?_, engineWord_spec h hc hi⟩
    rintro (rfl | rfl) <;> rfl
  · obtain ⟨w, hw, run⟩ := exec_sectorCommit hj some_
    obtain ⟨rfl, hcmd⟩ := job?_spec hj
    obtain ⟨mem, hist, teams, c, hc, left, last, more⟩ :=
      sector_left (s.writeSector j w) (j.c.pending.erase w) (by rw [writeSector_cmds]; exact hcmd)
    obtain ⟨len, aligned⟩ := sound w hw
    refine ⟨_, w, c, run, hw, hc, left, fun none => last (left ▸ none), fun some => more (left ▸ some), fun local_ => ?_, fun global_ => ?_,
      fun _ => teams⟩
    · rw [mem, hist]
      exact writeSector_local s j local_
    · rw [mem, hist]
      exact writeSector_global j plain wf global_ len aligned

end Sys2Proof.Machine
end

section
/-! PROOFS. The events of the scheduler: overdue strands, the lost-locality detector, bandwidth epochs, and which team is admitted next (R375,
R377 to R379, R382, R415). -/

namespace Sys2Proof.Machine

/-! ### Overdue strands (R378) -/

/-- R378: a strand that waits for nothing, or whose sleep in WAITW has ended, is ready. -/
theorem isReady_iff (g : Group) (e : Entry) : e.isReady g = true ↔
    e.kind = .strand ∧ (e.wait = .ready ∨ e.wait = .watch ∧ (g.ctrl.preq = true ∨ ∃ w ∈ g.watch, w.fired = true)) := by
  simp [Entry.isReady, Group.wakes]

theorem strandOverdue_spec {s : State} {gi k : Nat} {g : Group} {e : Entry} (hg : s.groups[gi]? = some g) (run : s.canRun g = true)
    (he : g.ctl.get (Fin.ofNat 8 k) = some e) (fresh : e.overdue = none) (ready : e.isReady g = true) :
    ∃ (t : State) (g' : Group), exec (.strandOverdue gi k) s = .next t ∧ t = { s with groups := t.groups } ∧ t.groups[gi]? = some g' ∧
      g'.ctl.get (Fin.ofNat 8 k) = some { e with overdue := some s.nextOverdue } ∧ g' = { g with ctl := g'.ctl } := by
  have late : Entry.late g s.nextOverdue e = { e with overdue := some s.nextOverdue } := by simp [Entry.late, fresh, ready]
  have go : exec (.strandOverdue gi k) s =
      .next (s.updGroup gi fun x => Group.setEntry (Fin.ofNat 8 k) (Entry.late x s.nextOverdue) x) := by
    have step : exec (.strandOverdue gi k) s = execStrandOverdue gi k s := rfl
    rw [step, execStrandOverdue, hg, Option.any_some, if_pos run]
  refine ⟨_, _, go, rfl, by rw [updGroup_get_same, hg, Option.map_some], ?_, rfl⟩
  rw [Group.setEntry, Control.put_get, he, Option.map_some, late]

/-! ### Windows of the lost-locality detector (R379) -/

theorem updHall_get_same {s : State} {h : Nat} {x : Hall} (f : Hall → Hall) (hx : s.halls[h]? = some x) :
    (s.updHall h f).halls[h]? = some (f x) := by
  rw [State.updHall_halls, listModify_get_same, hx, Option.map_some]

theorem lldWindowEnd_spec {s : State} {h : Nat} {x : Hall} (hits : Nat) (hx : s.halls[h]? = some x) :
    ∃ t : State, exec (.lldWindowEnd h hits) s = .next t ∧ t = { s with halls := t.halls } ∧
      (let found := max (min x.lostWas x.lost) (min hits x.lost)
       t.halls[h]? = some { x with allowed := if s.lldThresh h < found then max 4 (x.allowed - 1) else min 64 (x.allowed + 1)
                                   lost := x.lost - found, lostWas := 0 }) ∧
      ∀ j, j ≠ h → t.halls[j]? = s.halls[j]? :=
  ⟨_, rfl, rfl, updHall_get_same _ hx, fun _ hj => listModify_get_other _ _ _ _ hj⟩

/-! ### Bandwidth epochs (R415) -/

/-- A limit as a fraction. -/
def Limit.ratio (x : Limit) : Rat := (x.num : Rat) / x.den

/-- R415: a limit kept from 1/64 to 1 line per cycle. -/
theorem clamp_ratio {x : Limit} (pos : 0 < x.den) : x.clamp.ratio = max (1 / 64) (min 1 x.ratio) := by
  have posR : (0 : Rat) < x.den := by exact_mod_cast pos
  unfold Limit.clamp
  split
  · next high =>
    have one : 1 ≤ x.ratio := by
      rw [Limit.ratio, le_div_iff₀ posR]
      exact_mod_cast (by omega : 1 * x.den ≤ x.num)
    rw [min_eq_left one]
    norm_num [Limit.ratio]
  · next high =>
    have below : x.ratio ≤ 1 := by
      rw [Limit.ratio, div_le_iff₀ posR]
      exact_mod_cast (by omega : x.num ≤ 1 * x.den)
    rw [min_eq_right below]
    split
    · next low =>
      have least : x.ratio ≤ 1 / 64 := by
        rw [Limit.ratio, div_le_div_iff₀ posR (by norm_num)]
        exact_mod_cast (by omega : x.num * 64 ≤ 1 * x.den)
      rw [max_eq_left least]
      norm_num [Limit.ratio]
    · next low =>
      have above : 1 / 64 ≤ x.ratio := by
        rw [Limit.ratio, div_le_div_iff₀ (by norm_num) posR]
        exact_mod_cast (by omega : 1 * x.den ≤ x.num * 64)
      rw [max_eq_right above]
      have g : 0 < Nat.gcd x.num x.den := Nat.gcd_pos_of_pos_right _ pos
      simp only [Limit.ratio]
      rw [Nat.cast_div (Nat.gcd_dvd_left _ _) (by positivity), Nat.cast_div (Nat.gcd_dvd_right _ _) (by positivity)]
      field_simp

/-- R415: what an epoch makes of a limit from above 0 to 1. -/
theorem next_ratio {x : Limit} (busy : Bool) (num : 0 < x.num) (den : x.num ≤ x.den) :
    (x.next busy).ratio = if busy then max (1 / 64) (x.ratio / 2) else min 1 (x.ratio + 1 / 64) := by
  have pos : 0 < x.den := by omega
  have posR : (0 : Rat) < x.den := by exact_mod_cast pos
  have numR : (0 : Rat) < x.num := by exact_mod_cast num
  cases busy with
  | true =>
    have half : ({ x with den := 2 * x.den } : Limit).ratio = x.ratio / 2 := by
      simp only [Limit.ratio, Nat.cast_mul, Nat.cast_ofNat]
      field_simp
    have below : x.ratio / 2 ≤ 1 := by
      have : x.ratio ≤ 1 := by
        rw [Limit.ratio, div_le_one posR]
        exact_mod_cast den
      linarith
    simp only [Limit.next, if_true]
    rw [clamp_ratio (by simpa using pos), half, min_eq_right below]
  | false =>
    have more : ({ x with num := 64 * x.num + x.den, den := 64 * x.den } : Limit).ratio = x.ratio + 1 / 64 := by
      simp only [Limit.ratio, Nat.cast_mul, Nat.cast_ofNat, Nat.cast_add]
      field_simp
    have ratio : 0 < x.ratio := div_pos numR posR
    simp only [Limit.next, Bool.false_eq_true, if_false]
    rw [clamp_ratio (by simpa using pos), more, max_eq_right]
    exact le_min (by norm_num) (by linarith)

theorem next_ratio_pos {x : Limit} (busy : Bool) (num : 0 < x.num) (den : x.num ≤ x.den) : 0 < (x.next busy).ratio := by
  have pos : 0 < x.ratio := div_pos (by exact_mod_cast num) (by exact_mod_cast (by omega : 0 < x.den))
  rw [next_ratio busy num den]
  split
  · exact lt_max_of_lt_left (by norm_num)
  · exact lt_min one_pos (by linarith)

/-- A limit of a partition at a stack names them. -/
theorem limit_names (h : Hall) (pid stack : Nat) : (h.limit pid stack).part = pid ∧ (h.limit pid stack).stack = stack := by
  unfold Hall.limit
  cases hx : h.limits.find? fun x => x.part == pid && x.stack == stack with
  | none => exact ⟨rfl, rfl⟩
  | some x => simpa using List.find?_some hx

theorem next_names (x : Limit) (busy : Bool) : (x.next busy).part = x.part ∧ (x.next busy).stack = x.stack := by
  have clamp : ∀ y : Limit, y.clamp.part = y.part ∧ y.clamp.stack = y.stack := fun y => by
    unfold Limit.clamp
    split
    · exact ⟨rfl, rfl⟩
    · split <;> exact ⟨rfl, rfl⟩
  cases busy with
  | true => exact clamp _
  | false => exact clamp _

theorem mem_nub (x : Nat) (l : List Nat) : x ∈ nub l ↔ x ∈ l := by
  induction l with
  | nil => rfl
  | cons y ys ih =>
    rw [nub, List.mem_cons, List.mem_cons, List.mem_filter, ih]
    by_cases h : x = y <;> simp [h]

/-- R415: the limit of a partition that has teams on the hall, after an epoch. -/
theorem epoch_limit {h : Hall} {over_ : Nat → Nat → Bool} {pids : List Nat} {pid k : Nat} (hp : pid ∈ pids) (hk : k < 12)
    (num : 0 < (h.limit pid k).num) (den : (h.limit pid k).num ≤ (h.limit pid k).den) :
    ((h.epoch over_ pids).limit pid k).ratio = ((h.limit pid k).next (over_ pid k)).ratio := by
  have names := next_names (h.limit pid k) (over_ pid k)
  rw [(limit_names h pid k).1, (limit_names h pid k).2] at names
  have mem : (h.limit pid k).next (over_ pid k) ∈ pids.flatMap fun p => (List.range 12).map fun k => (h.limit p k).next (over_ p k) :=
    List.mem_flatMap.mpr ⟨pid, hp, List.mem_map.mpr ⟨k, List.mem_range.mpr hk, rfl⟩⟩
  rw [Hall.limit, Hall.epoch]
  dsimp only
  cases hx : List.find? (fun x : Limit => x.part == pid && x.stack == k)
      ((pids.flatMap fun p => (List.range 12).map fun k => (h.limit p k).next (over_ p k)).filter fun x => x.num != x.den) with
  | some x =>
    have found := List.find?_some hx
    simp only [Bool.and_eq_true, beq_iff_eq] at found
    obtain ⟨p, hp', hx'⟩ := List.mem_flatMap.mp (List.mem_filter.mp (List.mem_of_find?_eq_some hx)).1
    obtain ⟨k', -, rfl⟩ := List.mem_map.mp hx'
    have names' := next_names (h.limit p k') (over_ p k')
    rw [(limit_names h p k').1, (limit_names h p k').2, found.1, found.2] at names'
    rw [← names'.1, ← names'.2]
    rfl
  | none =>
    have full : ((h.limit pid k).next (over_ pid k)).num = ((h.limit pid k).next (over_ pid k)).den := by
      by_contra differs
      have absent := List.find?_eq_none.mp hx _ (List.mem_filter.mpr ⟨mem, by simpa using differs⟩)
      simp [names] at absent
    have pos := next_ratio_pos (over_ pid k) num den
    have some_ : (((h.limit pid k).next (over_ pid k)).den : Rat) ≠ 0 := fun zero => by
      rw [Limit.ratio, zero, div_zero] at pos
      exact lt_irrefl _ pos
    rw [Option.getD_none, Limit.ratio, Limit.ratio, full, div_self some_]
    norm_num

/-- R415: the limits of a hall after an epoch. -/
theorem bwEpoch_spec (s : State) : ∃ t : State, exec .bwEpoch s = .next t ∧ t = { s with halls := t.halls } ∧
    ∀ n x, s.halls[n]? = some x → ∃ y, t.halls[n]? = some y ∧ y = { x with limits := y.limits } ∧
      ∀ team ∈ s.teams, team.phase = .resident → team.hall = n → ∀ k, k < 12 →
        0 < (x.limit team.part k).num → (x.limit team.part k).num ≤ (x.limit team.part k).den →
        (y.limit team.part k).ratio = if (fieldAt s.inbox.bytes (2 * team.part) 2).testBit k then max (1 / 64) ((x.limit team.part k).ratio / 2)
          else min 1 ((x.limit team.part k).ratio + 1 / 64) := by
  refine ⟨_, rfl, rfl, fun n x hx => ⟨_, by simp [hx]; rfl, ?_, fun team mem phase hall k hk num den => ?_⟩⟩
  · split <;> rfl
  · have here : team.part ∈ nub ((s.teams.filter fun t => t.phase == .resident && t.hall == n).map Team.part) :=
      (mem_nub _ _).mpr (List.mem_map.mpr ⟨team, List.mem_filter.mpr ⟨mem, by simp [phase, hall]⟩, rfl⟩)
    rw [if_neg, epoch_limit here hk num den, next_ratio _ num den]
    intro empty
    rw [empty] at here
    exact absurd here List.not_mem_nil

/-! ### Which team is admitted next (R375, R377, R382) -/

/-- R377: a hall goes before another: it holds fewer teams, or as many and is lower. -/
def State.hallFirst (s : State) (h x : Nat) : Prop := s.teamCount h < s.teamCount x ∨ s.teamCount h = s.teamCount x ∧ h ≤ x

/-- R377: looking through halls in rising order, from the best of those before. -/
theorem pickFrom_spec (s : State) (b : Nat) (rest : List Nat) (asc : (b :: rest).Pairwise (· < ·)) :
    let r := rest.foldl (fun b x => if s.teamCount x < s.teamCount b then x else b) b
    r ∈ b :: rest ∧ ∀ x ∈ b :: rest, s.hallFirst r x := by
  induction rest generalizing b with
  | nil => exact ⟨List.mem_cons_self, fun x hx => .inr (by rw [List.mem_singleton.mp hx]; exact ⟨rfl, Nat.le_refl _⟩)⟩
  | cons x xs ih =>
    rw [List.pairwise_cons] at asc
    obtain ⟨above, asc'⟩ := asc
    rw [List.foldl_cons]
    by_cases fewer : s.teamCount x < s.teamCount b
    · rw [if_pos fewer]
      obtain ⟨mem, best⟩ := ih x asc'
      have first := best x List.mem_cons_self
      refine ⟨List.mem_cons_of_mem _ mem, fun y hy => ?_⟩
      rcases List.mem_cons.mp hy with rfl | hy
      · unfold State.hallFirst at first ⊢
        omega
      · exact best y hy
    · rw [if_neg fewer]
      obtain ⟨mem, best⟩ := ih b (List.pairwise_cons.mpr ⟨fun y hy => above y (List.mem_cons_of_mem _ hy), (List.pairwise_cons.mp asc').2⟩)
      have first := best b List.mem_cons_self
      have bx := above x List.mem_cons_self
      refine ⟨?_, fun y hy => ?_⟩
      · rcases List.mem_cons.mp mem with e | mem
        · rw [e]
          exact List.mem_cons_self
        · exact List.mem_cons_of_mem _ (List.mem_cons_of_mem _ mem)
      · rcases List.mem_cons.mp hy with rfl | hy
        · exact first
        · rcases List.mem_cons.mp hy with rfl | hy
          · unfold State.hallFirst at first ⊢
            omega
          · exact best y (List.mem_cons_of_mem _ hy)

/-- R377: the hall that is picked is one of those that pass; it holds the fewest teams, and is the lowest of those. -/
theorem pickHall_spec {s : State} {halls : List Nat} {hall : Nat} (h : s.pickHall halls = some hall) (asc : halls.Pairwise (· < ·)) :
    hall ∈ halls ∧ ∀ x ∈ halls, s.hallFirst hall x := by
  cases halls with
  | nil => cases h
  | cons b rest =>
    obtain rfl := Option.some.inj h
    exact pickFrom_spec s b rest asc

theorem pickHall_none {s : State} {halls : List Nat} (h : s.pickHall halls = none) : halls = [] := by
  cases halls with
  | nil => rfl
  | cons b rest => cases h

/-- The halls that pass for an offer rise, as the partition's halls do. -/
theorem passing_pairwise (s : State) {q : Part} (o : Offer) (asc : q.halls.Pairwise (· < ·)) : (s.passing q o).Pairwise (· < ·) := by
  unfold State.passing
  split
  · exact .nil
  · split
    · exact (asc.filter _).filter _
    · exact .nil

/-- R382, R389: the offers that saves were requested for go before the others. -/
theorem inOrder_eq (s : State) (q : Part) :
    s.inOrder q = (s.offers q.id).filter q.sched.waitsFor ++ ((s.offers q.id).filter fun x => !q.sched.waitsFor x) := by
  rw [State.inOrder]
  split
  · next none =>
    have waits : ∀ o, q.sched.waitsFor o = false := fun o => by rw [PartSched.waitsFor, List.isEmpty_iff.mp none]; rfl
    simp [waits]
  · rfl

/-- R375, R377, R382: the offer that is admitted next is the first that some hall passes for. -/
theorem nextAdmit_order {s : State} {p : Nat} {q : Part} {o : Offer} {hall : Nat} (hp : s.part? p = some q)
    (h : s.nextAdmit q = some (o, hall)) (back : s.foyerBack q = none) (asc : q.halls.Pairwise (· < ·)) :
    ∃ before after, (s.offers p).filter q.sched.waitsFor ++ ((s.offers p).filter fun x => !q.sched.waitsFor x) = before ++ o :: after ∧
      (∀ x ∈ before, s.passing q x = []) ∧ hall ∈ s.passing q o ∧ ∀ h ∈ s.passing q o, s.hallFirst hall h := by
  simp only [State.nextAdmit, back, List.head?_filterMap, inOrder_eq, part?_id hp] at h
  obtain ⟨before, a, after, split, found, skipped⟩ := List.findSome?_eq_some_iff.mp h
  obtain ⟨hall', picked, eq⟩ := Option.map_eq_some_iff.mp found
  cases eq
  obtain ⟨mem, best⟩ := pickHall_spec picked (passing_pairwise s _ asc)
  exact ⟨before, after, split, fun x hx => pickHall_none (Option.map_eq_none_iff.mp (skipped x hx)), mem, best⟩

end Sys2Proof.Machine
end

section
/-! PROOFS. The ends of groups and teams: what follows them, and what stays (R30, R131, R161, R177, R372, R376, R386, R460). -/

namespace Sys2Proof.Machine

/-! ### What follows an end -/

/-- Between two states only what follows the end of a group or of a team may differ: which strands wait, arrivals and barriers, knots with the
decrements held, the objects and the state of partitions, dependences of grids, and what lies beside them; no commit is made. -/
structure EndOnly (s t : State) : Prop where
  hist : t.hist = s.hist
  groups : ∀ (gi : Nat) (g : Group), s.groups[gi]? = some g →
    ∃ g', t.groups[gi]? = some g' ∧ g' = { g with ctl := g'.ctl, ctxs := g'.ctxs, arrivals := g'.arrivals }
  teams : ∀ (ti : Nat) (team : Team), s.teams[ti]? = some team →
    ∃ team', t.teams[ti]? = some team' ∧ team' = { team with knots := team'.knots, barriers := team'.barriers, held := team'.held }
  parts : ∀ (id : Nat) (q : Part), s.part? id = some q →
    ∃ q', t.part? id = some q' ∧ q'.counters = q.counters ∧ q'.sched.foyerState = q.sched.foyerState
  grids : ∀ (n : Nat) (g : Grid), s.grids[n]? = some g → ∃ g', t.grids[n]? = some g' ∧ g' = { g with deps := g'.deps }

/-- Nothing of a state that an end's frame names differs. -/
theorem EndOnly.same {s t : State} (hist : t.hist = s.hist) (groups : t.groups = s.groups) (teams : t.teams = s.teams)
    (parts : t.parts = s.parts) (grids : t.grids = s.grids) : EndOnly s t := by
  refine ⟨hist, fun gi g h => ⟨g, by rw [groups, h], rfl⟩, fun ti team h => ⟨team, by rw [teams, h], rfl⟩,
    fun id q h => ⟨q, ?_, rfl, rfl⟩, fun n g h => ⟨g, by rw [grids, h], rfl⟩⟩
  rw [State.part?, parts]
  exact h

theorem EndOnly.refl (s : State) : EndOnly s s := .same rfl rfl rfl rfl rfl

theorem EndOnly.trans {a b c : State} (h : EndOnly a b) (k : EndOnly b c) : EndOnly a c := by
  refine ⟨k.hist.trans h.hist, fun gi g hg => ?_, fun ti t ht => ?_, fun id q hq => ?_, fun n g hg => ?_⟩
  · obtain ⟨g', hg', e⟩ := h.groups gi g hg
    obtain ⟨g'', hg'', e'⟩ := k.groups gi g' hg'
    exact ⟨g'', hg'', by rw [e] at e'; exact e'⟩
  · obtain ⟨t', ht', e⟩ := h.teams ti t ht
    obtain ⟨t'', ht'', e'⟩ := k.teams ti t' ht'
    exact ⟨t'', ht'', by rw [e] at e'; exact e'⟩
  · obtain ⟨q', hq', counters, foyer⟩ := h.parts id q hq
    obtain ⟨q'', hq'', counters', foyer'⟩ := k.parts id q' hq'
    exact ⟨q'', hq'', counters'.trans counters, foyer'.trans foyer⟩
  · obtain ⟨g', hg', e⟩ := h.grids n g hg
    obtain ⟨g'', hg'', e'⟩ := k.grids n g' hg'
    exact ⟨g'', hg'', by rw [e] at e'; exact e'⟩

theorem EndOnly.foldl {α : Type} {f : State → α → State} (hf : ∀ s a, EndOnly s (f s a)) (l : List α) (s : State) :
    EndOnly s (l.foldl f s) := by
  induction l generalizing s with
  | nil => exact .refl s
  | cons a l ih => exact (hf s a).trans (ih _)

theorem due_endOnly (s : State) (e : Instr) : EndOnly s (s.due e) := .same (by simp) (by simp) (by simp) (by simp) (by simp)

/-- An element of a list after a change of one element is the old one or the changed one. -/
theorem listModify_get_or {α : Type} {l : List α} {n j : Nat} {x : α} (f : α → α) (h : l[j]? = some x) :
    (listModify l n f)[j]? = some x ∨ (listModify l n f)[j]? = some (f x) := by
  by_cases e : j = n
  · subst e
    exact .inr (by rw [listModify_get_same, h, Option.map_some])
  · exact .inl (by rw [listModify_get_other _ _ _ _ e, h])

theorem updGroup_endOnly (s : State) (gi : Nat) {f : Group → Group}
    (hf : ∀ g, f g = { g with ctl := (f g).ctl, ctxs := (f g).ctxs, arrivals := (f g).arrivals }) : EndOnly s (s.updGroup gi f) := by
  refine ⟨rfl, fun gj g h => ?_, fun ti t h => ⟨t, h, rfl⟩, fun id q h => ⟨q, h, rfl, rfl⟩, fun n g h => ⟨g, h, rfl⟩⟩
  rcases listModify_get_or f h with same | changed
  · exact ⟨g, same, rfl⟩
  · exact ⟨f g, changed, hf g⟩

theorem updTeam_endOnly (s : State) (ti : Nat) {f : Team → Team}
    (hf : ∀ t, f t = { t with knots := (f t).knots, barriers := (f t).barriers, held := (f t).held }) : EndOnly s (s.updTeam ti f) := by
  refine ⟨rfl, fun gi g h => ⟨g, h, rfl⟩, fun tj t h => ?_, fun id q h => ⟨q, h, rfl, rfl⟩, fun n g h => ⟨g, h, rfl⟩⟩
  rcases listModify_get_or f h with same | changed
  · exact ⟨t, same, rfl⟩
  · exact ⟨f t, changed, hf t⟩

theorem updPart_endOnly (s : State) (id : Nat) {f : Part → Part}
    (hf : ∀ p, (f p).id = p.id ∧ (f p).counters = p.counters ∧ (f p).sched.foyerState = p.sched.foyerState) : EndOnly s (s.updPart id f) := by
  refine ⟨rfl, fun gi g h => ⟨g, h, rfl⟩, fun ti t h => ⟨t, h, rfl⟩, fun n q h => ?_, fun n g h => ⟨g, h, rfl⟩⟩
  rw [part?_updPart s id n fun p => (hf p).1, h, Option.map_some]
  split
  · exact ⟨f q, rfl, (hf q).2⟩
  · exact ⟨q, rfl, rfl, rfl⟩

theorem updHall_endOnly (s : State) (h : Nat) (f : Hall → Hall) : EndOnly s (s.updHall h f) := .same rfl rfl rfl rfl rfl

theorem updTeamGroups_endOnly (s : State) (t : Team) {f : Group → Group}
    (hf : ∀ g, f g = { g with ctl := (f g).ctl, ctxs := (f g).ctxs, arrivals := (f g).arrivals }) : EndOnly s (s.updTeamGroups t f) :=
  .foldl (fun s gi => updGroup_endOnly s gi hf) _ s

/-! ### Knots and barriers -/

theorem knotZero_endOnly (s : State) (ti n : Nat) : EndOnly s (s.knotZero ti n) := by
  have told : ∀ (u : State) (f : Grid → Grid), (∀ g, f g = { g with deps := (f g).deps }) → EndOnly u { u with grids := u.grids.map f } := by
    intro u f hf
    exact ⟨rfl, fun gi g h => ⟨g, h, rfl⟩, fun tj t h => ⟨t, h, rfl⟩, fun id q h => ⟨q, h, rfl, rfl⟩,
      fun m g h => ⟨f g, by rw [List.getElem?_map, h]; rfl, hf g⟩⟩
  have ended : ∀ (t : Team) (kn : Knot), EndOnly s (s.updTeamGroups t (Group.knotEnd n kn.scope kn.status kn.addr)) :=
    fun t kn => updTeamGroups_endOnly s t fun g => rfl
  unfold State.knotZero
  split
  · exact .refl s
  next t _ =>
    split
    · exact .refl s
    next kn _ =>
      refine (EndOnly.trans (ended t kn) ?_).trans (told _ _ fun g => by split <;> rfl)
      split
      · exact updTeam_endOnly _ _ fun t => rfl
      · exact .refl _

theorem decrement_endOnly (s : State) (ti n : Nat) (scope : Scope) (status : Nat) (addr : DWord) (know : List (SpadBy × Nat)) :
    EndOnly s (s.decrement ti n scope status addr know) := by
  unfold State.decrement
  split
  · exact .refl s
  · split
    · exact updTeam_endOnly s ti fun t => rfl
    · exact .refl s
    · split
      · exact .refl s
      · dsimp only
        split
        · exact (updTeam_endOnly s ti fun t => rfl).trans (knotZero_endOnly _ ti n)
        · exact updTeam_endOnly s ti fun t => rfl

theorem checkBarrier_endOnly (s : State) (ti n : Nat) : EndOnly s (s.checkBarrier ti n) := by
  have ended : ∀ (u : State) (t : Team) (gen : Nat) (gr : Grant), EndOnly u (u.updTeamGroups t (Group.barrierEnd n gen gr)) :=
    fun u t gen gr => updTeamGroups_endOnly u t fun g => rfl
  have abandoned : ∀ (u : State) (t : Team) (gen : Nat), EndOnly u (u.updTeamGroups t (Group.abandon n gen)) := fun u t gen =>
    updTeamGroups_endOnly u t fun g => by
      unfold Group.abandon
      split
      · split <;> rfl
      · rfl
  unfold State.checkBarrier
  split
  · exact .refl s
  · split
    · exact .refl s
    · dsimp only
      split
      · exact ((ended _ _ _ _).trans (updTeam_endOnly _ _ fun t => rfl)).trans (updTeam_endOnly _ _ fun t => rfl)
      · split
        · exact ((abandoned _ _ _).trans (ended _ _ _ _)).trans (updTeam_endOnly _ _ fun t => rfl)
        · exact .refl s

theorem checkBarriers_endOnly (s : State) (ti : Nat) : EndOnly s (s.checkBarriers ti) := .foldl (fun s n => checkBarrier_endOnly s ti n) _ s

theorem arrive_endOnly (s : State) (ti gi n : Nat) : EndOnly s (s.arrive ti gi n) := by
  unfold State.arrive
  split
  · split
    · split
      · exact .refl s
      · exact ((updTeam_endOnly s ti fun t => rfl).trans (updGroup_endOnly _ gi fun g => rfl)).trans (checkBarrier_endOnly _ ti n)
    · exact .refl s
  · exact .refl s

/-! ### Requests, objects and queues -/

theorem checkPreempt_endOnly (s : State) (pid : Nat) : EndOnly s (s.checkPreempt pid) := by
  unfold State.checkPreempt
  split
  · exact .refl s
  · split
    · dsimp only
      have done : ∀ x : Preempt, EndOnly s (s.updPart pid fun p =>
          { p with ctxState := if x.kind == 1 && p.ctxState == 1 then 2 else p.ctxState,
                   sched := { p.sched with preempt := some { x with completed := true, decremented := true } } }) :=
        fun x => updPart_endOnly s pid fun p => ⟨rfl, rfl, rfl⟩
      split
      · exact done _
      · exact (done _).trans (decrement_endOnly _ _ _ _ _ _ _)
    · exact .refl s

theorem unpin_endOnly (s : State) (pid : Nat) : EndOnly s (s.unpin pid) := by
  unfold State.unpin
  split
  · exact updPart_endOnly s pid fun p => ⟨rfl, rfl, rfl⟩
  · exact .refl s

theorem schedule_endOnly (s : State) (pid : Nat) : EndOnly s (s.schedule pid) := by
  unfold State.schedule
  split
  · exact (due_endOnly s _).trans (due_endOnly _ _)
  · exact .refl s

theorem settleCtx_endOnly (s : State) (pid : Nat) : EndOnly s (s.settleCtx pid) := by
  unfold State.settleCtx
  split
  · split
    · exact updPart_endOnly s pid fun p => ⟨rfl, rfl, rfl⟩
    · exact .refl s
  · exact .refl s

theorem noteWait_endOnly (s : State) (pid : Nat) : EndOnly s (s.noteWait pid) := by
  unfold State.noteWait
  split
  · split
    · exact updPart_endOnly s pid fun p => ⟨rfl, rfl, rfl⟩
    · exact .refl s
  · exact .refl s

theorem checkTeam_endOnly (s : State) (ti : Nat) : EndOnly s (s.checkTeam ti) := by
  unfold State.checkTeam
  split
  · exact due_endOnly s _
  · exact .refl s

theorem noteSaved_endOnly (s : State) (ti : Nat) : EndOnly s (s.noteSaved ti) := by
  unfold State.noteSaved
  split
  · split
    · exact due_endOnly s _
    · exact .refl s
  · exact .refl s

theorem excuse_endOnly (s : State) (gi : Nat) : EndOnly s (s.excuse gi) := by
  unfold State.excuse
  split
  · exact .refl s
  · split
    · exact updPart_endOnly s _ fun p => ⟨rfl, rfl, rfl⟩
    · exact .refl s

end Sys2Proof.Machine
end

section
/-! PROOFS. The end of a group whose last lane has exited, and the release of a finished team (R30, R177, R372, R376). -/

namespace Sys2Proof.Machine

/-! ### The end of a group (R177) -/

/-- R54, R288: a drain keeps the group and adds to the history. -/
theorem drainGroup_spec {s : State} {gi : Nat} {g : Group} (sc : Scope) (h : s.groups[gi]? = some g) :
    (∃ g', (s.drainGroup gi sc).groups[gi]? = some g') ∧ s.hist <:+ (s.drainGroup gi sc).hist := by
  unfold State.drainGroup
  split
  · exact ⟨⟨g, h⟩, List.suffix_rfl⟩
  · rw [h]
    have only := commit_only s { party := s.partyOf gi, scope := sc, atHome := true, atomic := false, sector := false, discard := false }
      (s.commitWrites gi g.stores (OwnStore.drained sc))
    obtain ⟨g', hg', -⟩ := only.groups gi g h
    exact ⟨⟨_, by rw [updGroup_get_same, hg', Option.map_some]⟩, only.hist⟩

/-- R251: a group's own lines that are not written back leave L1, and it holds none. -/
theorem dropPriv_unwritten (s : State) (gi : Nat) :
    ∃ hs, s.dropPriv gi false = ({ s with halls := hs } : State).updGroup gi fun g => { g with priv := [] } := by
  have dropped : ∀ (ls : List Nat) (u : State), ∃ hs,
      ls.foldl (fun u h => u.updHall h fun h => { h with l1 := h.l1.filter fun l => l.owner != some gi }) u = { u with halls := hs } := by
    intro ls
    induction ls with
    | nil => exact fun u => ⟨u.halls, rfl⟩
    | cons a ls ih => exact fun u => ⟨_, (ih _).choose_spec⟩
  obtain ⟨hs, eq⟩ := dropped (ascending ((s.privLines gi).map fun x => x.1)) s
  exact ⟨hs, congrArg (fun u : State => u.updGroup gi fun g => { g with priv := [] }) eq⟩

/-- R177: a group that has ended. -/
def Group.ended (g : Group) : Group :=
  { g with phase := .exited, stores := [], watch := [], region := none, chain := none, log := [], land := [], ctxs := [] }

/-- R131, R161: what follows the end of a group ends its strands, stores, watches and log, and makes no commit. -/
theorem groupGone_spec {s : State} {gi : Nat} {g : Group} (x : Group) (h : s.groups[gi]? = some g) :
    (s.groupGone gi x).hist = s.hist ∧ ∃ g', (s.groupGone gi x).groups[gi]? = some g' ∧ g'.phase = .exited ∧ g'.stores = [] ∧ g'.log = [] ∧
      g'.watch = [] ∧ g'.priv = g.priv := by
  have excused := excuse_endOnly s gi
  obtain ⟨g₁, hg₁, eq₁⟩ := excused.groups gi g h
  have rest : EndOnly ((s.excuse gi).updGroup gi Group.ended) (s.groupGone gi x) := by
    have left := ((EndOnly.foldl (f := fun s n => s.arrive x.team gi n) (fun s n => arrive_endOnly s _ gi n) (List.range 16)
      ((s.excuse gi).updGroup gi Group.ended)).trans (checkBarriers_endOnly _ x.team)).trans (checkTeam_endOnly _ x.team)
    unfold State.groupGone
    dsimp only
    split
    · exact ((((left.trans (updHall_endOnly _ _ _)).trans (noteSaved_endOnly _ _)).trans (checkPreempt_endOnly _ _)).trans
        (unpin_endOnly _ _)).trans (schedule_endOnly _ _)
    · exact left
  have hg₂ : ((s.excuse gi).updGroup gi Group.ended).groups[gi]? = some g₁.ended := by rw [updGroup_get_same, hg₁, Option.map_some]
  obtain ⟨g₃, hg₃, eq₃⟩ := rest.groups gi _ hg₂
  refine ⟨rest.hist.trans excused.hist, g₃, hg₃, ?_⟩
  rw [eq₃, eq₁]
  exact ⟨rfl, rfl, rfl, rfl, rfl⟩

theorem groupExitComplete_spec {s : State} {gi : Nat} {g : Group} (hg : s.groups[gi]? = some g) (running : g.phase = .running)
    (unsaved : g.saved = none) (exited : g.ctl.live = 0) (answered : g.activeLog = []) (unchained : g.chain = none) :
    ∃ (t : State) (g' : Group), exec (.groupExitComplete gi) s = .next t ∧ t.groups[gi]? = some g' ∧ g'.phase = .exited ∧ g'.stores = [] ∧
      g'.log = [] ∧ g'.watch = [] ∧ g'.priv = [] ∧ ∃ new, t.hist = new ++ ((s.updGroup gi Group.endRegion).commitGroup gi .y).hist := by
  let u := (s.updGroup gi Group.endRegion).commitGroup gi .y
  have go : exec (.groupExitComplete gi) s = .next (((u.drainGroup gi .y).dropPriv gi false).groupGone gi g) := by
    have step : exec (.groupExitComplete gi) s = execGroupExitComplete gi s := rfl
    rw [step, execGroupExitComplete, hg]
    dsimp only
    rw [if_pos (by simp [running, unsaved, exited, answered, unchained])]
  obtain ⟨g₁, hg₁, -⟩ := commitGroup_committed (s := s.updGroup gi Group.endRegion) .y
    (by rw [updGroup_get_same, hg, Option.map_some])
  obtain ⟨⟨g₂, hg₂⟩, new, drained⟩ := drainGroup_spec .y hg₁
  obtain ⟨hs, dropped⟩ := dropPriv_unwritten (u.drainGroup gi .y) gi
  have hg₃ : ((u.drainGroup gi .y).dropPriv gi false).groups[gi]? = some { g₂ with priv := [] } := by
    rw [dropped, updGroup_get_same]
    exact congrArg _ hg₂
  obtain ⟨hist, g', hg', phase, stores, log, watch, priv⟩ := groupGone_spec g hg₃
  refine ⟨_, g', go, hg', phase, stores, log, watch, priv, new, ?_⟩
  rw [hist, dropped]
  exact drained.symm

/-! ### The release of a team (R30) -/

theorem spend_endOnly (s : State) : EndOnly s s.spend := .same rfl rfl rfl rfl rfl

/-- R372: a team of a grid has been released. -/
def Grid.releasedTeam (teamId : Nat) (g g' : Grid) : Grid :=
  { g' with released := g.released ++ [teamId], done := decide (g.teams ≤ (g.released ++ [teamId]).length) }

theorem gridReleased_endOnly {s : State} {n : Nat} {g : Grid} (teamId : Nat) (h : s.grids[n]? = some g) :
    EndOnly (s.updGrid n (Grid.releasedTeam teamId g)) (s.gridReleased n teamId) := by
  simp only [State.gridReleased, h]
  split
  · exact decrement_endOnly _ _ _ _ _ _ _
  · exact .refl _

/-- R372: what a grid's count of its released teams leaves of teams and partitions. -/
theorem gridReleased_teams_parts (s : State) (n teamId : Nat) :
    (∀ (ti : Nat) (t : Team), s.teams[ti]? = some t → ∃ t', (s.gridReleased n teamId).teams[ti]? = some t' ∧
      t' = { t with knots := t'.knots, barriers := t'.barriers, held := t'.held }) ∧
    ∀ (id : Nat) (q : Part), s.part? id = some q → ∃ q', (s.gridReleased n teamId).part? id = some q' ∧ q'.counters = q.counters ∧
      q'.sched.foyerState = q.sched.foyerState := by
  cases h : s.grids[n]? with
  | none =>
    simp only [State.gridReleased, h]
    exact ⟨(EndOnly.refl s).teams, (EndOnly.refl s).parts⟩
  | some g =>
    have only := gridReleased_endOnly teamId h
    exact ⟨only.teams, only.parts⟩

/-- R30, R376: a partition after a team's release. -/
def Part.releasedTeam (t : Team) (measured : Nat) (p : Part) : Part :=
  { (p.teamEnergy t measured) with
    counters := { p.counters with released := p.counters.released + 1 }
    sched := if t.foyer then { p.sched with foyerState := 3, foyerTeam := none } else p.sched }

/-- R30: a released team has given up what it held, and its partition counts it. -/
def State.gaveUp (s : State) (ti : Nat) (t : Team) : State :=
  ((s.noteWait t.part).freeTeam ti t).updPart t.part (Part.releasedTeam t (s.measured ti t))

/-- R30, R372: a released team's grid counts it too. -/
def State.toldGrid (s : State) (t : Team) : State :=
  match t.grid with
  | some n => s.gridReleased n t.teamId
  | none => s

theorem releaseTeam_eq (s : State) (ti : Nat) (t : Team) : s.releaseTeam ti t =
    ((((((s.gaveUp ti t).toldGrid t).settleCtx t.part).checkPreempt t.part).unpin t.part).schedule t.part).spend := rfl

theorem releaseTeam_endOnly (s : State) (ti : Nat) (t : Team) : EndOnly ((s.gaveUp ti t).toldGrid t) (s.releaseTeam ti t) := by
  rw [releaseTeam_eq]
  exact ((((settleCtx_endOnly _ _).trans (checkPreempt_endOnly _ _)).trans (unpin_endOnly _ _)).trans (schedule_endOnly _ _)).trans
    (spend_endOnly _)

theorem toldGrid_kept (s : State) (t : Team) :
    (∀ (tj : Nat) (u : Team), s.teams[tj]? = some u → ∃ u', (s.toldGrid t).teams[tj]? = some u' ∧
      u' = { u with knots := u'.knots, barriers := u'.barriers, held := u'.held }) ∧
    ∀ (id : Nat) (p : Part), s.part? id = some p → ∃ p', (s.toldGrid t).part? id = some p' ∧ p'.counters = p.counters ∧
      p'.sched.foyerState = p.sched.foyerState := by
  unfold State.toldGrid
  split
  · exact gridReleased_teams_parts s _ _
  · exact ⟨(EndOnly.refl s).teams, (EndOnly.refl s).parts⟩

theorem teamRelease_spec {s : State} {ti : Nat} {team : Team} {q : Part} (ht : s.teams[ti]? = some team) (hq : s.part? team.part = some q)
    (finished : s.teamFinished ti = true) :
    ∃ (t : State) (team' : Team) (q' : Part), exec (.teamRelease ti) s = .next t ∧ t.teams[ti]? = some team' ∧ team'.phase = .released ∧
      team'.spad = [] ∧ team'.tiles = [] ∧ t.part? team.part = some q' ∧ q'.counters.released = q.counters.released + 1 ∧
      q'.sched.foyerState = (if team.foyer then 3 else q.sched.foyerState) ∧
      ∀ n g, team.grid = some n → s.grids[n]? = some g → ∃ g', t.grids[n]? = some g' ∧ g'.released = g.released ++ [team.teamId] ∧
        g'.done = decide (g.teams ≤ g.released.length + 1) := by
  have go : exec (.teamRelease ti) s = .next (s.releaseTeam ti team) := by
    have step : exec (.teamRelease ti) s = execTeamRelease ti s := rfl
    rw [step, execTeamRelease, ht]
    dsimp only
    rw [if_pos finished]
  have waited := noteWait_endOnly s team.part
  obtain ⟨t₀, ht₀, eq₀⟩ := waited.teams ti team ht
  obtain ⟨q₀, hq₀, counters₀, foyer₀⟩ := waited.parts team.part q hq
  have done := releaseTeam_endOnly s ti team
  obtain ⟨keptTeams, keptParts⟩ := toldGrid_kept (s.gaveUp ti team) team
  have hta : (s.gaveUp ti team).teams[ti]? = some _ := updTeam_get_same _ ht₀
  obtain ⟨t₁, ht₁, eq₁⟩ := keptTeams ti _ hta
  obtain ⟨t₂, ht₂, eq₂⟩ := done.teams ti t₁ ht₁
  have hqa : (s.gaveUp ti team).part? team.part = some (Part.releasedTeam team (s.measured ti team) q₀) :=
    part?_updPart_same (fun p => rfl) hq₀
  obtain ⟨q₁, hq₁, counters₁, foyer₁⟩ := keptParts team.part _ hqa
  obtain ⟨q₂, hq₂, counters₂, foyer₂⟩ := done.parts team.part q₁ hq₁
  refine ⟨_, t₂, q₂, go, ht₂, by rw [eq₂, eq₁], by rw [eq₂, eq₁], by rw [eq₂, eq₁], hq₂, ?_, ?_, fun n g hn hg => ?_⟩
  · rw [counters₂, counters₁, ← counters₀]
    rfl
  · rw [foyer₂, foyer₁, ← foyer₀]
    cases h : team.foyer <;> simp [Part.releasedTeam, h]
  · obtain ⟨g₀, hg₀, eqg₀⟩ := waited.grids n g hg
    have told : (s.gaveUp ti team).grids[n]? = some g₀ := hg₀
    have marked : ((s.gaveUp ti team).updGrid n (Grid.releasedTeam team.teamId g₀)).grids[n]? = some (Grid.releasedTeam team.teamId g₀ g₀) := by
      rw [State.updGrid_grids, listModify_get_same, told, Option.map_some]
    have ended : EndOnly ((s.gaveUp ti team).updGrid n (Grid.releasedTeam team.teamId g₀)) ((s.gaveUp ti team).toldGrid team) := by
      simp only [State.toldGrid, hn]
      exact gridReleased_endOnly team.teamId told
    obtain ⟨g', hg', eqg'⟩ := (ended.trans done).grids n _ marked
    refine ⟨g', hg', ?_, ?_⟩
    · rw [eqg', eqg₀]
      rfl
    · rw [eqg', eqg₀]
      simp [Grid.releasedTeam]

end Sys2Proof.Machine
end

section
/-! PROOFS. The start of a team on a hall, and what the words that follow an admission leave of it (R42, R144, R245, R340, R375, R382). -/

namespace Sys2Proof.Machine

/-! ### What stays of groups, teams and partitions -/

/-- A group's place, registers, strands and save stay. -/
structure SameTask (g g' : Group) : Prop where
  id : g'.id = g.id
  team : g'.team = g.team
  regs : g'.regs = g.regs
  ctl : g'.ctl = g.ctl
  ctxs : g'.ctxs = g.ctxs
  saved : g'.saved = g.saved

theorem SameTask.refl (g : Group) : SameTask g g := ⟨rfl, rfl, rfl, rfl, rfl, rfl⟩

theorem SameTask.trans {a b c : Group} (h : SameTask a b) (k : SameTask b c) : SameTask a c :=
  ⟨k.id.trans h.id, k.team.trans h.team, k.regs.trans h.regs, k.ctl.trans h.ctl, k.ctxs.trans h.ctxs, k.saved.trans h.saved⟩

/-- A team's place stays: only requests may be withdrawn, and the tiles and slots of a team change only where one of its slots is bound. -/
structure SameSeat (t t' : Team) : Prop where
  rest : t' = { t with tiles := t'.tiles, slots := t'.slots, requested := t'.requested, byPreempt := t'.byPreempt, byAuto := t'.byAuto }
  asked : t.requested = false → t'.requested = false
  unbound : (∀ z, (t.slot z).bound = none) → t'.tiles = t.tiles ∧ t'.slots = t.slots

theorem SameSeat.refl (t : Team) : SameSeat t t := ⟨rfl, fun h => h, fun _ => ⟨rfl, rfl⟩⟩

theorem SameSeat.trans {a b c : Team} (h : SameSeat a b) (k : SameSeat b c) : SameSeat a c := by
  refine ⟨?_, fun asked => k.asked (h.asked asked), fun unbound => ?_⟩
  · have e := k.rest
    rw [h.rest] at e
    exact e
  · obtain ⟨tiles, slots⟩ := h.unbound unbound
    obtain ⟨tiles', slots'⟩ := k.unbound fun z => by
      rw [Team.slot, slots]
      exact unbound z
    exact ⟨tiles'.trans tiles, slots'.trans slots⟩

section
variable {t t' : Team} (h : SameSeat t t')
include h

theorem SameSeat.hall : t'.hall = t.hall := by rw [h.rest]

theorem SameSeat.part : t'.part = t.part := by rw [h.rest]

theorem SameSeat.teamId : t'.teamId = t.teamId := by rw [h.rest]

theorem SameSeat.phase : t'.phase = t.phase := by rw [h.rest]

theorem SameSeat.spad : t'.spad = t.spad := by rw [h.rest]

theorem SameSeat.groups : t'.groups = t.groups := by rw [h.rest]

theorem SameSeat.hdr : t'.hdr = t.hdr := by rw [h.rest]

theorem SameSeat.foyer : t'.foyer = t.foyer := by rw [h.rest]

theorem SameSeat.knots : t'.knots = t.knots := by rw [h.rest]

end

/-- Between two states groups keep their tasks, teams their seats, and partitions their counts. -/
structure SeatOnly (s t : State) : Prop where
  groups : ∀ (gi : Nat) (g : Group), s.groups[gi]? = some g → ∃ g', t.groups[gi]? = some g' ∧ SameTask g g'
  teams : ∀ (ti : Nat) (team : Team), s.teams[ti]? = some team → ∃ team', t.teams[ti]? = some team' ∧ SameSeat team team'
  parts : ∀ (id : Nat) (q : Part), s.part? id = some q → ∃ q', t.part? id = some q' ∧ q'.counters = q.counters
  grids : t.grids = s.grids

theorem SeatOnly.same {s t : State} (groups : t.groups = s.groups) (teams : t.teams = s.teams) (parts : t.parts = s.parts)
    (grids : t.grids = s.grids) : SeatOnly s t := by
  refine ⟨fun gi g h => ⟨g, by rw [groups, h], .refl g⟩, fun ti t h => ⟨t, by rw [teams, h], .refl t⟩, fun id q h => ⟨q, ?_, rfl⟩, grids⟩
  rw [State.part?, parts]
  exact h

theorem SeatOnly.refl (s : State) : SeatOnly s s := .same rfl rfl rfl rfl

theorem SeatOnly.trans {a b c : State} (h : SeatOnly a b) (k : SeatOnly b c) : SeatOnly a c := by
  refine ⟨fun gi g hg => ?_, fun ti t ht => ?_, fun id q hq => ?_, k.grids.trans h.grids⟩
  · obtain ⟨g', hg', e⟩ := h.groups gi g hg
    obtain ⟨g'', hg'', e'⟩ := k.groups gi g' hg'
    exact ⟨g'', hg'', e.trans e'⟩
  · obtain ⟨t', ht', e⟩ := h.teams ti t ht
    obtain ⟨t'', ht'', e'⟩ := k.teams ti t' ht'
    exact ⟨t'', ht'', e.trans e'⟩
  · obtain ⟨q', hq', counters⟩ := h.parts id q hq
    obtain ⟨q'', hq'', counters'⟩ := k.parts id q' hq'
    exact ⟨q'', hq'', counters'.trans counters⟩

theorem SeatOnly.foldl {α : Type} {f : State → α → State} (hf : ∀ s a, SeatOnly s (f s a)) (l : List α) (s : State) :
    SeatOnly s (l.foldl f s) := by
  induction l generalizing s with
  | nil => exact .refl s
  | cons a l ih => exact (hf s a).trans (ih _)

theorem updGroup_seatOnly (s : State) (gi : Nat) {f : Group → Group} (hf : ∀ g, SameTask g (f g)) : SeatOnly s (s.updGroup gi f) := by
  refine ⟨fun gj g h => ?_, fun ti t h => ⟨t, h, .refl t⟩, fun id q h => ⟨q, h, rfl⟩, rfl⟩
  rcases listModify_get_or f h with same | changed
  · exact ⟨g, same, .refl g⟩
  · exact ⟨f g, changed, hf g⟩

theorem updTeam_seatOnly (s : State) (ti : Nat) {f : Team → Team} (hf : ∀ t, s.teams[ti]? = some t → SameSeat t (f t)) :
    SeatOnly s (s.updTeam ti f) := by
  refine ⟨fun gi g h => ⟨g, h, .refl g⟩, fun tj t h => ?_, fun id q h => ⟨q, h, rfl⟩, rfl⟩
  by_cases e : tj = ti
  · subst e
    exact ⟨f t, updTeam_get_same f h, hf t h⟩
  · exact ⟨t, by rw [updTeam_get_other _ _ _ _ e, h], .refl t⟩

theorem updPart_seatOnly (s : State) (id : Nat) {f : Part → Part} (hid : ∀ p, (f p).id = p.id) (hf : ∀ p, (f p).counters = p.counters) :
    SeatOnly s (s.updPart id f) := by
  refine ⟨fun gi g h => ⟨g, h, .refl g⟩, fun ti t h => ⟨t, h, .refl t⟩, fun n q h => ?_, rfl⟩
  rw [part?_updPart s id n hid, h, Option.map_some]
  split
  · exact ⟨f q, rfl, hf q⟩
  · exact ⟨q, rfl, rfl⟩

theorem updHall_seatOnly (s : State) (h : Nat) (f : Hall → Hall) : SeatOnly s (s.updHall h f) := .same rfl rfl rfl rfl

theorem due_seatOnly (s : State) (e : Instr) : SeatOnly s (s.due e) := .same (by simp) (by simp) (by simp) (by simp)

theorem spend_seatOnly (s : State) : SeatOnly s s.spend := .same rfl rfl rfl rfl

/-! ### The first BEGIN of a group, and folds of the pool -/

theorem excuse_seatOnly (s : State) (gi : Nat) : SeatOnly s (s.excuse gi) := by
  unfold State.excuse
  split
  · exact .refl s
  · split
    · exact updPart_seatOnly s _ (fun _ => rfl) fun _ => rfl
    · exact .refl s

/-- R46: a group after a BEGIN at a scope at a place of the scope order. -/
def Group.began (here : Nat) (sc : Scope) (g : Group) : Group :=
  { g with beginH := here, beginP := (if sc.rank ≥ 2 then here else g.beginP), beginY := (if sc.rank ≥ 3 then here else g.beginY),
           stores := neededStores (g.stores.map fun o => { o with since := false }) }

/-- R46: the BEGIN takes its place in the scope order. -/
def State.begun (s : State) (gi : Nat) (sc : Scope) : State :=
  State.updGroup { s with seq := s.seq + 1 } gi (Group.began (s.seq + 1) sc)

/-- R45, R46, R247, R286: what a BEGIN is: nothing at g, a place in the scope order at h, and at p and y also lines of L1 that go and a group
that is excused. -/
theorem beginGroup_cases (s : State) (gi : Nat) (sc : Scope) : s.beginGroup gi sc = s ∨ s.beginGroup gi sc = s.begun gi sc ∨
    ∃ hs, s.beginGroup gi sc = State.excuse { s.begun gi sc with halls := hs } gi := by
  have lines : ∀ o : Option Team, ∃ hs, (match o with
      | some t => (s.begun gi sc).updHall t.hall fun h => { h with l1 := h.l1.filter fun l => l.owner.isSome }
      | none => s.begun gi sc) = { s.begun gi sc with halls := hs } := fun o => by
    cases o with
    | none => exact ⟨_, rfl⟩
    | some t => exact ⟨_, rfl⟩
  obtain ⟨hs, eq⟩ := lines (((s.begun gi sc).groups[gi]?).bind (s.begun gi sc).teamOf)
  unfold State.beginGroup
  split
  · exact .inl rfl
  · dsimp only
    split
    · exact .inr (.inl rfl)
    · exact .inr (.inr ⟨hs, congrArg (fun u : State => u.excuse gi) eq⟩)

theorem beginGroup_seatOnly (s : State) (gi : Nat) (sc : Scope) : SeatOnly s (s.beginGroup gi sc) := by
  have begun : SeatOnly s (s.begun gi sc) := SeatOnly.trans (b := { s with seq := s.seq + 1 }) (.same rfl rfl rfl rfl)
    (updGroup_seatOnly _ gi fun g => ⟨rfl, rfl, rfl, rfl, rfl, rfl⟩)
  rcases beginGroup_cases s gi sc with eq | eq | ⟨hs, eq⟩
  · rw [eq]
    exact .refl s
  · rw [eq]
    exact begun
  · rw [eq]
    exact SeatOnly.trans (b := { s.begun gi sc with halls := hs }) (begun.trans (.same rfl rfl rfl rfl)) (excuse_seatOnly _ gi)

theorem startGroup_seatOnly (s : State) (h : Header) (gi : Nat) : SeatOnly s (s.startGroup h gi) := by
  refine (beginGroup_seatOnly s gi .y).trans (updGroup_seatOnly _ gi fun g => ?_)
  unfold Group.autoRegion
  split
  · exact ⟨rfl, rfl, rfl, rfl, rfl, rfl⟩
  · exact .refl g

theorem foldEntry_seatOnly (s : State) (ti z cell : Nat) : SeatOnly s (s.foldEntry ti z cell) := by
  unfold State.foldEntry
  split
  · exact .refl s
  next t ht =>
    dsimp only
    split
    · exact .refl s
    next tile kind bound =>
      rw [State.setSlot, State.updTeam_comp]
      refine (updTeam_seatOnly s ti fun t' ht' => ?_).trans (updHall_seatOnly _ _ _)
      obtain rfl : t = t' := Option.some.inj (ht.symm.trans ht')
      exact ⟨rfl, fun asked => asked, fun unbound => absurd (bound.symm.trans (unbound z)) (Option.some_ne_none _)⟩

theorem fitPool_seatOnly (s : State) (hall : Nat) : SeatOnly s (s.fitPool hall) := by
  refine SeatOnly.foldl (fun s _ => ?_) _ s
  unfold State.foldOldest
  split
  · exact .refl s
  · exact foldEntry_seatOnly s _ _ _

/-! ### What follows an admission -/

theorem withdraw_seatOnly (s : State) (ti : Nat) : SeatOnly s (s.withdraw ti) := by
  have undone : ∀ (u : State) (e : Instr), SeatOnly u (u.undue e) := fun u e => .same rfl rfl rfl rfl
  unfold State.withdraw
  split
  · exact .refl s
  · split
    · refine SeatOnly.trans (updTeam_seatOnly s ti ?_) (SeatOnly.foldl (fun s gi => SeatOnly.trans (updGroup_seatOnly s gi ?_) (undone _ _)) _ _)
      · exact fun t _ => ⟨rfl, fun _ => rfl, fun _ => ⟨rfl, rfl⟩⟩
      · exact fun g => ⟨rfl, rfl, rfl, rfl, rfl, rfl⟩
    · exact .refl s

theorem admitted_seatOnly (s : State) (p : Part) (o : Offer) (hall : Nat) : SeatOnly s (s.admitted p o hall) := by
  have released : ∀ (u : State) (others : List AutoWait) (ti : Nat), SeatOnly u (u.release others ti) := by
    intro u others ti
    unfold State.release
    split
    · exact withdraw_seatOnly u ti
    · exact .refl u
  unfold State.admitted
  dsimp only
  split
  · exact .refl s
  · refine SeatOnly.trans ?_ (updPart_seatOnly _ _ (fun _ => rfl) fun _ => rfl)
    split
    · exact .refl s
    · exact .foldl (fun s ti => released s _ ti) _ s

theorem schedule_seatOnly (s : State) (pid : Nat) : SeatOnly s (s.schedule pid) := by
  unfold State.schedule
  split
  · exact (due_seatOnly s _).trans (due_seatOnly _ _)
  · exact .refl s

/-! ### A new split of a hall's SRAM (R245) -/

/-- Between two states only what lines that leave L1 change may differ; a group none of whose strands sleeps in WAITW keeps its task. -/
structure ResplitOnly (s t : State) : Prop where
  groups : ∀ (gi : Nat) (g : Group), s.groups[gi]? = some g → g.anyEntry (fun e => e.wait == .watch) = false →
    ∃ g', t.groups[gi]? = some g' ∧ SameTask g g'
  teams : t.teams = s.teams
  parts : t.parts = s.parts
  grids : ∀ (n : Nat) (g : Grid), s.grids[n]? = some g → ∃ g', t.grids[n]? = some g' ∧ g' = { g with deps := g'.deps }

theorem ResplitOnly.refl (s : State) : ResplitOnly s s := ⟨fun _ g h _ => ⟨g, h, .refl g⟩, rfl, rfl, fun _ g h => ⟨g, h, rfl⟩⟩

theorem ResplitOnly.trans {a b c : State} (h : ResplitOnly a b) (k : ResplitOnly b c) : ResplitOnly a c := by
  refine ⟨fun gi g hg awake => ?_, k.teams.trans h.teams, k.parts.trans h.parts, fun n g hg => ?_⟩
  · obtain ⟨g', hg', e⟩ := h.groups gi g hg awake
    obtain ⟨g'', hg'', e'⟩ := k.groups gi g' hg' (by rw [Group.anyEntry_congr _ ⟨e.ctl, e.ctxs⟩, awake])
    exact ⟨g'', hg'', e.trans e'⟩
  · obtain ⟨g', hg', e⟩ := h.grids n g hg
    obtain ⟨g'', hg'', e'⟩ := k.grids n g' hg'
    exact ⟨g'', hg'', by rw [e] at e'; exact e'⟩

theorem ResplitOnly.foldl {α : Type} {f : State → α → State} (hf : ∀ s a, ResplitOnly s (f s a)) (l : List α) (s : State) :
    ResplitOnly s (l.foldl f s) := by
  induction l generalizing s with
  | nil => exact .refl s
  | cons a l ih => exact (hf s a).trans (ih _)

theorem CommitOnly.resplitOnly {s t : State} (h : CommitOnly s t) : ResplitOnly s t := by
  refine ⟨fun gi g hg awake => ?_, by rw [h.rest], by rw [h.rest], h.grids⟩
  obtain ⟨g', hg', fired⟩ := h.groups gi g hg
  obtain ⟨ctl, ctxs⟩ := fired.asleep awake
  refine ⟨g', hg', ?_, ?_, ?_, ctl, ctxs, ?_⟩
  · rw [fired.rest]
  · rw [fired.rest]
  · rw [fired.rest]
  · rw [fired.rest]

theorem leaveL1_resplitOnly (s : State) (l : L1Line) : ResplitOnly s (s.leaveL1 l) := by
  have dropped : ∀ (u : State) (gi : Nat), ResplitOnly u (u.updGroup gi (Group.dropPriv l.line)) := fun u gi =>
    ⟨fun gj g hg _ => (updGroup_seatOnly u gi (f := Group.dropPriv l.line) fun _ => ⟨rfl, rfl, rfl, rfl, rfl, rfl⟩).groups gj g hg, rfl, rfl,
      fun _ g hg => ⟨g, hg, rfl⟩⟩
  unfold State.leaveL1 State.writePrivLine
  split
  · exact .refl s
  · refine ResplitOnly.trans ?_ (dropped _ _)
    split
    · exact .refl s
    · split
      · exact .refl s
      · exact (commit_only _ _ _).resplitOnly

theorem resplit_resplitOnly (s : State) (hall : Nat) : ResplitOnly s (s.resplit hall) := by
  have split_ : ∀ f : Hall → Hall, ResplitOnly s (s.updHall hall f) := fun f =>
    ⟨fun _ g h _ => ⟨g, h, .refl g⟩, rfl, rfl, fun _ g h => ⟨g, h, rfl⟩⟩
  unfold State.resplit
  split
  · exact .refl s
  · dsimp only
    split
    · exact .refl s
    · split
      · exact (split_ _).trans (.foldl leaveL1_resplitOnly _ _)
      · exact split_ _

/-- R245: where no group holds lines of its own, a new split changes only halls. -/
theorem resplit_plain {s : State} (plain : s.holdsPrivate = false) (hall : Nat) : ∃ hs, s.resplit hall = { s with halls := hs } := by
  unfold State.resplit
  split
  · exact ⟨s.halls, rfl⟩
  · dsimp only
    split
    · exact ⟨s.halls, rfl⟩
    · rw [if_neg (by rw [State.holdsPrivate] at plain ⊢; exact Bool.eq_false_iff.mp plain)]
      exact ⟨_, rfl⟩

/-! ### The start of a team (R144, R375) -/

/-- R330: a new team's slots are not bound. -/
theorem Plan.team_unbound (x : Plan) (hall order base est z : Nat) : ((x.team hall order base est).slot z).bound = none := by
  have slots : (x.team hall order base est).slots.toList = List.replicate 4 Slot.empty := Vector.toList_replicate
  rw [Team.slot, slots]
  rcases Nat.lt_or_ge z 4 with below | above
  · rw [List.getD_replicate _ below]
    rfl
  · rw [List.getD_eq_default _ _ (by simpa using above)]
    rfl

/-- R144: no strand of a group sleeps before its first word. -/
theorem Group.first_awake (t : Team) (ti id : Nat) (deadline : Word) (entry : CodeRef) (age : Nat) :
    (Group.first t ti id deadline entry age).anyEntry (fun e => e.wait == .watch) = false := by
  have table : (Control.single entry allLanes).entries.any (fun x => x.any fun e => e.wait == .watch) = false := by
    rw [Vector.any_eq_false]
    intro i hi
    simp only [Control.single, Vector.getElem_set, Vector.getElem_replicate]
    split <;> simp [Entry.strandAt]
  simp [Group.anyEntry, Group.first, table]

/-- R144: a group of a team that starts. -/
def State.newGroup (s : State) (x : Plan) (t : Team) (deadline : Word) (id : Nat) : Group :=
  Group.first t s.teams.length id deadline { x.ref with off := x.ref.off + 0x40 } (s.youngest + id)

/-- R375: a team and its groups have joined, before the hall's SRAM is split anew. -/
def State.joined (s : State) (x : Plan) (hall est : Nat) (deadline : Word) : State :=
  let t := x.team hall s.nextOrder s.groups.length est
  { s with teams := s.teams ++ [t], groups := s.groups ++ (List.range x.hdr.groupCount).map (s.newGroup x t deadline) }

/-- R144, R375: a team that starts has its place, holds nothing yet, and its groups stand before their first words. -/
theorem startTeam_spec (s : State) (x : Plan) (hall est : Nat) (deadline : Word) :
    (∃ team, (s.startTeam x hall est deadline).teams[s.teams.length]? = some team ∧ SameSeat (x.team hall s.nextOrder s.groups.length est) team) ∧
    (∀ id, id < x.hdr.groupCount → ∃ g : Group, (s.startTeam x hall est deadline).groups[s.groups.length + id]? = some g ∧ g.id = id ∧
      g.team = s.teams.length ∧ g.regs = firstRegs x.hdr x.args x.teams ∧
      g.ctl = Control.single { x.ref with off := x.ref.off + 0x40 } allLanes) ∧
    (∀ id q, s.part? id = some q → ∃ q', (s.startTeam x hall est deadline).part? id = some q' ∧ q'.counters = q.counters) ∧
    ∀ (n : Nat) (g : Grid), s.grids[n]? = some g → ∃ g', (s.startTeam x hall est deadline).grids[n]? = some g' ∧ g' = { g with deps := g'.deps } := by
  let t := x.team hall s.nextOrder s.groups.length est
  have split_ := resplit_resplitOnly (s.joined x hall est deadline) hall
  have started : SeatOnly ((s.joined x hall est deadline).resplit hall) (s.startTeam x hall est deadline) :=
    (SeatOnly.foldl (f := fun s gi => s.startGroup x.hdr gi) (fun s gi => startGroup_seatOnly s x.hdr gi) t.groups _).trans (fitPool_seatOnly _ hall)
  refine ⟨?_, fun id hid => ?_, fun id q hq => ?_, fun n g hg => ?_⟩
  · refine started.teams _ t ?_
    rw [split_.teams]
    exact List.getElem?_concat_length
  · obtain ⟨g₁, hg₁, same₁⟩ := split_.groups (s.groups.length + id)
      (s.newGroup x t deadline id) (by simp [State.joined, t, List.getElem?_append_right, List.getElem?_range hid]) (Group.first_awake _ _ _ _ _ _)
    obtain ⟨g₂, hg₂, same₂⟩ := started.groups _ g₁ hg₁
    have same := same₁.trans same₂
    exact ⟨g₂, hg₂, same.id, same.team, same.regs, same.ctl⟩
  · refine started.parts id q ?_
    rw [State.part?, split_.parts]
    exact hq
  · obtain ⟨g', hg', e⟩ := split_.grids n g hg
    exact ⟨g', by rw [started.grids, hg'], e⟩

end Sys2Proof.Machine
end

section
/-! PROOFS. The admission of a grid's next team, and the start of a foyer (R144, R367, R375). -/

namespace Sys2Proof.Machine

/-- R375: what is admitted next is seated. -/
theorem exec_teamAdmit {s : State} {p : Nat} {q : Part} {o : Offer} {hall : Nat} (hp : s.part? p = some q) (h : s.nextAdmit q = some (o, hall)) :
    exec (.teamAdmit p) s = .next (((s.seat q o hall).admitted q o hall).schedule p) := by
  have step : exec (.teamAdmit p) s = execTeamAdmit p s := rfl
  rw [step, execTeamAdmit, hp]
  dsimp only
  rw [h]

/-! ### A new team (R144, R375) -/

/-- R373: a grid after one more of its teams has been admitted. -/
def Grid.admits (g : Grid) : Grid := { g with nextTeam := g.nextTeam + 1, queued := decide (g.nextTeam + 1 < g.teams) }

/-- R376, R403: a partition after a team's admission with an estimate. -/
def Part.admits (est : Nat) (p : Part) : Part :=
  { p with energy := p.energy.reserve est, counters := { p.counters with admitted := p.counters.admitted + 1 } }

theorem part?_countAdmit {s : State} {id est : Nat} {q : Part} (h : s.part? id = some q) : (s.countAdmit id est).part? id = some (q.admits est) :=
  part?_updPart_same (f := Part.admits est) (fun _ => rfl) h

theorem countAdmit_teams (s : State) (id est : Nat) : (s.countAdmit id est).teams = s.teams := rfl

theorem countAdmit_groups (s : State) (id est : Nat) : (s.countAdmit id est).groups = s.groups := rfl

theorem countAdmit_grids (s : State) (id est : Nat) : (s.countAdmit id est).grids = s.grids := rfl

theorem part?_updGrid (s : State) (n id : Nat) (f : Grid → Grid) : (s.updGrid n f).part? id = s.part? id := rfl

theorem seat_fresh {s : State} {q : Part} {n : Nat} {g : Grid} (hall : Nat) (h : s.grids[n]? = some g) :
    s.seat q (.fresh n) hall = ((s.startTeam (g.plan n) hall (q.estimate g.ref.obj g.hdr) q.sched.deadline).countAdmit q.id
      (q.estimate g.ref.obj g.hdr)).updGrid n Grid.admits := by
  simp only [State.seat, h]
  rfl

/-- R375: a new team is seated: its place, its groups before their first words, and the counts of its partition and its grid. -/
theorem seat_fresh_spec {s : State} {q : Part} {n : Nat} {g : Grid} (hall : Nat) (hq : s.part? q.id = some q) (hg : s.grids[n]? = some g) :
    (∃ team, (s.seat q (.fresh n) hall).teams[s.teams.length]? = some team ∧
      SameSeat ((g.plan n).team hall s.nextOrder s.groups.length (q.estimate g.ref.obj g.hdr)) team) ∧
    (∀ id, id < g.hdr.groupCount → ∃ x : Group, (s.seat q (.fresh n) hall).groups[s.groups.length + id]? = some x ∧ x.id = id ∧
      x.team = s.teams.length ∧ x.regs = firstRegs g.hdr g.args (BitVec.ofNat 32 g.teams) ∧
      x.ctl = Control.single { g.ref with off := g.ref.off + 0x40 } allLanes) ∧
    (∃ q', (s.seat q (.fresh n) hall).part? q.id = some q' ∧ q'.counters.admitted = q.counters.admitted + 1) ∧
    ∃ g', (s.seat q (.fresh n) hall).grids[n]? = some g' ∧ g'.nextTeam = g.nextTeam + 1 := by
  rw [seat_fresh hall hg]
  obtain ⟨team, groups, parts, grids⟩ := startTeam_spec s (g.plan n) hall (q.estimate g.ref.obj g.hdr) q.sched.deadline
  refine ⟨by rw [State.updGrid_teams, countAdmit_teams]; exact team, by rw [State.updGrid_groups, countAdmit_groups]; exact groups, ?_, ?_⟩
  · obtain ⟨q₁, hq₁, counters⟩ := parts q.id q hq
    refine ⟨_, by rw [part?_updGrid]; exact part?_countAdmit hq₁, ?_⟩
    rw [← counters]
    rfl
  · obtain ⟨g₁, hg₁, eq⟩ := grids n g hg
    refine ⟨Grid.admits g₁, ?_, by rw [eq]; rfl⟩
    rw [State.updGrid_grids, listModify_get_same]
    rw [countAdmit_grids, hg₁, Option.map_some]

theorem admit_fresh {s : State} {p : Nat} {q : Part} {n hall : Nat} {g : Grid} (hp : s.part? p = some q)
    (next : s.nextAdmit q = some (.fresh n, hall)) (hg : s.grids[n]? = some g) :
    ∃ (t : State) (team : Team) (q' : Part), exec (.teamAdmit p) s = .next t ∧ t.teams[s.teams.length]? = some team ∧ team.hall = hall ∧
      team.part = g.part ∧ team.teamId = g.nextTeam ∧ team.phase = .resident ∧ team.spad = [] ∧ team.tiles = [] ∧
      team.groups.length = g.hdr.groupCount ∧ t.part? p = some q' ∧ q'.counters.admitted = q.counters.admitted + 1 ∧
      (∃ g', t.grids[n]? = some g' ∧ g'.nextTeam = g.nextTeam + 1) ∧
      ∀ id, id < g.hdr.groupCount → ∃ x, t.groups[s.groups.length + id]? = some x ∧ x.id = id ∧ x.team = s.teams.length ∧
        x.regs = firstRegs g.hdr g.args (BitVec.ofNat 32 g.teams) ∧ x.ctl = Control.single { g.ref with off := g.ref.off + 0x40 } allLanes := by
  obtain ⟨⟨t₁, ht₁, same₁⟩, groups, ⟨q₁, hq₁, counters₁⟩, g₁, hg₁, next₁⟩ := seat_fresh_spec hall (by rw [part?_id hp, hp]) hg
  have left : SeatOnly (s.seat q (.fresh n) hall) (((s.seat q (.fresh n) hall).admitted q (.fresh n) hall).schedule p) :=
    (admitted_seatOnly _ _ _ _).trans (schedule_seatOnly _ p)
  obtain ⟨t₂, ht₂, same₂⟩ := left.teams s.teams.length t₁ ht₁
  obtain ⟨q₂, hq₂, counters₂⟩ := left.parts q.id q₁ hq₁
  have same := same₁.trans same₂
  rw [part?_id hp] at hq₂
  refine ⟨_, t₂, q₂, exec_teamAdmit hp next, ht₂, same.hall, same.part, same.teamId, same.phase, same.spad,
    (same.unbound (Plan.team_unbound _ _ _ _ _)).1, ?_, hq₂, by rw [counters₂, counters₁], ⟨g₁, by rw [left.grids, hg₁], next₁⟩, fun id hid => ?_⟩
  · rw [same.groups]
    simp [Plan.team, Grid.plan]
  · obtain ⟨x, hx, id', team, regs, ctl⟩ := groups id hid
    obtain ⟨x', hx', task⟩ := left.groups _ x hx
    exact ⟨x', hx', task.id.trans id', task.team.trans team, task.regs.trans regs, task.ctl.trans ctl⟩

/-! ### The foyer (R367) -/

/-- R367: a partition after its foyer's start. -/
def Part.startsFoyer (ti : Nat) (q : Part) : Part :=
  { q with ctxState := 1, sched := { q.sched with foyerState := 1, foyerTeam := some ti } }

theorem startFoyer_eq {s : State} {q : Part} {va hall : Nat} {x : Plan} (h : s.foyerAt q va = some (x, hall)) :
    s.startFoyer q va = (s.startTeam x hall 0 q.sched.deadline).updPart q.id (Part.startsFoyer s.teams.length) := by
  simp only [State.startFoyer, h]
  rfl

/-- R367: the plan that a launch record gives is a foyer's: one control group. -/
theorem foyerPlan_spec {q : Part} {rec_ : List Byte} {x : Plan} (h : q.foyerPlan rec_ = some x) :
    x.foyer = true ∧ x.hdr.pgroups = 0 ∧ x.hdr.cgroups = 1 := by
  unfold Part.foyerPlan at h
  dsimp only at h
  split at h
  · cases h
  · split at h
    next _ hdr _ ok =>
      simp only [Bool.and_eq_true, beq_iff_eq] at ok
      obtain rfl := Option.some.inj h
      exact ⟨rfl, ok.1.1.1, ok.1.1.2⟩
    · cases h

theorem schedFoyerrec_refused {s : State} {p : Nat} {q : Part} (v : DWord) (hp : s.part? p = some q) (h : s.mayStartFoyer q = false) :
    exec (.schedFoyerrec p v) s = .next s := by
  have step : exec (.schedFoyerrec p v) s = execSchedFoyerrec p v s := rfl
  rw [step, execSchedFoyerrec, hp]
  dsimp only
  rw [h, Bool.and_false]
  rfl

theorem schedFoyerrec_open {s : State} {p : Nat} {q : Part} (v : DWord) (hp : s.part? p = some q) (vf : q.vfOpen true = true)
    (may : s.mayStartFoyer q = true) : exec (.schedFoyerrec p v) s = .next (s.startFoyer q v.toNat).spend := by
  have step : exec (.schedFoyerrec p v) s = execSchedFoyerrec p v s := rfl
  rw [step, execSchedFoyerrec, hp]
  dsimp only
  rw [vf, may]
  rfl

/-- R367, R369: the foyer of a launch record that is read. -/
theorem foyerAt_read {s : State} {q : Part} {va hall : Nat} {rec_ : List Byte} (hh : q.halls.head? = some hall)
    (hr : s.readVa q { party := .outside, beginH := s.seq, beginP := s.seq, beginY := s.seq, sysHome := false } [] s.free va 64 = some rec_) :
    s.foyerAt q va = if va % 64 == 0 then (q.foyerPlan rec_).map fun x => (x, hall) else none := by
  simp only [State.foyerAt, hr, hh]

theorem schedFoyerrec_spec {s : State} {p : Nat} (v : DWord) {q : Part} (hp : s.part? p = some q) {rec_ : List Byte} {hall : Nat}
    (vf : q.vfOpen true = true) (may : s.mayStartFoyer q = true) (hh : q.halls.head? = some hall)
    (hr : s.readVa q { party := .outside, beginH := s.seq, beginP := s.seq, beginY := s.seq, sysHome := false } [] s.free v.toNat 64 = some rec_) :
    (q.foyerPlan rec_ = none ∨ v.toNat % 64 ≠ 0 → exec (.schedFoyerrec p v) s = .next s.spend) ∧
    ∀ x, q.foyerPlan rec_ = some x → v.toNat % 64 = 0 → ∃ (t : State) (team : Team) (q' : Part), exec (.schedFoyerrec p v) s = .next t ∧
      t.part? p = some q' ∧ q'.sched.foyerState = 1 ∧ q'.ctxState = 1 ∧ q'.sched.foyerTeam = some s.teams.length ∧
      t.teams[s.teams.length]? = some team ∧ team.foyer = true ∧ team.hall = hall ∧ team.hdr = x.hdr ∧ team.hdr.pgroups = 0 ∧
      team.hdr.cgroups = 1 := by
  rw [schedFoyerrec_open v hp vf may]
  have found := foyerAt_read (va := v.toNat) hh hr
  refine ⟨fun none_ => ?_, fun x plan aligned => ?_⟩
  · have nothing : s.foyerAt q v.toNat = none := by
      rw [found]
      rcases none_ with plan | unaligned
      · rw [plan, Option.map_none, ite_self]
      · rw [if_neg (by simpa using unaligned)]
    simp only [State.startFoyer, nothing]
  · rw [plan, Option.map_some, if_pos (by simpa using aligned)] at found
    obtain ⟨foyer, pgroups, cgroups⟩ := foyerPlan_spec plan
    obtain ⟨⟨team, hteam, same⟩, -, parts, -⟩ := startTeam_spec s x hall 0 q.sched.deadline
    obtain ⟨q₁, hq₁, -⟩ := parts q.id q (by rw [part?_id hp, hp])
    have hq₂ := part?_updPart_same (f := Part.startsFoyer s.teams.length) (fun p => rfl) hq₁
    rw [part?_id hp] at hq₂
    rw [startFoyer_eq found, part?_id hp]
    have teams : ∀ (u : State) (f : Part → Part), (u.updPart p f).spend.teams = u.teams := fun _ _ => rfl
    have spent : ∀ u : State, u.spend.part? p = u.part? p := fun _ => rfl
    refine ⟨_, team, _, rfl, (spent _).trans hq₂, rfl, rfl, rfl, by rw [teams, hteam], same.foyer.trans foyer, same.hall, same.hdr, ?_, ?_⟩
    · rw [same.hdr]
      exact pgroups
    · rw [same.hdr]
      exact cgroups

end Sys2Proof.Machine
end

section
/-! PROOFS. What a read of the device rests on: memory, history, keys, tables and the places of its reader's BEGINs; not on groups, teams, halls,
code objects or the state of a hold (R46, R256, R392, R431 to R434). -/

namespace Sys2Proof.Machine

/-! ### Walks of a partition do not read its code objects, nor its hold -/

/-- A partition with other code objects and another hold. -/
def Part.told (o : List CodeObject) (c : PartCc) (p : Part) : Part := { p with objects := o, cc := c }

section
variable (mem : Mem) (p : Part) (o : List CodeObject) (c : PartCc)

theorem classKey_told (cls addr : Nat) : classKey mem (p.told o c) cls addr = classKey mem p cls addr := rfl

theorem classWrite_told (cls addr : Nat) : classWrite mem (p.told o c) cls addr = classWrite mem p cls addr := rfl

theorem leafMeets_told (key n fuel level table : Nat) :
    leafMeets mem (p.told o c) key n fuel level table = leafMeets mem p key n fuel level table := by
  induction fuel generalizing level table with
  | zero => rfl
  | succ fuel ih => simp only [leafMeets, classKey_told, ih]

theorem maps_told (key n : Nat) : (p.told o c).maps mem key n = p.maps mem key n := leafMeets_told mem p o c key n 5 4 _

theorem walk2From_told (k : Walker) (gpa fuel level table : Nat) :
    walk2From k (p.told o c) gpa fuel level table = walk2From k p gpa fuel level table := by
  induction fuel generalizing level table with
  | zero => rfl
  | succ fuel ih => simp only [walk2From, classKey_told, classWrite_told, ih]

theorem walk2_told (k : Walker) (gpa : Nat) : walk2 k (p.told o c) gpa = walk2 k p gpa := walk2From_told p o c k gpa 5 4 _

theorem sharedMeets_told (key n fuel level table : Nat) :
    sharedMeets mem (p.told o c) key n fuel level table = sharedMeets mem p key n fuel level table := by
  induction fuel generalizing level table with
  | zero => rfl
  | succ fuel ih => simp only [sharedMeets, walk2_told, ih]

end

/-! ### States that read alike -/

/-- A later state that the device reads as an earlier one: only teams, groups, halls, due events, code objects and holds may differ, and later
BEGINs have taken places in the scope order. -/
structure SameReads (s t : State) : Prop where
  parts : ∃ (o : Part → List CodeObject) (c : Part → PartCc), t.parts = s.parts.map fun p => p.told (o p) (c p)
  seq : s.seq ≤ t.seq
  rest : t = { s with teams := t.teams, groups := t.groups, halls := t.halls, seq := t.seq, events := t.events, parts := t.parts }

theorem SameReads.refl (s : State) : SameReads s s :=
  ⟨⟨Part.objects, Part.cc, ((List.map_congr_left fun _ _ => rfl).trans (List.map_id _)).symm⟩, Nat.le_refl _, rfl⟩

theorem SameReads.trans {a b c : State} (h : SameReads a b) (k : SameReads b c) : SameReads a c := by
  obtain ⟨o, x, eq⟩ := h.parts
  obtain ⟨o', x', eq'⟩ := k.parts
  refine ⟨⟨fun p => o' (p.told (o p) (x p)), fun p => x' (p.told (o p) (x p)), ?_⟩, h.seq.trans k.seq, ?_⟩
  · rw [eq', eq, List.map_map]
    rfl
  · have e := k.rest
    rw [h.rest] at e
    exact e

/-- Changes of teams, groups, halls, due events, and later places in the scope order, do not matter to reads. -/
theorem SameReads.beside (s : State) (ts : List Team) (gs : List Group) (hs : List Hall) {q : Nat} (es : List Instr) (later : s.seq ≤ q) :
    SameReads s { s with teams := ts, groups := gs, halls := hs, seq := q, events := es } :=
  ⟨(SameReads.refl s).parts, later, rfl⟩

theorem SameReads.updPart (s : State) (id : Nat) {f : Part → Part} (hf : ∀ p, f p = p.told (f p).objects (f p).cc) :
    SameReads s (s.updPart id f) := by
  refine ⟨⟨fun p => if p.id == id then (f p).objects else p.objects, fun p => if p.id == id then (f p).cc else p.cc, ?_⟩, Nat.le_refl _, rfl⟩
  refine List.map_congr_left fun p _ => ?_
  dsimp only
  split
  · exact hf p
  · rfl

section
variable {s t : State} (h : SameReads s t)
include h

theorem SameReads.protects (own : Option Nat) (shr : Bool) (gran : Nat) : t.protects own shr gran = s.protects own shr gran := by
  obtain ⟨o, c, parts⟩ := h.parts
  cases own with
  | none => rfl
  | some id =>
    have found : t.part? id = (s.part? id).map fun p => p.told (o p) (c p) := by
      rw [State.part?, parts, List.find?_map]
      rfl
    simp only [State.protects, Option.bind_some, found, Option.any_map]
    rfl

theorem SameReads.sealer (own : Option Nat) (shr : Bool) (gran : Nat) : t.sealer own shr gran = s.sealer own shr gran := by
  rw [State.sealer, State.sealer, h.protects, h.rest]
  rfl

theorem SameReads.keyless (own : Option Nat) (shr : Bool) (gran : Nat) : t.keyless own shr gran = s.keyless own shr gran := by
  rw [State.keyless, State.keyless, h.protects, h.sealer]

theorem SameReads.torn (own : Option Nat) (shr : Bool) (gran : Nat) : t.torn own shr gran = s.torn own shr gran := by
  have alike : t.broken = s.broken ∧ t.homes = s.homes ∧ t.mem = s.mem := by
    rw [h.rest]
    exact ⟨rfl, rfl, rfl⟩
  obtain ⟨broken, homes, mem⟩ := alike
  simp only [State.torn, State.foreign, h.sealer, h.keyless, broken, homes, mem]

theorem SameReads.unreadable (p : Part) : t.unreadable p = s.unreadable p := by
  have alike : t.broken = s.broken ∧ t.homes = s.homes ∧ t.poisonNow = s.poisonNow := by
    rw [h.rest]
    exact ⟨rfl, rfl, rfl⟩
  obtain ⟨broken, homes, poison⟩ := alike
  have torn : t.torn (some p.id) false = s.torn (some p.id) false := funext fun gran => h.torn _ _ gran
  simp only [State.unreadable, torn, broken, homes, poison]

theorem SameReads.refusesLeaf (p : Part) : t.refusesLeaf p = s.refusesLeaf p := by
  obtain ⟨o, c, parts⟩ := h.parts
  have mem : t.mem = s.mem := by rw [h.rest]
  funext key n write
  simp only [State.refusesLeaf, State.ownerPlain, State.auditorPage, parts, mem, List.any_map, Function.comp_def, maps_told, sharedMeets_told]
  rfl

theorem SameReads.vaXlate (p : Part) (va : Nat) : t.vaXlate p va = s.vaXlate p va := by
  have mem : t.walkMem = s.walkMem := by
    rw [h.rest]
    rfl
  simp only [State.vaXlate, State.translate, State.walker, h.unreadable, h.refusesLeaf, mem]

end

/-! ### Readers that every commit matches alike (R46) -/

theorem mem_versionsFrom {base : List Byte} {cs : List Commit} {acc : List (Commit × List Byte)} {v : Commit × List Byte}
    (h : v ∈ versionsFrom base cs acc) : v.1 ∈ cs ∨ v ∈ acc := by
  induction cs generalizing base acc with
  | nil => exact .inr h
  | cons c cs ih =>
    rcases ih h with old | new
    · exact .inl (List.mem_cons_of_mem _ old)
    · rcases List.mem_cons.mp new with rfl | new
      · exact .inl List.mem_cons_self
      · exact .inr new

/-- Two readers of one party, at places of the scope order that the same commits of a list precede. -/
structure AlikeReaders (cs : List Commit) (r r' : Reader) : Prop where
  rest : r' = { r with beginH := r'.beginH, beginP := r'.beginP }
  matched : ∀ c ∈ cs, c.matched r' = c.matched r

theorem AlikeReaders.mono {cs ds : List Commit} {r r' : Reader} (h : AlikeReaders cs r r') (sub : ∀ c ∈ ds, c ∈ cs) : AlikeReaders ds r r' :=
  ⟨h.rest, fun c hc => h.matched c (sub c hc)⟩

theorem takeWhile_congr {α : Type} {p q : α → Bool} {l : List α} (h : ∀ x ∈ l, p x = q x) : l.takeWhile p = l.takeWhile q := by
  induction l with
  | nil => rfl
  | cons a l ih =>
    rw [List.takeWhile_cons, List.takeWhile_cons, h a List.mem_cons_self, ih fun x hx => h x (List.mem_cons_of_mem _ hx)]

theorem versionsTo_alike {cs : List Commit} {r r' : Reader} (h : AlikeReaders cs r r') (base : List Byte) :
    versionsTo r' base cs = versionsTo r base cs := by
  have newer : (versionsFrom base cs []).takeWhile (fun v => !v.1.matched r') = (versionsFrom base cs []).takeWhile fun v => !v.1.matched r :=
    takeWhile_congr fun v hv => by
      rcases mem_versionsFrom hv with old | none_
      · rw [h.matched _ old]
      · exact absurd none_ List.not_mem_nil
  simp only [versionsTo, newer]

theorem any_congr {α : Type} {p q : α → Bool} {l : List α} (h : ∀ x ∈ l, p x = q x) : l.any p = l.any q := by
  induction l with
  | nil => rfl
  | cons a l ih => rw [List.any_cons, List.any_cons, h a List.mem_cons_self, ih fun x hx => h x (List.mem_cons_of_mem _ hx)]

section
variable {s : State} {r r' : Reader} (h : AlikeReaders s.hist r r')
include h

theorem visible_alike (c : Commit) : c.visible r' = c.visible r := by
  rw [h.rest]
  rfl

theorem candidates_alike (gran : Nat) : s.candidates r' gran = s.candidates r gran := by
  simp only [State.candidates, visible_alike h]
  have seen : ∀ x ∈ (s.hist.filter fun c => c.gran == gran && c.visible r).reverse, x ∈ s.hist := fun x hx =>
    (List.mem_filter.mp (List.mem_reverse.mp hx)).1
  split
  · rfl
  next c rest eq =>
    rw [eq] at seen
    have all := h.mono seen
    have older := all.mono fun x hx => List.mem_cons_of_mem c hx
    split
    · have near := older.mono fun x hx => (List.takeWhile_sublist fun x : Commit => !x.atHome).mem hx
      have far : ∀ x ∈ rest.drop (rest.takeWhile fun x => !x.atHome).length, x.matched r' = x.matched r := fun x hx =>
        older.matched x (List.mem_of_mem_drop hx)
      rw [versionsTo_alike older, versionsTo_alike near, any_congr far]
    · exact versionsTo_alike all _

theorem granVersion_alike (n gran : Nat) : s.granVersion r' n gran = s.granVersion r n gran := by
  have places : ∀ sec, s.sectorPlaces r' sec = s.sectorPlaces r sec := fun sec => by simp only [State.sectorPlaces, visible_alike h]
  have sectors : r'.sectors = r.sectors ∧ r'.grans = r.grans := by
    rw [h.rest]
    exact ⟨rfl, rfl⟩
  simp only [State.granVersion, candidates_alike h, places, sectors]

theorem readSpan_alike (own : List OwnStore) (n key count : Nat) : s.readSpan r' own n key count = s.readSpan r own n key count := by
  have view : s.viewByte r' = s.viewByte r := by
    rw [h.rest]
    rfl
  have home : r'.sysHome = r.sysHome := by rw [h.rest]
  simp only [State.readSpan, State.readPlain, granVersion_alike h, view, home]

end

section
variable {s t : State} (h : SameReads s t)
include h

theorem SameReads.readSpan (r : Reader) (own : List OwnStore) (n key count : Nat) : t.readSpan r own n key count = s.readSpan r own n key count := by
  have view : t.viewByte r = s.viewByte r := by
    have sealed : t.sealedFrom r = s.sealedFrom r := by
      funext sec
      have homes : t.homes = s.homes := by rw [h.rest]
      simp only [State.sealedFrom, homes, h.sealer]
    funext key plain
    rw [State.viewByte, State.viewByte, sealed, h.rest]
    rfl
  have plain : t.readPlain r own n key count = s.readPlain r own n key count := by
    rw [h.rest]
    rfl
  have homes : t.homes = s.homes := by rw [h.rest]
  simp only [State.readSpan, view, plain, homes]

/-- A read by virtual address of a team's frame finds at a later place what it found before, where no commit lies between. -/
theorem SameReads.readFrame (before : ∀ c ∈ s.hist, c.seq < s.seq) (p : Part) (team : Team) (va n : Nat) :
    t.readVa p (t.frameReader team) [] t.free va n = s.readVa p (s.frameReader team) [] s.free va n := by
  have free : t.free = s.free := by rw [h.rest]
  have alike : ∀ (shr : Bool), AlikeReaders s.hist { s.frameReader team with own := some p.id, shr := shr }
      { t.frameReader team with own := some p.id, shr := shr } := by
    refine fun shr => ⟨rfl, fun c hc => ?_⟩
    have now : decide (c.seq < t.seq) = decide (c.seq < s.seq) := by
      rw [decide_eq_true (before c hc), decide_eq_true (Nat.lt_of_lt_of_le (before c hc) h.seq)]
    have begun : ∀ sc : Scope, (decide (c.seq < ({ t.frameReader team with own := some p.id, shr := shr } : Reader).beginAt sc)) =
        decide (c.seq < ({ s.frameReader team with own := some p.id, shr := shr } : Reader).beginAt sc) := by
      intro sc
      cases sc with
      | g => exact now
      | h => exact now
      | p => exact now
      | y => rfl
    simp only [Commit.matched, begun]
    rfl
  simp only [State.readVa, h.vaXlate, h.readSpan, free, fun shr => readSpan_alike (alike shr)]

end

end Sys2Proof.Machine
end

section
/-! PROOFS. The return of a saved team, whose frame holds what its save wrote (R42, R184, R322, R375, R383, R384, R390, R434). -/

namespace Sys2Proof.Machine

/-! ### A saved group goes on (R383, R384) -/

/-- A group goes on where its save left it. -/
def Group.resumedFrom (g g' : Group) : Prop := g'.saved = none ∧ g'.ctl = g.ctl ∧ g'.regs.s = g.regs.s

theorem foldl_setV_scalars (f : Nat → Lanes Word) (ns : List Nat) (r : Regs) : (ns.foldl (fun r n => r.setV n (f n)) r).s = r.s := by
  induction ns generalizing r with
  | nil => rfl
  | cons n ns ih =>
    rw [List.foldl_cons, ih]
    rfl

theorem restoreRegs_scalars (s : State) (p : Part) (t : Team) (g : Group) (live : Option (BitVec 16)) : (s.restoreRegs p t g live).s = g.regs.s :=
  foldl_setV_scalars _ _ _

/-- R384: the record of a group of a saved team, as the device reads it, holds what the save wrote. -/
def State.recordKept (s : State) (p : Part) (t : Team) (g : Group) : Prop :=
  ∀ bs, s.readVa p (s.frameReader t) [] s.free (t.slotAddr g.id + saveSlotBytes) (8192 - saveSlotBytes) = some bs →
    bs = keptBytes g.kept (8192 - saveSlotBytes)

/-- R384: the block of a saved team, as the device reads it, holds what the save wrote. -/
def State.blockKept (s : State) (p : Part) (t : Team) : Prop :=
  ∀ bs, s.readVa p (s.frameReader t) [] s.free (t.saveFrame + t.hdr.recordAt t.hdr.groupCount) 8192 = some bs → bs = keptBytes t.kept 8192

/-- R384: where a record holds what the save wrote, the group's state stands. -/
theorem restoreRest_kept {s : State} {p : Part} {t : Team} {g : Group} (kept : s.recordKept p t g) : s.restoreRest p t g = g := by
  unfold State.restoreRest
  split
  next bs read => rw [if_pos (beq_iff_eq.mpr (kept bs read))]
  · rfl

/-- R384: where a block holds what the save wrote, the team stands. -/
theorem restoreBlock_kept {s : State} {p : Part} {t : Team} (kept : s.blockKept p t) : s.restoreBlock p t = t := by
  unfold State.restoreBlock
  split
  next bs read => rw [if_pos (beq_iff_eq.mpr (kept bs read))]
  · rfl

/-- What the return of one group changes: the group, and beside it what no read rests on. -/
structure ResumeOnly (gi : Nat) (s t : State) : Prop where
  reads : SameReads s t
  teams : t.teams = s.teams
  groups : ∀ j, j ≠ gi → t.groups[j]? = s.groups[j]?

theorem ResumeOnly.refl (gi : Nat) (s : State) : ResumeOnly gi s s := ⟨.refl s, rfl, fun _ _ => rfl⟩

theorem ResumeOnly.trans {gi : Nat} {a b c : State} (h : ResumeOnly gi a b) (k : ResumeOnly gi b c) : ResumeOnly gi a c :=
  ⟨h.reads.trans k.reads, k.teams.trans h.teams, fun _ hj => (k.groups _ hj).trans (h.groups _ hj)⟩

theorem updGroup_resumeOnly (s : State) (gi : Nat) (f : Group → Group) : ResumeOnly gi s (s.updGroup gi f) :=
  ⟨.beside s _ _ _ _ (Nat.le_refl _), rfl, fun _ hj => listModify_get_other _ _ _ _ hj⟩

theorem due_resumeOnly (s : State) (gi : Nat) (e : Instr) : ResumeOnly gi s (s.due e) := by
  unfold State.due
  split
  · exact .refl gi s
  · exact ⟨.beside s _ _ _ _ (Nat.le_refl _), rfl, fun _ _ => rfl⟩

theorem excuse_resumeOnly (s : State) (gi gj : Nat) : ResumeOnly gi s (s.excuse gj) := by
  unfold State.excuse
  split
  · exact .refl gi s
  · split
    · exact ⟨.updPart s _ fun _ => rfl, rfl, fun _ _ => rfl⟩
    · exact .refl gi s

theorem beginGroup_resumeOnly (s : State) (gi : Nat) (sc : Scope) : ResumeOnly gi s (s.beginGroup gi sc) := by
  have begun : ResumeOnly gi s (s.begun gi sc) :=
    ⟨.beside s _ _ _ _ (Nat.le_succ _), rfl, fun _ hj => listModify_get_other _ _ _ _ hj⟩
  rcases beginGroup_cases s gi sc with eq | eq | ⟨hs, eq⟩
  · rw [eq]
    exact .refl gi s
  · rw [eq]
    exact begun
  · rw [eq]
    have lines : ResumeOnly gi (s.begun gi sc) { s.begun gi sc with halls := hs } := ⟨.beside _ _ _ _ _ (Nat.le_refl _), rfl, fun _ _ => rfl⟩
    exact (begun.trans lines).trans (excuse_resumeOnly _ gi gi)

/-- R183, R184: with the header's flag a region opens where none is. -/
def Group.reopens (h : Header) (g : Group) : Group :=
  match g.region with
  | some _ => g
  | none => g.autoRegion h (((g.ctl.get g.ctl.cur).map Entry.first).getD { obj := 0, off := 0 }) g.retire
      (((g.ctl.get g.ctl.cur).map Entry.rpt).getD 0)

theorem Group.reopens_sameTask (h : Header) (g : Group) : SameTask g (g.reopens h) := by
  unfold Group.reopens Group.autoRegion
  split
  · exact .refl g
  · split
    · exact ⟨rfl, rfl, rfl, rfl, rfl, rfl⟩
    · exact .refl g

/-- R383: a saved group whose record was read, before its BEGIN. -/
def Group.reloaded (age : Nat) (r : Regs) (g : Group) : Group :=
  { g with saved := none, age := age, regs := r, watch := g.watch.map fun w => { w with fired := true }, ctrl := { g.ctrl with preq := false } }

/-- R42, R383: a saved group after its BEGIN. -/
def State.rebegun (s : State) (gi : Nat) (k : SaveKind) (g : Group) : State :=
  match k with
  | .quiescent => s.updGroup gi fun _ => g
  | _ => (s.updGroup gi fun _ => g).beginGroup gi .p

theorem rebegun_spec {s : State} {gi : Nat} {g₀ : Group} (k : SaveKind) (g : Group) (h : s.groups[gi]? = some g₀) :
    ResumeOnly gi s (s.rebegun gi k g) ∧ ∃ g', (s.rebegun gi k g).groups[gi]? = some g' ∧ SameTask g g' := by
  have put := updGroup_resumeOnly s gi fun _ => g
  have hg : (s.updGroup gi fun _ => g).groups[gi]? = some g := by rw [updGroup_get_same, h, Option.map_some]
  unfold State.rebegun
  split
  · exact ⟨put, g, hg, .refl g⟩
  · exact ⟨put.trans (beginGroup_resumeOnly _ gi .p), (beginGroup_seatOnly _ gi .p).groups gi g hg⟩

theorem resumeGroup_unsaved {s : State} {p : Part} {t : Team} {gi age : Nat} {g : Group} (h : s.groups[gi]? = some g) (running : g.saved = none) :
    s.resumeGroup p t gi age = s := by
  simp only [State.resumeGroup, h, running]

/-- R42, R184, R291, R383: a saved group, whose record holds what its save wrote, goes on. -/
theorem resumeGroup_saved {s : State} {p : Part} {t : Team} {gi : Nat} (age : Nat) {g : Group} {k : SaveKind} (h : s.groups[gi]? = some g)
    (saved : g.saved = some k) (rest : s.restoreRest p t g = g) :
    ResumeOnly gi s (s.resumeGroup p t gi age) ∧ ∃ g', (s.resumeGroup p t gi age).groups[gi]? = some g' ∧ g.resumedFrom g' := by
  let live := match k with
    | .cooperative m => m
    | _ => none
  let back := g.reloaded age (s.restoreRegs p t g live)
  let u := (s.rebegun gi k back).updGroup gi (Group.reopens t.hdr)
  let v := if g.phase == .running && g.ctl.live == 0 then u.due (.groupExitComplete gi) else u
  have eq : s.resumeGroup p t gi age = if !g.activeLog.isEmpty then v.due (.faultReplay gi) else v := by
    simp only [State.resumeGroup, h, saved, rest]
    rfl
  obtain ⟨begun, g₁, hg₁, same₁⟩ := rebegun_spec k back h
  have hu : u.groups[gi]? = some (g₁.reopens t.hdr) := by rw [updGroup_get_same, hg₁, Option.map_some]
  have same := same₁.trans (Group.reopens_sameTask t.hdr g₁)
  have noted : ∀ (c : Bool) (w : State) (e : Instr), ResumeOnly gi w (if c then w.due e else w) ∧ (if c then w.due e else w).groups = w.groups := by
    intro c w e
    cases c with
    | false => exact ⟨.refl gi w, rfl⟩
    | true => exact ⟨due_resumeOnly w gi e, by simp⟩
  rw [eq]
  refine ⟨((begun.trans (updGroup_resumeOnly _ gi _)).trans (noted _ _ _).1).trans (noted _ _ _).1, g₁.reopens t.hdr, ?_, same.saved, same.ctl, ?_⟩
  · rw [(noted _ _ _).2, (noted _ _ _).2, hu]
  · rw [same.regs]
    exact restoreRegs_scalars s p t g live

end Sys2Proof.Machine
end

section
/-! PROOFS. The return of a saved team on a hall, whose groups all go on (R245, R322, R367, R375, R383, R390, R434). -/

namespace Sys2Proof.Machine

/-! ### Every group of a saved team goes on (R383) -/

/-- Since a state, the saved ones of some groups have gone on, and any other group may have too. -/
structure Resuming (s u : State) (done : Nat → Prop) : Prop where
  reads : SameReads s u
  none_ : ∀ gi : Nat, s.groups[gi]? = none → u.groups[gi]? = none
  groups : ∀ (gi : Nat) (g : Group), s.groups[gi]? = some g → ∃ g', u.groups[gi]? = some g' ∧
    (g.resumedFrom g' ∨ g' = g ∧ (done gi → g.saved = none))

theorem Resuming.begin {s u : State} (reads : SameReads s u) (groups : u.groups = s.groups) : Resuming s u fun _ => False :=
  ⟨reads, fun _ h => by rw [groups, h], fun _ g h => ⟨g, by rw [groups, h], .inr ⟨rfl, False.elim⟩⟩⟩

/-- The return of one group of the state adds it to those that have gone on. -/
theorem Resuming.step {s u v : State} {done : Nat → Prop} {gi : Nat} (h : Resuming s u done) (only : ResumeOnly gi u v)
    {g g' : Group} (hg : s.groups[gi]? = some g) (hg' : v.groups[gi]? = some g') (now : g.resumedFrom g' ∨ g' = g ∧ g.saved = none) :
    Resuming s v fun j => j = gi ∨ done j := by
  refine ⟨h.reads.trans only.reads, fun j hj => ?_, fun j x hx => ?_⟩
  · have other : j ≠ gi := fun e => by
      rw [e, hg] at hj
      cases hj
    rw [only.groups j other, h.none_ j hj]
  · by_cases e : j = gi
    · subst e
      obtain rfl : g = x := Option.some.inj (hg.symm.trans hx)
      exact ⟨g', hg', now.imp_right fun now => ⟨now.1, fun _ => now.2⟩⟩
    · obtain ⟨x', hx', was⟩ := h.groups j x hx
      exact ⟨x', by rw [only.groups j e, hx'], was.imp_right fun was => ⟨was.1, fun d => was.2 (d.resolve_left e)⟩⟩

/-- A group that the state does not have has nothing to go on with. -/
theorem Resuming.skip {s u : State} {done : Nat → Prop} {gi : Nat} (h : Resuming s u done) (hg : s.groups[gi]? = none) :
    Resuming s u fun j => j = gi ∨ done j := by
  refine ⟨h.reads, h.none_, fun j x hx => ?_⟩
  have other : j ≠ gi := fun e => by
    rw [e, hg] at hx
    cases hx
  obtain ⟨x', hx', was⟩ := h.groups j x hx
  exact ⟨x', hx', was.imp_right fun was => ⟨was.1, fun d => was.2 (d.resolve_left other)⟩⟩

/-- R383: the return of one group of a team. -/
def State.resumeOne (p : Part) (t : Team) (age : Nat) (s : State) (gi : Nat) : State :=
  match s.groups[gi]? with
  | some g => s.resumeGroup p t gi (age + g.id)
  | none => s

theorem resumeOne_resuming {s u : State} {done : Nat → Prop} (h : Resuming s u done) (before : ∀ c ∈ s.hist, c.seq < s.seq) {p : Part} {t : Team}
    (age : Nat) {gi : Nat} (kept : ∀ g, s.groups[gi]? = some g → s.recordKept p t g) :
    Resuming s (u.resumeOne p t age gi) (fun j => j = gi ∨ done j) ∧ (u.resumeOne p t age gi).teams = u.teams := by
  cases hg : s.groups[gi]? with
  | none =>
    simp only [State.resumeOne, h.none_ gi hg]
    exact ⟨h.skip hg, trivial⟩
  | some g =>
    obtain ⟨g', hg', now⟩ := h.groups gi g hg
    simp only [State.resumeOne, hg']
    rcases now with resumed | ⟨rfl, -⟩
    · rw [resumeGroup_unsaved hg' resumed.1]
      exact ⟨h.step (.refl gi u) hg hg' (.inl resumed), rfl⟩
    · cases saved : g'.saved with
      | none =>
        rw [resumeGroup_unsaved hg' saved]
        exact ⟨h.step (.refl gi u) hg hg' (.inr ⟨rfl, saved⟩), rfl⟩
      | some k =>
        have rest : u.restoreRest p t g' = g' := restoreRest_kept fun bs read => kept g' hg bs (by rw [← h.reads.readFrame before, read])
        obtain ⟨only, g'', hg'', resumed⟩ := resumeGroup_saved (age + g'.id) hg' saved rest
        exact ⟨h.step only hg hg'' (.inl resumed), only.teams⟩

theorem resumeAll_resuming {s : State} (before : ∀ c ∈ s.hist, c.seq < s.seq) {p : Part} {t : Team} (age : Nat) (gis : List Nat)
    (kept : ∀ gi ∈ gis, ∀ g, s.groups[gi]? = some g → s.recordKept p t g) {u : State} {done : Nat → Prop} (h : Resuming s u done) :
    Resuming s (gis.foldl (State.resumeOne p t age) u) (fun j => j ∈ gis ∨ done j) ∧ (gis.foldl (State.resumeOne p t age) u).teams = u.teams := by
  induction gis generalizing u done with
  | nil => exact ⟨⟨h.reads, h.none_, fun j g hg => (h.groups j g hg).imp fun _ x =>
      ⟨x.1, x.2.imp_right fun now => ⟨now.1, fun d => now.2 (d.resolve_left List.not_mem_nil)⟩⟩⟩, rfl⟩
  | cons gi gis ih =>
    obtain ⟨one, teams⟩ := resumeOne_resuming h before age (kept gi List.mem_cons_self)
    obtain ⟨all, teams'⟩ := ih (fun gj hj => kept gj (List.mem_cons_of_mem _ hj)) one
    refine ⟨⟨all.reads, all.none_, fun j g hg => (all.groups j g hg).imp fun _ x => ⟨x.1, x.2.imp_right fun now => ⟨now.1, fun d => now.2 ?_⟩⟩⟩,
      teams'.trans teams⟩
    rcases d with mem | d
    · rcases List.mem_cons.mp mem with rfl | mem
      · exact .inr (.inl rfl)
      · exact .inl mem
    · exact .inr (.inr d)

/-! ### The team returns (R245, R322, R383, R390, R434) -/

theorem beginHold_sameReads (s : State) (p : Nat) (cause : BitVec 2) :
    SameReads s (s.beginHold p cause) ∧ (s.beginHold p cause).groups = s.groups ∧ (s.beginHold p cause).teams = s.teams := by
  unfold State.beginHold
  split
  · exact ⟨.refl s, rfl, rfl⟩
  · split
    · refine ⟨(SameReads.updPart s p fun _ => rfl).trans (due_resumeOnly _ 0 _).reads, by simp, by simp⟩
    · exact ⟨.refl s, rfl, rfl⟩

theorem updCmd_seatOnly (s : State) (n : Nat) (f : Cmd → Cmd) : SeatOnly s (s.updCmd n f) := .same rfl rfl rfl rfl

theorem requeue_seatOnly (s : State) (ti hall : Nat) : SeatOnly s (s.requeue ti hall) :=
  SeatOnly.foldl (α := Cmd × Nat) (fun u x => (updCmd_seatOnly u x.2 _).trans (due_seatOnly _ (runEvent x.1.instr x.2))) _ s

/-- R322: where no decrements are held for a team, none is applied. -/
theorem applyHeld_seatOnly {s : State} {ti : Nat} {t : Team} (ht : s.teams[ti]? = some t) (none_ : t.held = []) : SeatOnly s (s.applyHeld ti) := by
  simp only [State.applyHeld, ht, none_, List.foldl_nil]
  refine updTeam_seatOnly s ti fun t' ht' => ?_
  obtain rfl : t = t' := Option.some.inj (ht.symm.trans ht')
  rw [← none_]
  exact .refl t

/-- R383: a saved team on its new hall, before its frame is read. -/
def State.arrival (s : State) (t : Team) (hall est : Nat) : Team :=
  { t with hall := hall, phase := .resident, requested := false, byPreempt := false, byAuto := false, order := s.nextOrder, reserved := est }

/-- R434: a torn sector of a save frame holds the partition. -/
def State.checkFrame (s : State) (p : Part) (t : Team) : State :=
  if s.tornVa p t.saveFrame t.hdr.frameLen then s.beginHold p.id 2 else s

/-- R383: the groups of a team have gone on. -/
def State.regrouped (s : State) (p : Part) (ti hall : Nat) (t : Team) : State :=
  t.groups.foldl (State.resumeOne p t s.youngest) (((s.checkFrame p t).updTeam ti fun _ => s.restoreStores p t).resplit hall)

/-- R367, R395: some group of the team is parked. -/
def State.anyParked (s : State) (t : Team) : Bool :=
  t.groups.any fun gi => (s.groups[gi]?).any fun g => match g.phase with
    | .parked _ _ => true
    | _ => false

/-- R367: a foyer that returns runs, or is parked. -/
def State.foyerReturns (s : State) (p : Part) (foyer parked : Bool) : State :=
  if foyer then s.updPart p.id fun q => { q with sched := { q.sched with foyerState := if parked then 2 else 1 } } else s

theorem restoreTeam_eq {s : State} {ti : Nat} {team : Team} (p : Part) (hall est : Nat) (ht : s.teams[ti]? = some team) :
    s.restoreTeam p ti hall est =
      ((((s.regrouped p ti hall (s.arrival team hall est)).spend.requeue ti hall).applyHeld ti).fitPool hall).foyerReturns p team.foyer
        (s.anyParked team) := by
  simp only [State.restoreTeam, ht]
  rfl

theorem foyerReturns_kept (s : State) (p : Part) (foyer parked : Bool) :
    (s.foyerReturns p foyer parked).teams = s.teams ∧ (s.foyerReturns p foyer parked).groups = s.groups := by
  unfold State.foyerReturns
  split
  · exact ⟨rfl, rfl⟩
  · exact ⟨rfl, rfl⟩

/-- R383: once its groups have gone on, a team whose block and records hold what its save wrote stands as it was saved. -/
theorem regrouped_spec {s : State} {p : Part} {ti hall : Nat} {t team : Team} (ht : s.teams[ti]? = some team) (plain : s.holdsPrivate = false)
    (before : ∀ c ∈ s.hist, c.seq < s.seq) (block : s.restoreBlock p t = t)
    (kept : ∀ gi ∈ t.groups, ∀ g, s.groups[gi]? = some g → s.recordKept p t g) :
    Resuming s (s.regrouped p ti hall t) (fun j => j ∈ t.groups ∨ False) ∧
      ∃ t', (s.regrouped p ti hall t).teams[ti]? = some t' ∧
        t' = { t with spad := t'.spad, spadHist := t'.spadHist, tiles := t'.tiles, slots := t'.slots } := by
  have checked : SameReads s (s.checkFrame p t) ∧ (s.checkFrame p t).groups = s.groups ∧ (s.checkFrame p t).teams = s.teams := by
    unfold State.checkFrame
    split
    · exact beginHold_sameReads s p.id 2
    · exact ⟨.refl s, rfl, rfl⟩
  obtain ⟨reads, groups, teams⟩ := checked
  let placed := (s.checkFrame p t).updTeam ti fun _ => s.restoreStores p t
  have noPrivate : placed.holdsPrivate = false := by
    rw [State.holdsPrivate] at plain ⊢
    rw [State.updTeam_groups, groups, plain]
  obtain ⟨hs, split_⟩ := resplit_plain noPrivate hall
  have started : Resuming s { placed with halls := hs } fun _ => False :=
    .begin (reads.trans (.beside _ _ _ _ _ (Nat.le_refl _))) groups
  obtain ⟨all, same⟩ := resumeAll_resuming before s.youngest t.groups kept started
  rw [← split_] at all same
  have hplaced : placed.teams[ti]? = some (s.restoreStores p t) := updTeam_get_same _ (by rw [teams, ht])
  refine ⟨all, s.restoreStores p t, ?_, ?_⟩
  · rw [State.regrouped, same, split_]
    exact hplaced
  · rw [State.restoreStores, block]

/-- R375, R383: a saved team is seated: it stands as it was saved, and its groups go on. -/
theorem seat_saved_spec {s : State} {q : Part} {ti hall : Nat} {team : Team} (ht : s.teams[ti]? = some team) (unheld : team.held = [])
    (plain : s.holdsPrivate = false) (before : ∀ c ∈ s.hist, c.seq < s.seq)
    (block : s.blockKept q { team with hall := hall })
    (kept : ∀ gi ∈ team.groups, ∀ g, s.groups[gi]? = some g → s.recordKept q { team with hall := hall } g) :
    (∃ team', (s.seat q (.saved ti) hall).teams[ti]? = some team' ∧ team'.hall = hall ∧ team'.phase = .resident ∧ team'.requested = false ∧
      team'.knots = team.knots) ∧
    ∀ gi ∈ team.groups, ∀ g, s.groups[gi]? = some g → g.saved ≠ none →
      ∃ g', (s.seat q (.saved ti) hall).groups[gi]? = some g' ∧ g.resumedFrom g' := by
  let est := if team.foyer then 0 else q.estimate team.ref.obj team.hdr
  let t := s.arrival team hall est
  let u := s.regrouped q ti hall t
  have seated : s.seat q (.saved ti) hall = (s.restoreTeam q ti hall est).updPart q.id fun p => { p with energy := p.energy.reserve est } := by
    simp only [State.seat, ht]
    rfl
  obtain ⟨resumed, t₁, ht₁, stands⟩ := regrouped_spec (p := q) (hall := hall) (t := t) ht plain before (restoreBlock_kept block) kept
  have held : t₁.held = [] := by
    rw [stands]
    exact unheld
  have queued : SeatOnly u (u.spend.requeue ti hall) := (spend_seatOnly u).trans (requeue_seatOnly _ ti hall)
  obtain ⟨t₂, ht₂, same₂⟩ := queued.teams ti t₁ ht₁
  have applied : SeatOnly u (((u.spend.requeue ti hall).applyHeld ti).fitPool hall) :=
    (queued.trans (applyHeld_seatOnly ht₂ (by rw [same₂.rest]; exact held))).trans (fitPool_seatOnly _ hall)
  obtain ⟨teams, groups⟩ := foyerReturns_kept (((u.spend.requeue ti hall).applyHeld ti).fitPool hall) q team.foyer (s.anyParked team)
  rw [seated, State.updPart_teams, State.updPart_groups, restoreTeam_eq q hall est ht]
  refine ⟨?_, fun gi hgi g hg saved => ?_⟩
  · obtain ⟨t₃, ht₃, same⟩ := applied.teams ti t₁ ht₁
    refine ⟨t₃, by rw [teams, ht₃], ?_, ?_, same.asked ?_, ?_⟩
    · rw [same.hall, stands]
      rfl
    · rw [same.phase, stands]
      rfl
    · rw [stands]
      rfl
    · rw [same.knots, stands]
      rfl
  · obtain ⟨g₁, hg₁, now⟩ := resumed.groups gi g hg
    obtain ⟨unsaved, ctl, scalars⟩ := now.resolve_right fun now => saved (now.2 (.inl hgi))
    obtain ⟨g₂, hg₂, same⟩ := applied.groups gi g₁ hg₁
    exact ⟨g₂, by rw [groups, hg₂], same.saved.trans unsaved, same.ctl.trans ctl, by rw [same.regs, scalars]⟩

end Sys2Proof.Machine
end

section
/-! PROOFS. The statement on admissions, ends and the scheduler's windows (R30, R144, R177, R367, R372, R375, R377 to R379, R415). -/

namespace Sys2Proof.Machine

theorem admit_saved {s : State} {p : Nat} {q : Part} {ti hall : Nat} {team : Team} (hp : s.part? p = some q)
    (next : s.nextAdmit q = some (.saved ti, hall)) (ht : s.teams[ti]? = some team) (unheld : team.held = [])
    (plain : s.holdsPrivate = false) (before : ∀ c ∈ s.hist, c.seq < s.seq)
    (block : s.blockKept q { team with hall := hall })
    (kept : ∀ gi ∈ team.groups, ∀ g, s.groups[gi]? = some g → s.recordKept q { team with hall := hall } g) :
    ∃ (t : State) (team' : Team), exec (.teamAdmit p) s = .next t ∧ t.teams[ti]? = some team' ∧ team'.hall = hall ∧ team'.phase = .resident ∧
      team'.requested = false ∧ team'.knots = team.knots ∧
      ∀ gi ∈ team.groups, ∀ g, s.groups[gi]? = some g → g.saved ≠ none → ∃ g', t.groups[gi]? = some g' ∧ g'.saved = none ∧ g'.ctl = g.ctl ∧
        g'.regs.s = g.regs.s := by
  obtain ⟨⟨t₁, ht₁, hall₁, phase, requested, knots⟩, groups⟩ := seat_saved_spec ht unheld plain before block kept
  have left : SeatOnly (s.seat q (.saved ti) hall) (((s.seat q (.saved ti) hall).admitted q (.saved ti) hall).schedule p) :=
    (admitted_seatOnly _ _ _ _).trans (schedule_seatOnly _ p)
  obtain ⟨t₂, ht₂, same⟩ := left.teams ti t₁ ht₁
  refine ⟨_, t₂, exec_teamAdmit hp next, ht₂, same.hall.trans hall₁, same.phase.trans phase, same.asked requested, same.knots.trans knots,
    fun gi hgi g hg saved => ?_⟩
  obtain ⟨g₁, hg₁, unsaved, ctl, scalars⟩ := groups gi hgi g hg saved
  obtain ⟨g₂, hg₂, task⟩ := left.groups gi g₁ hg₁
  exact ⟨g₂, hg₂, task.saved.trans unsaved, task.ctl.trans ctl, by rw [task.regs, scalars]⟩

/-- Settles O43: what an admission seats, and what a start of the foyer, the ends of groups and teams and the scheduler's windows leave, each from
the frame of its steps. -/
theorem admissionEvents : Obligations.AdmissionEvents := by
  unfold Obligations.AdmissionEvents
  intro s
  refine ⟨fun p q o hall hp next => ⟨nextAdmit_order hp next, ?_, ?_⟩, fun p v q hp => ⟨schedFoyerrec_refused v hp, ?_⟩,
    fun ti team q => teamRelease_spec, fun gi g => groupExitComplete_spec, ?_, fun h hits x => lldWindowEnd_spec hits, bwEpoch_spec s⟩
  · rintro n g rfl hg
    exact admit_fresh hp next hg
  · rintro ti team rfl ht unheld plain before _ block kept
    exact admit_saved hp next ht unheld plain before block kept
  · exact fun rec_ hall vf may hh hr => schedFoyerrec_spec v hp vf may hh hr
  · intro gi k g e hg run _ he fresh kind wait
    exact strandOverdue_spec hg run he fresh ((isReady_iff g e).mpr ⟨kind, wait⟩)

end Sys2Proof.Machine
end

section
/-! PROOFS. Calls and returns: the call record, the words SPLICE, CALL and RET, and a CALLI of one target or of none (R130, R162, R171 to
R174). -/

namespace Sys2Proof.Machine

/-! ### The call record (R130) -/

/-- R130: the outstanding returns that a call record holds for an object. -/
def callCount (rec_ : List (Word × Nat)) (o : Word) : Nat := ((rec_.filter fun x => x.1 == o).map Prod.snd).sum

/-- R130: a call record has one entry for an object, at most 16, each with a count from 1 to 65,535. -/
structure CallSound (rec_ : List (Word × Nat)) : Prop where
  nodup : (rec_.map Prod.fst).Nodup
  length : rec_.length ≤ 16
  counts : ∀ x ∈ rec_, 1 ≤ x.2 ∧ x.2 ≤ 65535

theorem callCount_cons (x : Word × Nat) (rec_ : List (Word × Nat)) (o : Word) :
    callCount (x :: rec_) o = (if x.1 = o then x.2 else 0) + callCount rec_ o := by
  by_cases h : x.1 = o <;> simp [callCount, h]

theorem callCount_append (l m : List (Word × Nat)) (o : Word) : callCount (l ++ m) o = callCount l o + callCount m o := by
  simp [callCount]

theorem callCount_unlisted {rec_ : List (Word × Nat)} {o : Word} (h : ∀ x ∈ rec_, x.1 ≠ o) : callCount rec_ o = 0 := by
  have none_ : rec_.filter (fun x => x.1 == o) = [] := List.filter_eq_nil_iff.mpr fun x hx => by simpa using h x hx
  rw [callCount, none_]
  rfl

/-- In a record with one entry for an object, that entry has the object's count. -/
theorem callCount_listed {rec_ : List (Word × Nat)} (nodup : (rec_.map Prod.fst).Nodup) {x : Word × Nat} (hx : x ∈ rec_) :
    callCount rec_ x.1 = x.2 := by
  induction rec_ with
  | nil => exact absurd hx List.not_mem_nil
  | cons y ys ih =>
    rw [List.map_cons, List.nodup_cons] at nodup
    obtain ⟨new, nodup⟩ := nodup
    rw [callCount_cons]
    rcases List.mem_cons.mp hx with rfl | hx
    · have rest : callCount ys x.1 = 0 := callCount_unlisted fun y hy same => new (same ▸ List.mem_map_of_mem hy)
      simp [rest]
    · have other : y.1 ≠ x.1 := fun same => new (same ▸ List.mem_map_of_mem hx)
      rw [if_neg other, ih nodup hx, Nat.zero_add]

/-- An entry whose count is zero counts for no object. -/
theorem callCount_nonzero (rec_ : List (Word × Nat)) (o : Word) : callCount (rec_.filter fun x => x.2 != 0) o = callCount rec_ o := by
  induction rec_ with
  | nil => rfl
  | cons x xs ih =>
    rw [callCount_cons, List.filter_cons]
    split
    · rw [callCount_cons, ih]
    · next zero =>
      have zero : x.2 = 0 := by simpa using zero
      rw [ih, zero, ite_self, Nat.zero_add]

/-- A call record whose entry for an object has another count. -/
def callPut (obj : Word) (f : Nat → Nat) (rec_ : List (Word × Nat)) : List (Word × Nat) :=
  rec_.map fun x => if x.1 == obj then (x.1, f x.2) else x

section
variable (obj : Word) (f : Nat → Nat) (rec_ : List (Word × Nat))

theorem callPut_fst : (callPut obj f rec_).map Prod.fst = rec_.map Prod.fst := by
  rw [callPut, List.map_map]
  refine List.map_congr_left fun x _ => ?_
  simp only [Function.comp_apply]
  split <;> rfl

theorem callPut_length : (callPut obj f rec_).length = rec_.length := List.length_map _

theorem mem_callPut {y : Word × Nat} (h : y ∈ callPut obj f rec_) : ∃ x ∈ rec_, (x.1 = obj ∧ y = (x.1, f x.2)) ∨ (x.1 ≠ obj ∧ y = x) := by
  obtain ⟨x, hx, rfl⟩ := List.mem_map.mp h
  refine ⟨x, hx, ?_⟩
  by_cases same : x.1 = obj
  · exact .inl ⟨same, by simp [same]⟩
  · exact .inr ⟨same, by simp [same]⟩

theorem callPut_other {o : Word} (h : o ≠ obj) : callCount (callPut obj f rec_) o = callCount rec_ o := by
  induction rec_ with
  | nil => rfl
  | cons x xs ih =>
    rw [callPut, List.map_cons, ← callPut, callCount_cons, callCount_cons, ih]
    by_cases same : x.1 = obj
    · simp [same, h.symm]
    · simp [same]

end

theorem callPut_same {rec_ : List (Word × Nat)} (nodup : (rec_.map Prod.fst).Nodup) (f : Nat → Nat) {x : Word × Nat} (hx : x ∈ rec_) :
    callCount (callPut x.1 f rec_) x.1 = f x.2 := by
  have put : (x.1, f x.2) ∈ callPut x.1 f rec_ := List.mem_map.mpr ⟨x, hx, by simp⟩
  exact callCount_listed (by rw [callPut_fst]; exact nodup) put

section
variable {rec_ : List (Word × Nat)} (sound : CallSound rec_) (obj : Word)
include sound

/-- R130: a call adds to the entry of its object, or makes one. -/
theorem callAdd_some {n : Nat} (pos : 1 ≤ n) {new : List (Word × Nat)} (h : callAdd rec_ obj n = some new) :
    CallSound new ∧ callCount new obj = callCount rec_ obj + n ∧ ∀ o, o ≠ obj → callCount new o = callCount rec_ o := by
  unfold callAdd at h
  split at h
  · next x found =>
    obtain rfl : x.1 = obj := by simpa using List.find?_some found
    have hx := List.mem_of_find?_eq_some found
    split at h
    · next room =>
      obtain rfl : callPut x.1 (· + n) rec_ = new := Option.some.inj h
      refine ⟨⟨by rw [callPut_fst]; exact sound.nodup, by rw [callPut_length]; exact sound.length, fun y hy => ?_⟩, ?_,
        fun o ho => callPut_other _ _ _ ho⟩
      · obtain ⟨z, hz, ⟨same, rfl⟩ | ⟨_, rfl⟩⟩ := mem_callPut _ _ _ hy
        · have count : z.2 = x.2 := by rw [← callCount_listed sound.nodup hz, same, callCount_listed sound.nodup hx]
          dsimp only
          omega
        · exact sound.counts y hz
      · rw [callPut_same sound.nodup _ hx, callCount_listed sound.nodup hx]
    · cases h
  · next unlisted =>
    have new_ : ∀ x ∈ rec_, x.1 ≠ obj := fun x hx => by simpa using List.find?_eq_none.mp unlisted x hx
    split at h
    · next room =>
      simp only [Bool.and_eq_true, decide_eq_true_eq] at room
      obtain rfl : rec_ ++ [(obj, n)] = new := Option.some.inj h
      refine ⟨⟨?_, ?_, fun y hy => ?_⟩, ?_, fun o ho => ?_⟩
      · rw [List.map_append, List.nodup_append]
        refine ⟨sound.nodup, by simp, fun a ha b hb => ?_⟩
        obtain ⟨x, hx, rfl⟩ := List.mem_map.mp ha
        obtain rfl : b = obj := by simpa using hb
        exact new_ x hx
      · rw [List.length_append, List.length_singleton]
        omega
      · rcases List.mem_append.mp hy with hy | hy
        · exact sound.counts y hy
        · obtain rfl := List.mem_singleton.mp hy
          exact ⟨pos, room.2⟩
      · rw [callCount_append, callCount_cons, if_pos rfl]
        rfl
      · rw [callCount_append, callCount_cons, if_neg (Ne.symm ho)]
        rfl
    · cases h

/-- R130: a call finds no room where its object's count would pass 65,535, or where it has no entry and the record has 16. -/
theorem callAdd_none {n : Nat} (h : callAdd rec_ obj n = none) : 65535 < callCount rec_ obj + n ∨ (rec_.length = 16 ∧ callCount rec_ obj = 0) := by
  unfold callAdd at h
  split at h
  · next x found =>
    obtain rfl : x.1 = obj := by simpa using List.find?_some found
    split at h
    · cases h
    · next past =>
      rw [callCount_listed sound.nodup (List.mem_of_find?_eq_some found)]
      exact .inl (by omega)
  · next unlisted =>
    have zero : callCount rec_ obj = 0 := callCount_unlisted fun x hx => by simpa using List.find?_eq_none.mp unlisted x hx
    split at h
    · cases h
    · next full =>
      simp only [Bool.and_eq_true, decide_eq_true_eq] at full
      have length := sound.length
      by_cases sixteen : rec_.length = 16
      · exact .inr ⟨sixteen, zero⟩
      · exact .inl (by omega)

/-- R130: a return subtracts one from the entry of its object, which goes when it reaches 0. -/
theorem callDrop_some {new : List (Word × Nat)} (h : callDrop rec_ obj = some new) :
    CallSound new ∧ callCount new obj + 1 = callCount rec_ obj ∧ ∀ o, o ≠ obj → callCount new o = callCount rec_ o := by
  unfold callDrop at h
  split at h
  · next listed =>
    obtain ⟨x, hx, same⟩ := List.any_eq_true.mp listed
    obtain rfl : x.1 = obj := by simpa using same
    obtain rfl : (callPut x.1 (· - 1) rec_).filter (fun y => y.2 != 0) = new := Option.some.inj h
    refine ⟨⟨?_, ?_, fun y hy => ?_⟩, ?_, fun o ho => by rw [callCount_nonzero, callPut_other _ _ _ ho]⟩
    · have kept := (List.filter_sublist (l := callPut x.1 (· - 1) rec_) (p := fun y => y.2 != 0)).map Prod.fst
      rw [callPut_fst] at kept
      exact kept.nodup sound.nodup
    · exact (List.length_filter_le _ _).trans (by rw [callPut_length]; exact sound.length)
    · obtain ⟨hy, nonzero⟩ := List.mem_filter.mp hy
      have nonzero : y.2 ≠ 0 := by simpa using nonzero
      obtain ⟨z, hz, ⟨_, rfl⟩ | ⟨_, rfl⟩⟩ := mem_callPut _ _ _ hy
      · have := sound.counts z hz
        dsimp only at nonzero ⊢
        omega
      · exact sound.counts y hz
    · have := sound.counts x hx
      rw [callCount_nonzero, callPut_same sound.nodup _ hx, callCount_listed sound.nodup hx]
      omega
  · cases h

omit sound in
/-- R130: a return finds no entry only where its object has no outstanding return. -/
theorem callDrop_none (h : callDrop rec_ obj = none) : callCount rec_ obj = 0 := by
  unfold callDrop at h
  split at h
  · cases h
  · next unlisted => exact callCount_unlisted fun x hx same => unlisted (List.any_eq_true.mpr ⟨x, hx, by simpa using same⟩)

end

/-! ### The ends of the words (R80, R171, R203) -/

section
variable {s : State} {c : Cx} (h : s.cx? = some c)
include h

/-- R203: a word that changes its group's record, but not its age, and retires. -/
theorem retire_only (f : Group → Group) (age : (f c.g).age = c.g.age) :
    OnlyGroup s ((s.updGroup c.gi f).retire c) c { Group.retireWord c.k c.repeats (f c.g) with age := s.ageAfter c } := by
  rw [State.retire, updGroup_comp]
  exact yieldAfter_only h (fun g => Group.retireWord c.k c.repeats (f g)) age

/-- R167, R203: a word that changes its group's registers and call record and transfers its strand. -/
theorem retireTo_only (dst : CodeRef) (f : Group → Group) (r : Regs) (calls : List (Word × Nat))
    (hf : f c.g = { c.g with regs := r, callRec := calls }) :
    OnlyGroup s ((s.updGroup c.gi f).retireTo c dst) c
      { c.g with regs := r.loseLatches, callRec := calls, ctl := (c.tableAt dst).1, retire := c.g.retire + 1, age := s.ageAfter c } := by
  have jumped : Group.retireJump c.k dst (f c.g) =
      { c.g with regs := r.loseLatches, callRec := calls, ctl := (c.tableAt dst).1, retire := c.g.retire + 1 } := by
    have twice : ∀ b : Bool, (if b then r.loseLatches.loseLatches else r.loseLatches) = r.loseLatches := by intro b; cases b <;> rfl
    simp [hf, Group.retireJump, Group.setEntry, Group.settle, cx?_entry h, Cx.tableAt, twice]
  have only := yieldAfter_only h (fun g => Group.retireJump c.k dst (f g)) (by rw [jumped])
  rw [State.retireTo, updGroup_comp]
  rwa [jumped] at only

/-! ### SPLICE, CALL and RET (R171, R172, R174) -/

theorem splice_spec {off : BitVec 20} (hc : c.check (.splice off) = .go) (hr : c.p.inRegion (c.target 20 off.toNat) = true) :
    ∃ t, exec (.splice off) s = .next t ∧ OnlyGroup s t c { Group.retireWord c.k c.repeats
      { c.g with ctl := c.g.ctl.put c.k (some { c.e with pend := some (c.target 20 off.toNat) }) } with age := s.ageAfter c } := by
  have run : exec (.splice off) s = .next (s.checked c (.splice off) (c.target 20 off.toNat) _) := issue_go _ s _ c h hc
  rw [run, checked_inRegion _ _ hr]
  have only := retire_only h (Group.setEntry c.k fun e => { e with pend := some (c.target 20 off.toNat) }) rfl
  rw [Group.setEntry, cx?_entry h] at only
  exact ⟨_, rfl, only⟩

/-- R130, R172: what a call of one target leaves: the return pair, the call counted, the strand at the target. -/
theorem called_spec {r : SReg} (even : SReg.even r = true) (dst : CodeRef) {f : Group → Group} {calls : List (Word × Nat)}
    (hf : f c.g = { c.g with callRec := calls }) :
    ∃ x, ScalarPairWritten c.g.regs x r c.next.bits ∧
      OnlyGroup s (((s.updGroup c.gi f).setRegs c fun x => x.setPair r.val c.returnPair).retireTo c dst) c
        { c.g with regs := x.loseLatches, callRec := calls, ctl := (c.tableAt dst).1, retire := c.g.retire + 1, age := s.ageAfter c } := by
  refine ⟨c.g.regs.setPair r.val c.returnPair, Regs.setPair_written _ _ _ even, ?_⟩
  rw [State.setRegs, updGroup_comp]
  exact retireTo_only h dst _ _ calls (by rw [hf])

theorem call_spec {r : SReg} {off : BitVec 17} {calls : List (Word × Nat)} (hc : c.check (.call r off) = .go)
    (hr : c.p.inRegion (c.target 17 off.toNat) = true) (added : callAdd c.g.callRec c.e.pc.obj 1 = some calls) :
    ∃ t x, exec (.call r off) s = .next t ∧ ScalarPairWritten c.g.regs x r c.next.bits ∧ OnlyGroup s t c
      { c.g with regs := x.loseLatches, callRec := calls, ctl := (c.tableAt (c.target 17 off.toNat)).1, retire := c.g.retire + 1,
                 age := s.ageAfter c } := by
  have even : SReg.even r = true := check_go_wf hc
  have run : exec (.call r off) s = .next (s.checked c (.call r off) (c.target 17 off.toNat) _) := issue_go _ s _ c h hc
  rw [run, checked_inRegion _ _ hr]
  simp only [added]
  obtain ⟨x, pair, only⟩ := called_spec h even (c.target 17 off.toNat) (f := fun g => { g with callRec := calls }) rfl
  exact ⟨_, x, rfl, pair, only⟩

theorem ret_spec {r : SReg} {calls : List (Word × Nat)} (hc : c.check (.ret r) = .go) (hr : c.p.refOk (CodeRef.ofBits (c.g.regs.spair r.val)) = true)
    (dropped : callDrop c.g.callRec (CodeRef.ofBits (c.g.regs.spair r.val)).obj = some calls) :
    ∃ t, exec (.ret r) s = .next (t.unpin c.p.id) ∧ OnlyGroup s t c
      { c.g with regs := c.g.regs.loseLatches, callRec := calls, ctl := (c.tableAt (CodeRef.ofBits (c.g.regs.spair r.val))).1,
                 retire := c.g.retire + 1, age := s.ageAfter c } := by
  have run : exec (.ret r) s = .next _ := issue_go _ s _ c h hc
  simp only [dropped, hr, if_true] at run
  exact ⟨_, run, retireTo_only h _ (fun g => { g with callRec := calls }) _ calls rfl⟩

end

/-! ### CALLI of one target (R162, R173) -/

/-- A lane is in a mask to which lanes are joined one after another when it was in it, or is one of them. -/
theorem getLsbD_joinLanes (ls : List Nat) (m : LaneMask) (l : Nat) (hl : l < 32) :
    (ls.foldl (fun m l => m ||| BitVec.twoPow 32 l) m).getLsbD l = (m.getLsbD l || ls.contains l) := by
  induction ls generalizing m with
  | nil => simp
  | cons a ls ih =>
    rw [List.foldl_cons, ih, BitVec.getLsbD_or, BitVec.getLsbD_twoPow, List.contains_cons, Bool.or_assoc]
    by_cases same : a = l
    · simp [same, hl]
    · simp [same, show (l == a) = false from beq_false_of_ne (Ne.symm same)]

theorem mem_lanes {m : LaneMask} {l : Nat} : l ∈ LaneMask.lanes m ↔ l < 32 ∧ m.getLsbD l = true := by
  simp [LaneMask.lanes]

theorem joinLanes_lanes (m : LaneMask) : (LaneMask.lanes m).foldl (fun m l => m ||| BitVec.twoPow 32 l) 0#32 = m := by
  refine BitVec.eq_of_getLsbD_eq fun l hl => ?_
  rw [getLsbD_joinLanes _ _ _ hl]
  cases on : m.getLsbD l with
  | false => simp [mem_lanes, on]
  | true => simp [mem_lanes, on, hl]

theorem lanes_ne_nil {m : LaneMask} (h : m ≠ 0) : LaneMask.lanes m ≠ [] := fun none_ => h (by rw [← joinLanes_lanes m, none_]; rfl)

/-- R162: lanes that all call one target are that target's lanes. -/
theorem callTargets_one {c : Cx} {v : VReg} {dst : CodeRef} (some_ : c.e.active ≠ 0)
    (one : ∀ l, l < 32 → c.e.active.getLsbD l = true → CodeRef.ofBits (c.src64 (.v v) l) = dst) :
    c.callTargets v (LaneMask.lanes c.e.active) = [(dst, c.e.active)] := by
  have refs : ∀ l ∈ LaneMask.lanes c.e.active, c.laneRef v l = dst := fun l hl => one l (mem_lanes.mp hl).1 (mem_lanes.mp hl).2
  have join : ∀ (ls : List Nat) (m : LaneMask), (∀ l ∈ ls, c.laneRef v l = dst) →
      ls.foldl (fun acc l =>
        let r := c.laneRef v l
        if acc.any fun x => x.1 == r then acc.map fun x => if x.1 == r then (x.1, x.2 ||| BitVec.twoPow 32 l) else x
        else acc ++ [(r, BitVec.twoPow 32 l)]) [(dst, m)] = [(dst, ls.foldl (fun m l => m ||| BitVec.twoPow 32 l) m)] := by
    intro ls
    induction ls with
    | nil => intro m _; rfl
    | cons l ls ih =>
      intro m hls
      have here := hls l List.mem_cons_self
      rw [List.foldl_cons, List.foldl_cons, ← ih _ fun l hl => hls l (List.mem_cons_of_mem _ hl)]
      simp [here]
  obtain ⟨l, ls, cons⟩ := List.exists_cons_of_ne_nil (lanes_ne_nil some_)
  have mask := joinLanes_lanes c.e.active
  rw [cons] at refs mask ⊢
  rw [List.foldl_cons, BitVec.zero_or] at mask
  have first := refs l List.mem_cons_self
  rw [Cx.callTargets, List.foldl_cons]
  simp only [List.any_nil, Bool.false_eq_true, if_false, List.nil_append, first]
  rw [join ls _ fun l hl => refs l (List.mem_cons_of_mem _ hl), mask]

section
variable {s : State} {c : Cx} (h : s.cx? = some c) {v : VReg} {r : SReg} (hc : c.check (.calli v r) = .go)
include h hc

theorem exec_calli : exec (.calli v r) s = .next (
    if (LaneMask.lanes c.e.active).isEmpty then s.retire c
    else
      match c.callFault v (LaneMask.lanes c.e.active) (c.callTargets v (LaneMask.lanes c.e.active)) with
      | some (cause, d, a, m) => s.trap c (wordOfInstr (.calli v r)) cause d a m
      | none =>
        ((s.updGroup c.gi fun g => { g with
            callRec := (callAdd g.callRec c.e.pc.obj (c.callTargets v (LaneMask.lanes c.e.active)).length).getD g.callRec }).setRegs c
          fun x => x.setPair r.val c.returnPair).callTo c (c.callTargets v (LaneMask.lanes c.e.active))) := issue_go _ s _ c h hc

/-- R173: a CALLI that no lane makes does nothing. -/
theorem calli_none (none_ : c.e.active = 0) : Passes (exec (.calli v r) s) s c := by
  rw [exec_calli h hc, none_]
  exact ⟨_, rfl, retire_plain h⟩

/-- R162, R173: a CALLI whose lanes all name one target transfers its strand whole. -/
theorem calli_one {dst : CodeRef} {calls : List (Word × Nat)} (some_ : c.e.active ≠ 0)
    (one : ∀ l, l < 32 → c.e.active.getLsbD l = true → CodeRef.ofBits (c.src64 (.v v) l) = dst)
    (sound : c.callFault v (LaneMask.lanes c.e.active) [(dst, c.e.active)] = none)
    (added : callAdd c.g.callRec c.e.pc.obj 1 = some calls) :
    ∃ t x, exec (.calli v r) s = .next t ∧ ScalarPairWritten c.g.regs x r c.next.bits ∧ OnlyGroup s t c
      { c.g with regs := x.loseLatches, callRec := calls, ctl := (c.tableAt dst).1, retire := c.g.retire + 1, age := s.ageAfter c } := by
  have even : SReg.even r = true := by
    have wf : (_ && _) = true := check_go_wf hc
    exact (Bool.and_eq_true_iff.mp wf).2
  have lanes : (LaneMask.lanes c.e.active).isEmpty = false := List.isEmpty_eq_false_iff.mpr (lanes_ne_nil some_)
  obtain ⟨x, pair, only⟩ := called_spec h even dst (calls := calls)
    (f := fun g => { g with callRec := (callAdd g.callRec c.e.pc.obj 1).getD g.callRec }) (by rw [added, Option.getD_some])
  refine ⟨_, x, ?_, pair, only⟩
  rw [exec_calli h hc, callTargets_one some_ one, lanes, sound]
  rfl

end

/-- Settles O15: SPLICE, CALL, RET and CALLI by the change of their group, and the call record by the count of each object. -/
theorem callResults : Obligations.CallResults := by
  refine ⟨fun s c h => ⟨fun off hc hr => splice_spec h hc hr, fun r off calls hc hr added => call_spec h hc hr added,
    fun r calls hc => fun hr dropped => ret_spec h hc hr dropped,
    fun v r hc => ⟨calli_none h hc, fun dst calls some_ one sound added => calli_one h hc some_ one sound added⟩⟩,
    fun rec_ obj n ⟨nodup, length, counts⟩ pos => ?_⟩
  have sound : CallSound rec_ := ⟨nodup, length, counts⟩
  refine ⟨fun new added => ?_, callAdd_none sound obj, fun new dropped => ?_, callDrop_none obj⟩
  · obtain ⟨⟨nodup', length', counts'⟩, count, others⟩ := callAdd_some sound obj pos added
    exact ⟨⟨nodup', length', counts'⟩, count, others⟩
  · obtain ⟨⟨nodup', length', counts'⟩, count, others⟩ := callDrop_some sound obj dropped
    exact ⟨⟨nodup', length', counts'⟩, count, others⟩

end Sys2Proof.Machine
end

section
/-! PROOFS. What a system word leaves beside its effect: registers, translations and lines; and what it reads (R128, R247, R252, R262, R274,
R431, R433). -/

namespace Sys2Proof.Machine

/-! ### Registers that groups keep -/

/-- Between two states every group keeps its registers and its count of words. -/
def RegsKept (s t : State) : Prop :=
  ∀ (gi : Nat) (g : Group), s.groups[gi]? = some g → ∃ g', t.groups[gi]? = some g' ∧ g'.regs = g.regs ∧ g'.retire = g.retire

theorem RegsKept.same {s t : State} (h : t.groups = s.groups) : RegsKept s t := fun _ g hg => ⟨g, by rw [h, hg], rfl, rfl⟩

theorem RegsKept.refl (s : State) : RegsKept s s := .same rfl

theorem RegsKept.trans {a b c : State} (h : RegsKept a b) (k : RegsKept b c) : RegsKept a c := fun gi g hg => by
  obtain ⟨g', hg', regs, retire⟩ := h gi g hg
  obtain ⟨g'', hg'', regs', retire'⟩ := k gi g' hg'
  exact ⟨g'', hg'', regs'.trans regs, retire'.trans retire⟩

theorem RegsKept.updGroup (s : State) (gi : Nat) {f : Group → Group} (hf : ∀ g, (f g).regs = g.regs ∧ (f g).retire = g.retire) :
    RegsKept s (s.updGroup gi f) := fun _ g hg => by
  rcases listModify_get_or f hg with same | changed
  · exact ⟨g, same, rfl, rfl⟩
  · exact ⟨f g, changed, hf g⟩

theorem CommitOnly.regsKept {s t : State} (h : CommitOnly s t) : RegsKept s t := fun gi g hg => by
  obtain ⟨g', hg', fired⟩ := h.groups gi g hg
  exact ⟨g', hg', by rw [fired.rest], by rw [fired.rest]⟩

theorem EndOnly.regsKept {s t : State} (h : EndOnly s t) : RegsKept s t := fun gi g hg => by
  obtain ⟨g', hg', rest⟩ := h.groups gi g hg
  exact ⟨g', hg', by rw [rest], by rw [rest]⟩

theorem commitSome_regsKept (s : State) (gi : Nat) (sc : Scope) (pick : OwnStore → Bool) : RegsKept s (s.commitSome gi sc pick) := by
  unfold State.commitSome
  split
  · exact .refl s
  · exact (commit_only _ _ _).regsKept.trans (.updGroup _ gi fun _ => ⟨rfl, rfl⟩)

theorem commitGroup_regsKept (s : State) (gi : Nat) (sc : Scope) : RegsKept s (s.commitGroup gi sc) := by
  unfold State.commitGroup
  split
  · exact .refl s
  · exact commitSome_regsKept s gi sc _

theorem endRegion_regsKept (s : State) (c : Cx) : RegsKept s (s.endRegion c) := .updGroup s c.gi fun _ => ⟨rfl, rfl⟩

theorem closeRegion_regsKept (s : State) (c : Cx) : RegsKept s (s.closeRegion c) := .updGroup s c.gi fun g => by
  unfold Group.autoRegion
  split <;> exact ⟨rfl, rfl⟩

theorem beginGroup_regsKept (s : State) (gi : Nat) (sc : Scope) : RegsKept s (s.beginGroup gi sc) := by
  have begun : RegsKept s (s.begun gi sc) := .updGroup { s with seq := s.seq + 1 } gi fun _ => ⟨rfl, rfl⟩
  rcases beginGroup_cases s gi sc with eq | eq | ⟨hs, eq⟩
  · rw [eq]
    exact .refl s
  · rw [eq]
    exact begun
  · rw [eq]
    exact begun.trans (excuse_endOnly { s.begun gi sc with halls := hs } gi).regsKept

/-! ### Translations that an access uses (R262) -/

/-- Between two states only what partitions keep of translations differs. -/
def XlatOnly (s t : State) : Prop := ∃ x : Part → PartXlat, t = { s with parts := s.parts.map fun p => { p with xlat := x p } }

theorem XlatOnly.refl (s : State) : XlatOnly s s :=
  ⟨Part.xlat, by rw [show (fun p : Part => { p with xlat := p.xlat }) = id from rfl, List.map_id]⟩

theorem XlatOnly.trans {a b c : State} (h : XlatOnly a b) (k : XlatOnly b c) : XlatOnly a c := by
  obtain ⟨x, rfl⟩ := h
  obtain ⟨y, rfl⟩ := k
  exact ⟨fun p => y { p with xlat := x p }, by rw [List.map_map]; rfl⟩

theorem XlatOnly.foldl {α : Type} {f : State → α → State} (hf : ∀ s a, XlatOnly s (f s a)) (l : List α) (s : State) :
    XlatOnly s (l.foldl f s) := by
  induction l generalizing s with
  | nil => exact .refl s
  | cons a l ih => exact (hf s a).trans (ih _)

theorem XlatOnly.updPart (s : State) (id : Nat) (f : Part → PartXlat) : XlatOnly s (s.updPart id fun p => { p with xlat := f p }) := by
  refine ⟨fun p => if p.id == id then f p else p.xlat, ?_⟩
  rw [State.updPart]
  congr 1
  refine List.map_congr_left fun p _ => ?_
  dsimp only
  split <;> rfl

theorem installAt_xlatOnly (s : State) (pid : Nat) (x : Xlate) (site : TlbSite) : XlatOnly s (s.installAt pid x site) := by
  unfold State.installAt
  dsimp only
  split
  · exact (XlatOnly.updPart s _ _).trans (.updPart _ _ _)
  · exact .updPart s _ _

theorem promote_xlatOnly (s : State) (pid : Nat) (sites : List TlbSite) (va : Nat) : XlatOnly s (s.promote pid sites va) := by
  unfold State.promote
  split
  · split
    · exact installAt_xlatOnly s pid _ _
    · exact .refl s
  · exact .refl s

theorem usedWalks_xlatOnly (s : State) (pid : Nat) (sites : List TlbSite) (xs : List Piece) : XlatOnly s (s.usedWalks pid sites xs) :=
  (XlatOnly.updPart s pid _).trans (.foldl (fun s _ => promote_xlatOnly s pid sites _) _ _)

theorem XlatOnly.regsKept {s t : State} (h : XlatOnly s t) : RegsKept s t := by
  obtain ⟨x, rfl⟩ := h
  exact .same rfl

theorem XlatOnly.plainMemory {s t : State} (h : XlatOnly s t) (plain : s.plainMemory) : t.plainMemory := by
  obtain ⟨x, rfl⟩ := h
  refine ⟨fun p hp => ?_, plain.2⟩
  obtain ⟨q, hq, rfl⟩ := List.mem_map.mp hp
  exact plain.1 q hq

theorem XlatOnly.part? {s t : State} (h : XlatOnly s t) {id : Nat} {p : Part} (hp : s.part? id = some p) :
    ∃ x, t.part? id = some { p with xlat := x } := by
  obtain ⟨x, rfl⟩ := h
  refine ⟨x p, ?_⟩
  simp only [State.part?, List.find?_map]
  exact congrArg (Option.map _) hp

/-! ### Reads that hang on no translation the device keeps (R274, R431, R433) -/

section
variable {s t : State} (h : XlatOnly s t)
include h

theorem XlatOnly.protects (own : Option Nat) (shr : Bool) (gran : Nat) : t.protects own shr gran = s.protects own shr gran := by
  obtain ⟨x, rfl⟩ := h
  cases own with
  | none => rfl
  | some id =>
    simp only [State.protects, Option.bind_some, State.part?, List.find?_map, Option.any_map]
    rfl

theorem XlatOnly.sealer (own : Option Nat) (shr : Bool) (gran : Nat) : t.sealer own shr gran = s.sealer own shr gran := by
  rw [State.sealer, State.sealer, h.protects]
  obtain ⟨x, rfl⟩ := h
  rfl

theorem XlatOnly.torn (own : Option Nat) (shr : Bool) (gran : Nat) : t.torn own shr gran = s.torn own shr gran := by
  simp only [State.torn, State.keyless, h.protects, h.sealer]
  obtain ⟨x, rfl⟩ := h
  rfl

/-- R274: the errors that an access meets in its data. -/
theorem XlatOnly.dataError (p : Part) (spans : List Span) (own : List OwnStore) (reads sealed_ : List Piece) :
    t.dataError p spans own reads sealed_ = s.dataError p spans own reads sealed_ := by
  have torn : t.mismatched p own = s.mismatched p own := by
    funext x
    simp only [State.mismatched, h.torn]
  simp only [State.dataError, torn]
  obtain ⟨x, rfl⟩ := h
  rfl

theorem XlatOnly.readSpan (r : Reader) (own : List OwnStore) (n key count : Nat) : t.readSpan r own n key count = s.readSpan r own n key count := by
  have view : t.viewByte r = s.viewByte r := by
    funext key plain
    simp only [State.viewByte, State.sealedFrom, h.sealer]
    obtain ⟨x, rfl⟩ := h
    rfl
  simp only [State.readSpan, view]
  obtain ⟨x, rfl⟩ := h
  rfl

theorem XlatOnly.readPieces (w : Who) (xs : List Piece) (l : Nat) : t.readPieces w xs l = s.readPieces w xs l := by
  simp only [State.readPieces, h.readSpan]
  obtain ⟨x, rfl⟩ := h
  rfl

end

/-! ### Lines that a read brings (R247, R252, R417) -/

/-- Between two states groups keep their registers, and partitions all but what they keep of translations and of migration. -/
structure LinesOnly (s t : State) : Prop where
  groups : RegsKept s t
  parts : ∀ (id : Nat) (p : Part), s.part? id = some p → ∃ q, t.part? id = some q ∧ q = { p with xlat := q.xlat, mig := q.mig }

theorem LinesOnly.same {s t : State} (groups : t.groups = s.groups) (parts : t.parts = s.parts) : LinesOnly s t :=
  ⟨.same groups, fun id p hp => ⟨p, by rw [State.part?, parts]; exact hp, rfl⟩⟩

theorem LinesOnly.refl (s : State) : LinesOnly s s := .same rfl rfl

theorem LinesOnly.trans {a b c : State} (h : LinesOnly a b) (k : LinesOnly b c) : LinesOnly a c := by
  refine ⟨h.groups.trans k.groups, fun id p hp => ?_⟩
  obtain ⟨q, hq, eq⟩ := h.parts id p hp
  obtain ⟨r, hr, eq'⟩ := k.parts id q hq
  exact ⟨r, hr, by rw [eq] at eq'; exact eq'⟩

theorem LinesOnly.foldl {α : Type} {f : State → α → State} (hf : ∀ s a, LinesOnly s (f s a)) (l : List α) (s : State) :
    LinesOnly s (l.foldl f s) := by
  induction l generalizing s with
  | nil => exact .refl s
  | cons a l ih => exact (hf s a).trans (ih _)

theorem LinesOnly.updGroup (s : State) (gi : Nat) {f : Group → Group} (hf : ∀ g, (f g).regs = g.regs ∧ (f g).retire = g.retire) :
    LinesOnly s (s.updGroup gi f) := ⟨.updGroup s gi hf, fun _ p hp => ⟨p, hp, rfl⟩⟩

theorem LinesOnly.updPart (s : State) (id : Nat) {f : Part → Part} (hf : ∀ p, f p = { p with xlat := (f p).xlat, mig := (f p).mig }) :
    LinesOnly s (s.updPart id f) := by
  refine ⟨.same rfl, fun n p hp => ?_⟩
  rw [part?_updPart s id n fun p => by rw [hf p], hp, Option.map_some]
  split
  · exact ⟨f p, rfl, hf p⟩
  · exact ⟨p, rfl, rfl⟩

theorem CommitOnly.linesOnly {s t : State} (h : CommitOnly s t) : LinesOnly s t :=
  ⟨h.regsKept, fun id p hp => ⟨p, by rw [State.part?, h.rest]; exact hp, rfl⟩⟩

theorem XlatOnly.linesOnly {s t : State} (h : XlatOnly s t) : LinesOnly s t :=
  ⟨h.regsKept, fun _ _ hp => (h.part? hp).elim fun _ hx => ⟨_, hx, rfl⟩⟩

section
variable (s : State)

theorem notify_linesOnly (p : Part) (key count : Nat) : LinesOnly s (s.notify p key count).1 := by
  unfold State.notify
  dsimp only
  split
  · exact (commit_only s _ _).linesOnly.trans (.updPart _ p.id fun _ => rfl)
  · exact .updPart s p.id fun _ => rfl

theorem countFill_linesOnly (p : Part) (key : Nat) : LinesOnly s (s.countFill p key) := by
  unfold State.countFill
  split
  · exact .refl s
  · dsimp only
    split
    · exact (notify_linesOnly s p key _).trans (commit_only _ _ _).linesOnly
    · exact (commit_only s _ _).linesOnly

theorem touchL2_linesOnly (x : Touch) (line : Nat) : LinesOnly s (s.touchL2 x line) := by
  unfold State.touchL2
  split
  · exact .refl s
  · next p _ =>
    dsimp only
    split
    · exact .refl s
    · have filled : ∀ (counts prot : Bool) (va : Nat),
          LinesOnly s ((if counts then s.countFill p (128 * line) else s).fillLine p prot va line 15 0) := fun counts prot va => by
        refine LinesOnly.trans ?_ (fillLine_only _ p prot va line 15 0).linesOnly
        cases counts with
        | true => exact countFill_linesOnly s p _
        | false => exact .refl s
      split
      · exact filled _ _ _
      · exact (filled _ _ _).trans (.same rfl rfl)

theorem leaveL1_linesOnly (l : L1Line) : LinesOnly s (s.leaveL1 l) := by
  unfold State.leaveL1 State.writePrivLine
  split
  · exact .refl s
  · refine LinesOnly.trans ?_ (.updGroup _ _ fun _ => ⟨rfl, rfl⟩)
    split
    · exact .refl s
    · split
      · exact .refl s
      · exact (commit_only s _ _).linesOnly

theorem fillL1_linesOnly (hall : Nat) (new : L1Line) : LinesOnly s (s.fillL1 hall new) := by
  unfold State.fillL1 State.leftL1
  dsimp only
  split
  · refine LinesOnly.trans ?_ (.foldl leaveL1_linesOnly _ _)
    exact .same rfl rfl
  · exact .same rfl rfl

theorem touchL1_linesOnly (hall : Nat) (x : Touch) (line : Nat) : LinesOnly s (s.touchL1 hall x line) := by
  unfold State.touchL1
  split
  · exact .refl s
  · exact LinesOnly.trans (b := s.countLost hall line) (.same rfl rfl) ((touchL2_linesOnly _ x line).trans (fillL1_linesOnly _ hall _))

theorem touchPieces_linesOnly (w : Who) (xs : List Piece) : LinesOnly s (s.touchPieces w xs) :=
  LinesOnly.trans (b := s.markLost w.t.hall) (.same rfl rfl) (.foldl (fun s _ => touchL1_linesOnly s _ _ _) _ _)

end

/-! ### Group-level accesses and reads (R128, R274) -/

theorem ofFn_never : LaneMask.ofFn (fun _ => false) = 0 := by decide

/-- Every address is a multiple of one. -/
theorem misaligned_one (spans : List Span) : misaligned 1 spans = 0 := by
  have never : (fun l => spans.any fun sp => sp.lane == l && sp.runs.any fun r => r.1 % ((1 : Nat) : Int) != 0) = fun _ => false := by
    funext l
    rw [List.any_eq_false]
    simp
  rw [misaligned, never, ofFn_never]

/-- R274: a group-level access that translates and finds no error goes on, with the translations it has used. -/
theorem accessThen_ok {s : State} {w : Who} {i : Intent} {spans : List Span} {errs : Errors} {xs : List Piece} (k : State → List Piece → Acc)
    (reached : s.reach w.p (s.sitesOf w.t.hall) i false spans = .ok xs)
    (alike : errs (s.usedWalks w.p.id (s.sitesOf w.t.hall) xs) xs = errs s xs) (sound : errs s xs = none) :
    s.accessThen w i noTb 1 spans errs k = k (s.usedWalks w.p.id (s.sitesOf w.t.hall) xs) xs := by
  have unnamed : noTb.tbn.isSome = false := rfl
  have held : (s.usedWalks w.p.id (s.sitesOf w.t.hall) xs).holdFrameOf w noTb = s.usedWalks w.p.id (s.sitesOf w.t.hall) xs := rfl
  simp only [State.accessThen, misaligned_one, unnamed, reached, held, alike, sound]
  rfl

/-- R128: a group-level read that `Fetches` describes. -/
theorem loadBytes_fetches {s u : State} {w : Who} {align va n : Nat} {bytes : List Byte} (k : State → List Byte → Acc)
    (h : Fetches s w align va n bytes u) : s.loadBytes w 1 va n k = (k u bytes).noLanes := by
  obtain ⟨-, xs, reached, sound, rfl, rfl⟩ := h
  have used := usedWalks_xlatOnly s w.p.id (s.sitesOf w.t.hall) xs
  rw [State.loadBytes, accessThen_ok _ reached (used.dataError _ _ _ _ _) sound, used.readPieces]

theorem fetches_linesOnly {s u : State} {w : Who} {align va n : Nat} {bytes : List Byte} (h : Fetches s w align va n bytes u) : LinesOnly s u := by
  obtain ⟨-, xs, -, -, -, rfl⟩ := h
  exact ((usedWalks_xlatOnly s _ _ xs).linesOnly.trans (touchPieces_linesOnly _ w xs)).trans (.same rfl rfl)

/-! ### The end of a system word (R80, R203) -/

theorem setRegs_same (s : State) (c : Cx) : s.setRegs c (fun r => r) = s := by
  have same : ∀ (l : List Group) (n : Nat), listModify l n (fun g => { g with regs := g.regs }) = l := by
    intro l
    induction l with
    | nil => intro n; rfl
    | cons g gs ih =>
      intro n
      cases n with
      | zero => rfl
      | succ n => rw [listModify, ih]
  rw [State.setRegs, State.updGroup, same]

/-- R56, R274: an access without results of its own ends its word. -/
theorem finishAccess_plain (s : State) (c : Cx) (i : Instr) (o : Operands) (closes : Bool) (u : State) :
    s.finishAccess c i o closes (.done (Done.plain u)) = (if closes then u.closeRegion c else u).retire c := by
  have run : s.finishAccess c i o closes (.done (Done.plain u)) =
      (if closes then (u.setRegs c fun r => r).closeRegion c else u.setRegs c fun r => r).retire c := rfl
  rw [run, setRegs_same]

/-- R80, R203: the group of a word that retires: its count, and its registers but for latches. -/
theorem retire_kept {s : State} {c : Cx} {g : Group} (h : s.groups[c.gi]? = some g) : ∃ g', (s.retire c).groups[c.gi]? = some g' ∧
    g'.retire = g.retire + 1 ∧ ∃ fused, g'.regs = g.regs.fusedIf fused := by
  have retired : ((s.updGroup c.gi (Group.retireWord c.k c.repeats)).countRetired c.p.id).groups[c.gi]? =
      some (Group.retireWord c.k c.repeats g) := by
    simpa [h] using updGroup_get_same s c.gi (Group.retireWord c.k c.repeats)
  rw [State.retire, State.yieldAfter, updGroup_get_same, retired, Option.map_some]
  split
  · exact ⟨_, rfl, rfl, _, rfl⟩
  · exact ⟨_, rfl, rfl, _, rfl⟩

theorem fusedIf_kept (b : Bool) (r : Regs) : (r.fusedIf b).v = r.v ∧ (r.fusedIf b).g = r.g ∧ (r.fusedIf b).xp = r.xp ∧
    ∀ n, (r.fusedIf b).sreg n = r.sreg n := by
  cases b <;> exact ⟨rfl, rfl, rfl, fun _ => rfl⟩

/-- A status put into a register, and the close of an open region where the word closes one. -/
def State.putClosed (s : State) (c : Cx) (closes : Bool) (d : SReg) (st : Word) : State :=
  if closes then (s.putS c.gi d st).closeRegion c else s.putS c.gi d st

theorem putClosed_mem (s : State) (c : Cx) (closes : Bool) (d : SReg) (st : Word) : (s.putClosed c closes d st).mem = s.mem := by
  cases closes <;> rfl

/-- A word whose group still holds its registers puts its status into its register and retires. -/
theorem statusDone_retire {s u : State} {c : Cx} (h : s.cx? = some c) (kept : RegsKept s u) (closes : Bool) (d : SReg) (st : Word) :
    StatusDone (.next ((u.putClosed c closes d st).retire c)) c d st ((u.putClosed c closes d st).retire c) := by
  obtain ⟨g, hg, regs, retire⟩ := kept c.gi c.g (cx?_group h)
  have put : (u.putS c.gi d st).groups[c.gi]? = some { g with regs := g.regs.setS d.val st } := by
    rw [State.putS, updGroup_get_same, hg, Option.map_some]
  have closed : ∃ g₁, (u.putClosed c closes d st).groups[c.gi]? = some g₁ ∧ g₁.regs = c.g.regs.setS d.val st ∧ g₁.retire = c.g.retire := by
    cases closes with
    | false => exact ⟨_, put, by rw [regs], retire⟩
    | true =>
      obtain ⟨g₁, hg₁, regs₁, retire₁⟩ := closeRegion_regsKept _ c c.gi _ put
      exact ⟨g₁, hg₁, by rw [regs₁, regs], retire₁.trans retire⟩
  obtain ⟨g₁, hg₁, regs₁, retire₁⟩ := closed
  obtain ⟨g₂, hg₂, retire₂, fused, regs₂⟩ := retire_kept hg₁
  obtain ⟨v, guards, xp, scalars⟩ := fusedIf_kept fused g₁.regs
  refine ⟨rfl, g₂, hg₂, by rw [retire₂, retire₁], ?_, fun n hn => ?_, ?_, ?_, ?_⟩
  · rw [regs₂, scalars, regs₁, Regs.sreg_setS_same _ _ _ d.isLt]
  · rw [regs₂, scalars, regs₁, Regs.sreg_setS_other _ _ _ _ hn]
  · rw [regs₂, v, regs₁]
    rfl
  · rw [regs₂, guards, regs₁]
    rfl
  · rw [regs₂, xp, regs₁]
    rfl

end Sys2Proof.Machine
end

section
/-! PROOFS. PUBLISH: what it reads, its status, and the code object that it adds (R56, R122 to R129). -/

namespace Sys2Proof.Machine

/-! ### A fork that closes a region before its BEGIN (R42, R56, R128) -/

/-- R56, R128: the state in which PUBLISH reads its image: its group's stores are committed at p, an open region that they carry is closed, and its
BEGIN has been made. -/
def State.publishes (s : State) (c : Cx) : State :=
  let s1 := s.commitGroup c.gi .p
  (if c.g.carriesRegion .p then (s1.endRegion c).unpin c.p.id else s1).beginGroup c.gi .p

theorem publishes_regsKept (s : State) (c : Cx) : RegsKept s (s.publishes c) := by
  have committed := commitGroup_regsKept s c.gi .p
  refine RegsKept.trans ?_ (beginGroup_regsKept _ c.gi .p)
  split
  · exact (committed.trans (endRegion_regsKept _ c)).trans (unpin_endOnly _ _).regsKept
  · exact committed

theorem who?_spec {s : State} {gi : Nat} {w : Who} (h : s.who? gi = some w) :
    w.gi = gi ∧ s.groups[gi]? = some w.g ∧ s.part? w.p.id = some w.p := by
  unfold State.who? at h
  split at h
  · cases h
  · next g hg =>
    split at h
    · cases h
    · next t _ =>
      obtain ⟨p, hp, rfl⟩ := Option.map_eq_some_iff.mp h
      exact ⟨rfl, hg, by rw [part?_id hp]; exact hp⟩

/-- R128: PUBLISH of an image that is read ends its word with what the image comes to. -/
theorem exec_publish {s u : State} {c : Cx} {d a b : SReg} {w : Who} {img : List Byte} (h : s.cx? = some c)
    (hc : c.check (.publish d a b) = .go) (hw : (s.publishes c).who? c.gi = some w)
    (read : Fetches (s.publishes c) w 64 (c.g.regs.spair a.val).toNat (c.g.regs.sreg b.val).toNat img u) :
    let v := u.publishImage w d img
    exec (.publish d a b) s = .next ((if c.g.carriesRegion .p then v.closeRegion c else v).retire c) := by
  have aligned : ((c.g.regs.spair a.val).toNat % 64 != 0) = false := by simpa using read.1
  have length : (c.sysOps (c.g.regs.spair a.val) [c.g.regs.sreg b.val]).word 0 = c.g.regs.sreg b.val := Lanes.at_all _ 0 (by decide)
  have came : (s.publishes c).publish w d (c.sysOps (c.g.regs.spair a.val) [c.g.regs.sreg b.val]) =
      .done (Done.plain (u.publishImage w d img)) := by
    rw [State.publish, length]
    simp only [Cx.sysOps, aligned, Bool.false_eq_true, if_false]
    rw [loadBytes_fetches _ read]
    rfl
  intro v
  have run : exec (.publish d a b) s = .next (s.finishFork c (.publish d a b) (c.sysOps (c.g.regs.spair a.val) [c.g.regs.sreg b.val]) .p true
      fun s1 => match s1.who? c.gi with
        | some w => s1.publish w d (c.sysOps (c.g.regs.spair a.val) [c.g.regs.sreg b.val])
        | none => .done (Done.plain s1)) := issue_go _ s _ c h hc
  rw [run, State.finishFork]
  rw [if_pos rfl, ← State.publishes, hw]
  dsimp only
  rw [came]
  dsimp only
  rw [finishAccess_plain]

/-! ### The code object of an image (R122, R127 to R129) -/

/-- R128: registers with the status of PUBLISH and the number of its object. -/
def Regs.putObject (d : SReg) (st id : Nat) (r : Regs) : Regs := (r.setS d.val (BitVec.ofNat 32 st)).setS (d.val + 1) (BitVec.ofNat 32 id)

theorem putObject_sreg {d : SReg} (pair : d.val + 1 < 48) (st id : Nat) (r : Regs) :
    (r.putObject d st id).sreg d.val = BitVec.ofNat 32 st ∧ (r.putObject d st id).sreg (d.val + 1) = BitVec.ofNat 32 id := by
  refine ⟨?_, Regs.sreg_setS_same _ _ _ pair⟩
  rw [Regs.putObject, Regs.sreg_setS_other _ _ _ _ (by omega), Regs.sreg_setS_same _ _ _ d.isLt]

/-- R128: a partition with the object of an image, under the next number. -/
def Part.publishes (img : List Byte) (q : Part) : Part :=
  { q with objects := q.objects ++ [newObject q.nextObj q.cfg.tag img], nextObj := q.nextObj + 1 }

/-- R129: PUBLISH puts its status and the new object's number, and adds the object where every check passes. -/
theorem publishImage_eq {u : State} {w : Who} {p : Part} (d : SReg) (img : List Byte) (hp : u.part? w.p.id = some p) :
    u.publishImage w d img =
      if p.publishStatus img = 0 then
        (u.updPart p.id (Part.publishes img)).updGroup w.gi fun g => { g with regs := g.regs.putObject d 0 p.nextObj }
      else u.updGroup w.gi fun g => { g with regs := g.regs.putObject d (p.publishStatus img) 0 } := by
  unfold State.publishImage
  simp only [hp]
  by_cases passes : p.publishStatus img = 0
  · simp only [passes, bne_self_eq_false, Bool.false_eq_true, if_false, if_true]
    rfl
  · rw [if_neg passes, if_pos (by simpa using passes)]
    rfl

theorem publishStatus_congr {p q : Part} (h : q = { p with xlat := q.xlat, mig := q.mig }) (img : List Byte) :
    q.publishStatus img = p.publishStatus img ∧ q.nextObj = p.nextObj ∧ q.objects = p.objects ∧ q.cfg = p.cfg ∧ q.id = p.id := by
  rw [h]
  exact ⟨rfl, rfl, rfl, rfl, rfl⟩

/-- What the end of a word leaves of a partition's code objects. -/
theorem part?_retire {s : State} (c : Cx) {id : Nat} {p : Part} (hp : s.part? id = some p) :
    ∃ q, (s.retire c).part? id = some q ∧ q.objects = p.objects := by
  have counted := part?_updPart (s.updGroup c.gi (Group.retireWord c.k c.repeats)) c.p.id id
    (f := fun q => { q with counters := { q.counters with issued := q.counters.issued + 1, retired := q.counters.retired + 1 } }) fun _ => rfl
  have same : (s.updGroup c.gi (Group.retireWord c.k c.repeats)).part? id = some p := hp
  rw [same, Option.map_some] at counted
  refine ⟨_, counted, ?_⟩
  split <;> rfl

/-- R128, R129: what PUBLISH of an image that is read leaves, before its word ends. -/
theorem publishImage_spec {u : State} {w : Who} {p : Part} {g : Group} {d : SReg} (img : List Byte) (hp : u.part? w.p.id = some p)
    (hg : u.groups[w.gi]? = some g) :
    let st := p.publishStatus img
    ∃ g' q, (u.publishImage w d img).groups[w.gi]? = some g' ∧ g'.retire = g.retire ∧
      g'.regs = g.regs.putObject d st (if st = 0 then p.nextObj else 0) ∧ (u.publishImage w d img).part? w.p.id = some q ∧
      q.objects = p.objects ++ if st = 0 then [newObject p.nextObj p.cfg.tag img] else [] := by
  intro st
  rw [publishImage_eq d img hp]
  by_cases passes : st = 0
  · rw [if_pos passes, if_pos passes, if_pos passes, passes]
    have added := part?_updPart_same (f := Part.publishes img) (fun _ => rfl) hp
    rw [← part?_id hp] at added ⊢
    exact ⟨{ g with regs := g.regs.putObject d 0 p.nextObj }, _, by rw [updGroup_get_same, State.updPart_groups, hg, Option.map_some], rfl, rfl, added, rfl⟩
  · rw [if_neg passes, if_neg passes, if_neg passes]
    exact ⟨{ g with regs := g.regs.putObject d st 0 }, p, by rw [updGroup_get_same, hg, Option.map_some], rfl, rfl, hp, by rw [List.append_nil]⟩

/-- R122 to R129: PUBLISH of an image that is read. -/
theorem publish_spec {s u : State} {c : Cx} {d a b : SReg} {w : Who} {img : List Byte} (h : s.cx? = some c)
    (hc : c.check (.publish d a b) = .go) (pair : d.val + 1 < 48) (hw : (s.publishes c).who? c.gi = some w) (own : w.p.id = c.p.id)
    (read : Fetches (s.publishes c) w 64 (c.g.regs.spair a.val).toNat (c.g.regs.sreg b.val).toNat img u) :
    let st := w.p.publishStatus img
    ∃ t g p, exec (.publish d a b) s = .next t ∧ t.groups[c.gi]? = some g ∧ g.retire = c.g.retire + 1 ∧
      g.regs.sreg d.val = BitVec.ofNat 32 st ∧ g.regs.sreg (d.val + 1) = BitVec.ofNat 32 (if st = 0 then w.p.nextObj else 0) ∧
      t.part? c.p.id = some p ∧ p.objects = w.p.objects ++ if st = 0 then [newObject w.p.nextObj w.p.cfg.tag img] else [] := by
  intro st
  obtain ⟨place, -, mine⟩ := who?_spec hw
  have lines := fetches_linesOnly read
  obtain ⟨g₁, hg₁, regs₁, retire₁⟩ := ((publishes_regsKept s c).trans lines.groups) c.gi c.g (cx?_group h)
  obtain ⟨p₁, hp₁, same⟩ := lines.parts _ _ mine
  obtain ⟨status, next, objects, cfg, -⟩ := publishStatus_congr same img
  obtain ⟨g₂, p₂, hg₂, retire₂, regs₂, hp₂, objects₂⟩ := publishImage_spec (d := d) img hp₁ (by rw [place]; exact hg₁)
  rw [place] at hg₂
  rw [status, next, objects, cfg] at objects₂
  rw [status, next] at regs₂
  have closed : ∀ b : Bool, ∃ g₃, (if b then (u.publishImage w d img).closeRegion c else u.publishImage w d img).groups[c.gi]? = some g₃ ∧
      g₃.regs = g₂.regs ∧ g₃.retire = g₂.retire := fun b => by
    cases b with
    | false => exact ⟨g₂, hg₂, rfl, rfl⟩
    | true => exact closeRegion_regsKept _ c c.gi g₂ hg₂
  have parts : ∀ b : Bool, (if b then (u.publishImage w d img).closeRegion c else u.publishImage w d img).part? w.p.id = some p₂ := fun b => by
    cases b <;> exact hp₂
  obtain ⟨g₃, hg₃, regs₃, retire₃⟩ := closed (c.g.carriesRegion .p)
  obtain ⟨g₄, hg₄, retire₄, fused, regs₄⟩ := retire_kept hg₃
  obtain ⟨p₄, hp₄, objects₄⟩ := part?_retire c (parts (c.g.carriesRegion .p))
  obtain ⟨-, -, -, scalars⟩ := fusedIf_kept fused g₃.regs
  obtain ⟨low, high⟩ := putObject_sreg pair st (if st = 0 then w.p.nextObj else 0) g₁.regs
  rw [own] at hp₄
  refine ⟨_, g₄, p₄, exec_publish h hc hw read, hg₄, by rw [retire₄, retire₃, retire₂, retire₁], ?_, ?_, hp₄, objects₄.trans objects₂⟩
  · rw [regs₄, scalars, regs₃, regs₂, low]
  · rw [regs₄, scalars, regs₃, regs₂, high]

end Sys2Proof.Machine
end

section
/-! PROOFS. BIND and UNBIND: the slot at its home, the statuses of its object, and the hold that is given up (R49, R56, R129, R131, R133,
R134, R448). -/

namespace Sys2Proof.Machine

/-! ### Bytes of a slot in memory (R6, R132) -/

theorem Mem.readN_eq (m : Mem) (a n : Nat) : m.readN a n = (List.range n).map fun i => m.read (a + i) := by
  induction n generalizing a with
  | zero => rfl
  | succ n ih =>
    rw [Mem.readN, ih, List.range_succ_eq_map, List.map_cons, List.map_map]
    refine congrArg₂ List.cons rfl (List.map_congr_left fun i _ => ?_)
    rw [Function.comp_apply, Nat.succ_eq_add_one, Nat.add_assoc, Nat.add_comm 1 i]

theorem leNat_lt (bs : List Byte) : leNat bs < 256 ^ bs.length := by
  induction bs with
  | nil => exact Nat.one_pos
  | cons b bs ih =>
    have low : b.toNat < 256 := b.isLt
    rw [leNat, List.length_cons, Nat.pow_succ]
    omega

theorem Mem.num_lt (m : Mem) (a n : Nat) : m.num a n < 256 ^ n := by
  have bound := leNat_lt (m.readN a n)
  rwa [show (m.readN a n).length = n by simp [Mem.readN_eq]] at bound

theorem Mem.num_congr {m m' : Mem} {a n : Nat} (h : ∀ k, a ≤ k → k < a + n → m.read k = m'.read k) : m.num a n = m'.num a n := by
  rw [Mem.num, Mem.num, Mem.readN_eq, Mem.readN_eq]
  refine congrArg leNat (List.map_congr_left fun i hi => ?_)
  have := List.mem_range.mp hi
  exact h _ (by omega) (by omega)

theorem Mem.num_writeN_outside {m : Mem} (h : m.wf = true) {a n b : Nat} {bs : List Byte} (out : a + n ≤ b ∨ b + bs.length ≤ a) :
    (m.writeN b bs).num a n = m.num a n :=
  Mem.num_congr fun k low high => Mem.read_writeN_outside bs m b k h (by omega)

theorem Mem.writeN_append (xs ys : List Byte) (m : Mem) (a : Nat) : m.writeN a (xs ++ ys) = (m.writeN a xs).writeN (a + xs.length) ys := by
  induction xs generalizing m a with
  | nil => rfl
  | cons x xs ih => rw [List.cons_append, Mem.writeN, Mem.writeN, ih, List.length_cons, Nat.add_assoc, Nat.add_comm 1]

theorem Mem.writeSome_all (bs : List Byte) (m : Mem) (a : Nat) : m.writeSome a (bs.map some) = m.writeN a bs := by
  induction bs generalizing m a with
  | nil => rfl
  | cons b bs ih => exact ih _ _

/-- R132, R133: the first sixteen bytes of a slot: its state, its generation and its target. -/
def slotBytes (state gen target : Nat) : List Byte := natLe 4 state ++ natLe 4 gen ++ natLe 8 target

theorem slotBytes_length (state gen target : Nat) : (slotBytes state gen target).length = 16 := by simp [slotBytes]

/-- R132, R133: a slot whose state, generation and target have been written. -/
theorem slot_written {m : Mem} (h : m.wf = true) (key state gen target : Nat) :
    let m' := m.writeN key (slotBytes state gen target)
    m'.num key 4 = state % 2 ^ 32 ∧ m'.num (key + 4) 4 = gen % 2 ^ 32 ∧ m'.num (key + 8) 8 = target % 2 ^ 64 ∧
      ∀ k, k < key ∨ key + 16 ≤ k → m'.read k = m.read k := by
  intro m'
  have parts : m' = ((m.writeN key (natLe 4 state)).writeN (key + 4) (natLe 4 gen)).writeN (key + 8) (natLe 8 target) := by
    simp only [m', slotBytes, Mem.writeN_append, List.length_append, natLe_length]
  have h₁ := Mem.writeN_wf (natLe 4 state) m key h
  have h₂ := Mem.writeN_wf (natLe 4 gen) _ (key + 4) h₁
  rw [show (2 : Nat) ^ 32 = 256 ^ 4 by norm_num, show (2 : Nat) ^ 64 = 256 ^ 8 by norm_num]
  refine ⟨?_, ?_, ?_, fun k out => Mem.read_writeN_outside _ m key k h (by rw [slotBytes_length]; exact out)⟩
  · rw [parts, Mem.num_writeN_outside h₂ (by omega), Mem.num_writeN_outside h₁ (by omega), Mem.num_writeN_natLe _ _ _ _ h]
  · rw [parts, Mem.num_writeN_outside h₂ (by omega), Mem.num_writeN_natLe _ _ _ _ h₁]
  · rw [parts, Mem.num_writeN_natLe _ _ _ _ h₂]

/-! ### The granule of a slot (R48) -/

theorem ascending_one {l : List Nat} {a : Nat} (some_ : l ≠ []) (h : ∀ x ∈ l, x = a) : ascending l = [a] := by
  have stays : ∀ l : List Nat, (∀ x ∈ l, x = a) → l.foldl (fun acc x => insertAsc x acc) [a] = [a] := by
    intro l
    induction l with
    | nil => intro _; rfl
    | cons x xs ih =>
      intro h
      have one : insertAsc x [a] = [a] := by simp [h x List.mem_cons_self, insertAsc]
      rw [List.foldl_cons, one, ih fun y hy => h y (List.mem_cons_of_mem _ hy)]
  obtain ⟨x, xs, rfl⟩ := List.exists_cons_of_ne_nil some_
  obtain rfl := h x List.mem_cons_self
  exact stays xs fun y hy => h y (List.mem_cons_of_mem _ hy)

/-- Sixteen bytes at a multiple of sixteen are one granule, written whole. -/
theorem spanWrites_granule {key : Nat} (aligned : key % 16 = 0) {bs : List Byte} (len : bs.length = 16) :
    spanWrites key bs = [{ gran := granOf key, bytes := bs.map some }] := by
  have one : ascending ((List.range 16).map fun i => granOf (key + i)) = [granOf key] := by
    refine ascending_one (by simp) fun x hx => ?_
    obtain ⟨i, hi, rfl⟩ := List.mem_map.mp hx
    have := List.mem_range.mp hi
    simp only [granOf]
    omega
  have place : 16 * granOf key = key := by
    unfold granOf
    omega
  have bytes : (List.range 16).map (fun i => if (decide (key ≤ key + i) && decide (key + i < key + 16)) = true then bs[key + i - key]? else none) =
      bs.map some := by
    refine List.ext_getElem (by simp [len]) fun i hi _ => ?_
    have inside : i < 16 := by simpa using hi
    simp [inside, len]
  simp only [spanWrites, len, one, List.map_cons, List.map_nil, place, bytes]

/-! ### Steps that change no register and no byte -/

/-- Between two states every group keeps its registers and its count of words, and no byte of memory differs. -/
structure BytesKept (s t : State) : Prop where
  groups : RegsKept s t
  mem : t.mem = s.mem

theorem BytesKept.refl (s : State) : BytesKept s s := ⟨.refl s, rfl⟩

theorem BytesKept.trans {a b c : State} (h : BytesKept a b) (k : BytesKept b c) : BytesKept a c := ⟨h.groups.trans k.groups, k.mem.trans h.mem⟩

theorem BytesKept.foldl {α : Type} {f : State → α → State} (hf : ∀ s a, BytesKept s (f s a)) (l : List α) (s : State) :
    BytesKept s (l.foldl f s) := by
  induction l generalizing s with
  | nil => exact .refl s
  | cons a l ih => exact (hf s a).trans (ih _)

section
variable (s : State)

theorem addBinds_kept (pid : Nat) (id : Word) (f : Nat → Nat) : BytesKept s (s.addBinds pid id f) := ⟨.same rfl, rfl⟩

theorem unpin_kept (pid : Nat) : BytesKept s (s.unpin pid) := by
  refine ⟨(unpin_endOnly s pid).regsKept, ?_⟩
  unfold State.unpin
  split <;> rfl

theorem knotZero_mem (ti n : Nat) : (s.knotZero ti n).mem = s.mem := by
  unfold State.knotZero
  split
  · rfl
  · next t _ =>
    split
    · rfl
    · next kn _ =>
      obtain ⟨gs, ended⟩ := foldl_updGroup_keeps (Group.knotEnd n kn.scope kn.status kn.addr) t.groups s
      have same : (s.updTeamGroups t (Group.knotEnd n kn.scope kn.status kn.addr)).mem = s.mem := by rw [State.updTeamGroups, ended]
      dsimp only
      split
      · exact same
      · exact same

theorem decrement_kept (ti n : Nat) (scope : Scope) (status : Nat) (addr : DWord) : BytesKept s (s.decrement ti n scope status addr) := by
  refine ⟨(decrement_endOnly s ti n scope status addr []).regsKept, ?_⟩
  unfold State.decrement
  split
  · rfl
  · split
    · rfl
    · rfl
    · split
      · rfl
      · dsimp only
        split
        · exact knotZero_mem _ ti n
        · rfl

/-- R133: the knots tied to a word are decremented. -/
theorem tiedKnots_kept (key : Nat) : BytesKept s (s.tiedKnots key) := by
  have one : ∀ (u : State) (x : Nat × Nat), BytesKept u ((u.updTeam x.1 fun t =>
      { t with knots := listModify t.knots x.2 fun k => { k with tie := none } }).decrement x.1 x.2 .y 0 0) := fun u x => by
    refine BytesKept.trans ?_ (decrement_kept _ _ _ _ _ _)
    exact ⟨.same rfl, rfl⟩
  exact .foldl one _ s

end

theorem XlatOnly.kept {s t : State} (h : XlatOnly s t) : BytesKept s t := by
  refine ⟨h.regsKept, ?_⟩
  obtain ⟨x, rfl⟩ := h
  rfl

/-! ### The atomic change of a slot (R49, R133, R134) -/

/-- R49: an atomic commits no store of its group where none is to its granule. -/
theorem flushGran_none {s : State} {gi gran : Nat} (sc : Scope)
    (none_ : ∀ g, s.groups[gi]? = some g → ∀ o ∈ g.stores, granOf o.key ≠ gran) : s.flushGran gi gran sc = s := by
  unfold State.flushGran
  split
  · rfl
  · next g hg =>
    refine if_neg fun carried => ?_
    obtain ⟨o, ho, here⟩ := List.any_eq_true.mp carried
    exact none_ g hg o ho (by simpa using (Bool.and_eq_true_iff.mp here).2)

/-- A piece of virtual addresses that a translation covers. -/
def Piece.translated (x : Piece) : Prop := ∃ t : Xlate, x.found = .hit t ∧ (t.va : Int) ≤ x.va

theorem key_later {x : Piece} (h : x.translated) (o : Nat) : ({ x with va := x.va + (o : Int) } : Piece).key = x.key + o := by
  obtain ⟨t, hit, low⟩ := h
  simp only [Piece.key, hit, Xlate.at]
  omega

/-- R133: a field of a slot in memory that is not sealed. -/
theorem atomOld_field {s : State} (unsealed : s.homes.seals = []) {x : Piece} (h : x.translated) (p : Part) (o n : Nat) :
    s.atomOld p { x with va := x.va + (o : Int) } n = s.mem.num (x.key + o) n := by
  have home : ∀ key, s.homeByte (some p.id) x.shr key = s.mem.read key := fun key => by simp [State.homeByte, Homes.seal?, unsealed]
  have shr : ({ x with va := x.va + (o : Int) } : Piece).shr = x.shr := rfl
  rw [State.atomOld, key_later h, shr, Mem.num, Mem.readN_eq]
  simp only [home]

/-- R133, R134: what a change of a slot writes as its target: BIND's reference, or for UNBIND the target that the slot keeps. -/
def State.slotTarget (s : State) (key : Nat) (ref : Option CodeRef) : Nat :=
  match ref with
  | some r => r.bits.toNat
  | none => s.mem.num (key + 16) 8

theorem slotTarget_lt (s : State) (key : Nat) (ref : Option CodeRef) : s.slotTarget key ref < 2 ^ 64 := by
  cases ref with
  | some r => exact r.bits.isLt
  | none => exact Mem.num_lt s.mem (key + 16) 8

/-- R133: a slot in state 2 no longer binds its target. -/
def State.freed (s : State) (pid state target : Nat) : State :=
  if state == 2 then s.addBinds pid (CodeRef.ofBits (BitVec.ofNat 64 target)).obj (fun n => n - 1) else s

/-- R133: BIND counts its object once more. -/
def State.counted (s : State) (pid : Nat) (ref : Option CodeRef) : State :=
  match ref with
  | some r => s.addBinds pid r.obj (fun n => n + 1)
  | none => s

/-- R133, R134: what follows the write of a slot: its group knows of the atomic, the hall drops its line, and tied knots are decremented. -/
def State.slotTold (s : State) (w : Who) (key : Nat) : State :=
  let s1 := s.updGroup w.gi fun g =>
    { g with stores := g.stores.map fun o => if granOf o.key == granOf key then { o with atomicAfter := true } else o }
  ((s1.dropL1 w.t.hall (lineOf key)).tiedKnots key).unpin w.p.id

/-- R133, R134: the bytes that a change of a slot writes. -/
def newSlot (ref : Option CodeRef) (field : Nat → Nat → Nat) : List Byte :=
  match ref with
  | some r => slotBytes 2 (field 4 4 + 1) r.bits.toNat
  | none => slotBytes 0 (field 4 4 + 1) (field 16 8)

/-- R133, R134: the change of a slot whose fields are read by offset and length. -/
def State.slotStep (s : State) (w : Who) (x : Piece) (ref : Option CodeRef) (field : Nat → Nat → Nat) : State × Nat :=
  if 2 < field 0 4 then (s, 7)
  else
    let s1 := s.freed w.p.id (field 0 4) (field 8 8)
    let s2 := s1.commit (s1.atomKind w.gi .y) ((writesAt x.va.toNat x.shr (spanWrites x.key (newSlot ref field))).map fun g =>
      { g with fences := List.replicate 16 (some (w.gi, w.g.fence)) })
    ((s2.counted w.p.id ref).slotTold w x.key, 0)

theorem changeSlot_eq (s : State) (w : Who) (x : Piece) (ref : Option CodeRef) :
    s.changeSlot w x ref = (s.flushGran w.gi (granOf x.key) .y).slotStep w x ref
      fun o n => (s.flushGran w.gi (granOf x.key) .y).atomOld w.p { x with va := x.va + (o : Int) } n := by
  cases ref <;> rfl

theorem freed_kept (s : State) (pid state target : Nat) : BytesKept s (s.freed pid state target) := by
  unfold State.freed
  split
  · exact addBinds_kept s _ _ _
  · exact .refl s

theorem freed_plain {s : State} (plain : s.plainMemory) (pid state target : Nat) : (s.freed pid state target).plainMemory := by
  unfold State.freed
  split
  · refine ⟨fun p hp => ?_, plain.2⟩
    obtain ⟨q, hq, rfl⟩ := List.mem_map.mp hp
    dsimp only
    split <;> exact plain.1 q hq
  · exact plain

theorem counted_kept (s : State) (pid : Nat) (ref : Option CodeRef) : BytesKept s (s.counted pid ref) := by
  cases ref with
  | some r => exact addBinds_kept s _ _ _
  | none => exact .refl s

theorem slotTold_kept (s : State) (w : Who) (key : Nat) : BytesKept s (s.slotTold w key) := by
  have known : BytesKept s (s.updGroup w.gi fun g =>
      { g with stores := g.stores.map fun o => if granOf o.key == granOf key then { o with atomicAfter := true } else o }) :=
    ⟨.updGroup s w.gi fun _ => ⟨rfl, rfl⟩, rfl⟩
  refine BytesKept.trans ?_ (unpin_kept _ _)
  refine BytesKept.trans ?_ (tiedKnots_kept _ key)
  exact known.trans ⟨.same rfl, rfl⟩

section
variable {s : State} {w : Who} {x : Piece} (ref : Option CodeRef) (plain : s.plainMemory) (hit : x.translated)
  (none_ : ∀ g, s.groups[w.gi]? = some g → ∀ o ∈ g.stores, granOf o.key ≠ granOf x.key)
include plain hit none_

/-- R49, R133: the change of a slot, whose fields are what memory holds. -/
theorem changeSlot_fields : s.changeSlot w x ref = s.slotStep w x ref fun o n => s.mem.num (x.key + o) n := by
  have fields : (fun (o n : Nat) => s.atomOld w.p { x with va := x.va + (o : Int) } n) = fun o n => s.mem.num (x.key + o) n :=
    funext fun o => funext fun n => atomOld_field plain.2 hit w.p o n
  rw [changeSlot_eq, flushGran_none .y none_, fields]

/-- R129, R133: a slot of a reserved state is left as it is. -/
theorem changeSlot_reserved (reserved : 2 < s.mem.num x.key 4) : s.changeSlot w x ref = (s, 7) := by
  rw [changeSlot_fields ref plain hit none_, State.slotStep]
  exact if_pos reserved

/-- R133, R134: a slot of another state is written with its new state, the next generation and its target. -/
theorem changeSlot_changed (aligned : x.key % 16 = 0) (known : s.mem.num x.key 4 ≤ 2) :
    ∃ t, s.changeSlot w x ref = (t, 0) ∧ RegsKept s t ∧
      t.mem = s.mem.writeN x.key (slotBytes (if ref.isSome then 2 else 0) (s.mem.num (x.key + 4) 4 + 1) (s.slotTarget x.key ref)) := by
  have bytes : newSlot ref (fun o n => s.mem.num (x.key + o) n) =
      slotBytes (if ref.isSome then 2 else 0) (s.mem.num (x.key + 4) 4 + 1) (s.slotTarget x.key ref) := by
    cases ref <;> rfl
  have unreserved : ¬ 2 < s.mem.num (x.key + 0) 4 := Nat.not_lt.mpr known
  rw [changeSlot_fields ref plain hit none_, State.slotStep, if_neg unreserved, bytes,
    spanWrites_granule aligned (slotBytes_length _ _ _)]
  refine ⟨_, rfl, ?_, ?_⟩
  · exact (((freed_kept s _ _ _).groups.trans (commit_only _ _ _).regsKept).trans (counted_kept _ _ _).groups).trans (slotTold_kept _ _ _).groups
  · have place : 16 * granOf x.key = x.key := by
      unfold granOf
      omega
    rw [(slotTold_kept _ _ _).mem, (counted_kept _ _ _).mem, (commit_plain (freed_plain plain _ _ _) rfl _).1, (freed_kept s _ _ _).mem]
    simp only [writesAt, List.map_cons, List.map_nil, List.foldl_cons, List.foldl_nil, place, Mem.writeSome_all]

end

/-! ### The access to a slot (R262, R274) -/

theorem cutRun_slot {fuel va : Nat} (aligned : va % 32 = 0) : cutRun (fuel + 2) va 32 = [(va, 32)] := by
  have whole : min 32 (4096 - va % 4096) = 32 := by omega
  simp [cutRun, whole]

theorem oneSpan_slot {va : Nat} (aligned : va % 32 = 0) : oneSpan va 32 = [{ lane := 0, runs := [((va : Int), 32)] }] := by
  have low : ¬ (va : Int) < 0 := by omega
  rw [oneSpan, if_neg low]
  simp only [Int.toNat_natCast, cutRun_slot aligned, List.map_cons, List.map_nil]

/-- R258, R262: a translation that the TLBs find for an address covers it. -/
theorem lookup_covers {x : PartXlat} {sites : List TlbSite} {va : Nat} {t : Xlate} (h : x.lookup sites va = some t) : t.va ≤ va := by
  obtain ⟨site, -, found⟩ := List.exists_of_findSome?_eq_some h
  obtain ⟨e, he, rfl⟩ := Option.map_eq_some_iff.mp found
  have covers := List.find?_some he
  simp only [Xlate.covers, Bool.and_eq_true, decide_eq_true_eq] at covers
  exact covers.2.1

theorem access_covers {p : Part} {sites : List TlbSite} {i : Intent} {va : Nat} {t : Xlate} (h : PartXlat.access p sites i va = .hit t) :
    t.va ≤ va := by
  have hit : p.xlat.find sites i va = .hit t := by
    unfold PartXlat.access at h
    split at h
    · next x eq =>
      split at h
      · rw [eq, h]
      · cases h
    · exact h
  unfold PartXlat.find at hit
  split at hit
  · cases hit
  · split at hit
    · next x eq =>
      cases hit
      exact lookup_covers eq
    · split at hit <;> cases hit

/-- R274: every piece of an access that reaches its bytes translates. -/
theorem reach_hits {s : State} {p : Part} {sites : List TlbSite} {i : Intent} {spans : List Span} {xs : List Piece}
    (h : s.reach p sites i false spans = .ok xs) {x : Piece} (hx : x ∈ spans.flatMap (s.pieces p sites i false)) : ∃ t, x.found = .hit t := by
  unfold State.reach at h
  dsimp only at h
  split at h
  · cases h
  · next found =>
    split at h
    · cases h
    · next allowed =>
      split at h
      · cases h
      · next mapped =>
        simp only [Bool.not_eq_true', Bool.not_eq_false, List.isEmpty_iff, List.filter_eq_nil_iff] at found allowed mapped
        have missing := found x hx
        have access := allowed x hx
        have page := mapped x hx
        cases eq : x.found with
        | hit t => exact ⟨t, rfl⟩
        | missing => exact absurd (by rw [eq]; rfl) missing
        | fault r =>
          cases r with
          | access => exact absurd (by rw [eq]; rfl) access
          | page st r g t => exact absurd (by rw [Piece.pageFault, eq]; rfl) page

/-- R274: the pieces of an access that reaches its bytes are among those of its spans. -/
theorem reach_pieces {s : State} {p : Part} {sites : List TlbSite} {i : Intent} {spans : List Span} {xs : List Piece}
    (h : s.reach p sites i false spans = .ok xs) {x : Piece} (hx : x ∈ xs) : x ∈ spans.flatMap (s.pieces p sites i false) := by
  unfold State.reach at h
  dsimp only at h
  split at h
  · cases h
  · split at h
    · cases h
    · split at h
      · cases h
      · cases h
        exact (List.mem_filter.mp hx).1

/-- R258: the pieces of an aligned slot: its 32 bytes, or ACCESS where they pass the end of the addresses. -/
theorem pieces_slot (s : State) (p : Part) (sites : List TlbSite) (i : Intent) {va : Nat} (aligned : va % 32 = 0) :
    (oneSpan va 32).flatMap (s.pieces p sites i false) =
      [{ lane := 0, va := va, len := 32, found := if classBase < va + 32 then .fault .access else PartXlat.access p sites i va }] := by
  have high : ((va : Int) < 0 ∨ (classBase : Int) < (va : Int) + ((32 : Nat) : Int)) ↔ classBase < va + 32 := by omega
  rw [oneSpan_slot aligned]
  simp only [List.flatMap_cons, List.flatMap_nil, List.append_nil, State.pieces, Bool.or_eq_true, decide_eq_true_eq, high]
  split
  · rfl
  · rw [Int.toNat_natCast, cutRun_slot aligned]
    rfl

/-- R133, R274: the access to a slot that is aligned is one piece at its address. -/
theorem reach_slot {s : State} {p : Part} {sites : List TlbSite} {i : Intent} {va : Nat} (aligned : va % 32 = 0) {x : Piece} {xs : List Piece}
    (h : s.reach p sites i false (oneSpan va 32) = .ok (x :: xs)) : x.translated := by
  have member := reach_pieces h List.mem_cons_self
  obtain ⟨t, hit⟩ := reach_hits h member
  rw [pieces_slot s p sites i aligned, List.mem_singleton] at member
  subst member
  dsimp only at hit
  split at hit
  · cases hit
  · next low => exact ⟨t, by rw [if_neg low, hit], Int.ofNat_le.mpr (access_covers hit)⟩

/-! ### BIND and UNBIND of a slot (R56, R133, R134, R448) -/

/-- R448: a word of a partition that neither records nor reruns waits for no turn. -/
theorem turn_plain (s : State) {p : Part} (t : Team) (g : Group) (x : AtomPlace) (h : p.replay.ctl = 0) : s.turn p t g x = .go := by
  simp [State.turn, State.recorded, h]

theorem noteAtoms_plain (s : State) {p : Part} (t : Team) (g : Group) (xs : List AtomPlace) (h : p.replay.ctl = 0) : s.noteAtoms p t g xs = s := by
  simp [State.noteAtoms, State.recorded, h]

/-- R133: the access to a slot that translates changes the slot, and puts the status. -/
theorem slotWord_reached {s : State} {w : Who} {d : SReg} {o : Operands} (ref : Option CodeRef) {x : Piece} {xs : List Piece}
    (unlogged : w.p.replay.ctl = 0) (aligned : o.tb.base.toNat % 32 = 0)
    (reached : s.reach w.p (s.sitesOf w.t.hall) .atomic false (oneSpan o.tb.base.toNat 32) = .ok (x :: xs))
    (sound : w.atomErrors .y (oneSpan o.tb.base.toNat 32) s (x :: xs) = none) :
    let r := (s.usedWalks w.p.id (s.sitesOf w.t.hall) (x :: xs)).changeSlot w x ref
    s.slotWord w d o ref = .done (Done.plain (r.1.putS w.gi d (BitVec.ofNat 32 r.2))) := by
  have used := usedWalks_xlatOnly s w.p.id (s.sitesOf w.t.hall) (x :: xs)
  have place : (o.tb.base.toNat % 32 != 0) = false := by simpa using aligned
  intro r
  have put : (s.usedWalks w.p.id (s.sitesOf w.t.hall) (x :: xs)).slotAtom w d x ref = r.1.putS w.gi d (BitVec.ofNat 32 r.2) := by
    rw [State.slotAtom]
    simp only [noteAtoms_plain _ w.t w.g _ unlogged, ite_self]
    rfl
  rw [State.slotWord]
  simp only [place, Bool.false_eq_true, if_false]
  rw [accessThen_ok _ reached (used.dataError _ _ _ _ _) sound]
  simp only [turn_plain _ w.t w.g _ unlogged, put]
  rfl

theorem commitGroup_sites (s : State) (gi : Nat) (sc : Scope) (hall : Nat) : (s.commitGroup gi sc).sitesOf hall = s.sitesOf hall := by
  obtain ⟨u, gs, only, eq⟩ := commitGroup_rest s gi sc
  rw [eq, only.rest]
  rfl

section
variable {s : State} {c : Cx} {d a b : SReg} (h : s.cx? = some c)
include h

omit h in
theorem finishSlot_plain {i : Instr} {o : Operands} {acc : State → Acc} {u : State}
    (done : acc (s.commitGroup c.gi .y) = .done (Done.plain u)) : s.finishSlot c i o acc = (u.closeRegion c).retire c := by
  rw [State.finishSlot]
  simp only [done]
  exact finishAccess_plain _ c i o true u

/-- R129, R133: BIND looks at its object first. -/
theorem exec_bind (hc : c.check (.bindSlot d a b) = .go) :
    let ref := CodeRef.ofBits (pairOf (c.g.regs.sreg b.val) (c.g.regs.sreg (b.val + 1)))
    ∃ o : Operands, o.tb.base = c.g.regs.spair a.val ∧ exec (.bindSlot d a b) s = .next (s.finishSlot c (.bindSlot d a b) o fun s1 =>
      if c.p.bindStatus ref ≠ 0 then .done (Done.plain (s1.putS c.gi d (BitVec.ofNat 32 (c.p.bindStatus ref))))
      else s1.slotWord c.who d o (some ref)) := by
  intro ref
  let o := c.sysOps (c.g.regs.spair a.val) [c.g.regs.sreg b.val, c.g.regs.sreg (b.val + 1)]
  have low : o.word 0 = c.g.regs.sreg b.val := Lanes.at_all _ 0 (by decide)
  have high : o.word 1 = c.g.regs.sreg (b.val + 1) := Lanes.at_all _ 0 (by decide)
  refine ⟨o, rfl, (issue_go _ s _ c h hc).trans ?_⟩
  simp only [State.bind_, bne_iff_ne]
  rw [← low, ← high]
  rfl

/-- R134: UNBIND of an address other than zero. -/
theorem exec_unbind {i : Instr} (hi : i = .unbind d a b ∨ i = .unbindReleaseHold d a b) (hc : c.check i = .go) (some_ : c.g.regs.spair a.val ≠ 0) :
    ∃ o : Operands, o.tb.base = c.g.regs.spair a.val ∧ exec i s = .next (s.finishSlot c i o fun s1 => s1.slotWord c.who d o none) := by
  have run : exec i s = .next (s.unbindForms c i d a b) := by
    rcases hi with rfl | rfl
    · exact issue_go _ s _ c h hc
    · exact issue_go _ s _ c h hc
  refine ⟨c.sysOps (c.g.regs.spair a.val) [], rfl, ?_⟩
  rw [run, State.unbindForms, if_neg (by simpa using some_)]

/-- R134: UNBIND of address zero gives up a hold. -/
theorem exec_unbindZero {i : Instr} (hi : i = .unbind d a b ∨ i = .unbindReleaseHold d a b) (hc : c.check i = .go) (zero : c.g.regs.spair a.val = 0) :
    exec i s = .next (s.releaseHold c d b) := by
  have run : exec i s = .next (s.unbindForms c i d a b) := by
    rcases hi with rfl | rfl
    · exact issue_go _ s _ c h hc
    · exact issue_go _ s _ c h hc
  rw [run, State.unbindForms, if_pos (by simpa using zero)]

end

end Sys2Proof.Machine
end

section
/-! PROOFS. PUBLISH, BIND and UNBIND (R56, R122 to R129, R133, R134). -/

namespace Sys2Proof.Machine

/-! ### A word that changes a slot -/

theorem XlatOnly.groups {s t : State} (h : XlatOnly s t) : t.groups = s.groups := by
  obtain ⟨x, rfl⟩ := h
  rfl

/-- BIND of an object that passes, or UNBIND of an address other than zero: the word, and the reference that it writes into its slot. -/
def slotWordOf (c : Cx) (d a b : SReg) (i : Instr) (ref : Option CodeRef) : Prop :=
  i = .bindSlot d a b ∧ ref = some (CodeRef.ofBits (pairOf (c.g.regs.sreg b.val) (c.g.regs.sreg (b.val + 1)))) ∧
    (∀ r, ref = some r → c.p.bindStatus r = 0) ∨
  (i = .unbind d a b ∨ i = .unbindReleaseHold d a b) ∧ ref = none ∧ c.g.regs.spair a.val ≠ 0

/-- A step that puts a status, leaves `mem`, and retires its word. -/
def StatusMem (o : Host.Outcome State Fault Refusal) (c : Cx) (d : SReg) (st : Word) (mem : Mem) : Prop := ∃ t, StatusDone o c d st t ∧ t.mem = mem

theorem putClosed_retire_mem (u : State) (c : Cx) (closes : Bool) (d : SReg) (st : Word) : ((u.putClosed c closes d st).retire c).mem = u.mem :=
  putClosed_mem u c closes d st

theorem statusMem_retire {s u : State} {c : Cx} (h : s.cx? = some c) (kept : RegsKept s u) (closes : Bool) (d : SReg) (st : Word) :
    StatusMem (.next ((u.putClosed c closes d st).retire c)) c d st u.mem :=
  ⟨_, statusDone_retire h kept closes d st, putClosed_retire_mem u c closes d st⟩

section
variable {s : State} {c : Cx} {d a b : SReg} (h : s.cx? = some c)
include h

/-- R133, R134: a word on a slot puts its status after the change of the slot, and closes an open region. -/
theorem exec_slotWord {i : Instr} {ref : Option CodeRef} (word : slotWordOf c d a b i ref) (hc : c.check i = .go) :
    ∃ o : Operands, o.tb.base = c.g.regs.spair a.val ∧ exec i s = .next (s.finishSlot c i o fun s1 => s1.slotWord c.who d o ref) := by
  rcases word with ⟨rfl, rfl, passes⟩ | ⟨hi, rfl, some_⟩
  · obtain ⟨o, base, run⟩ := exec_bind h hc
    refine ⟨o, base, run.trans ?_⟩
    simp only [passes _ rfl, ne_eq, not_true_eq_false, if_false]
  · exact exec_unbind h hi hc some_

/-- R129, R133, R134: a word whose slot is reached ends with the status of the change of its slot, and with the memory that the change leaves. -/
theorem slotWord_done {i : Instr} {ref : Option CodeRef} (word : slotWordOf c d a b i ref) (hc : c.check i = .go)
    (unlogged : c.p.replay.ctl = 0) {x : Piece} {xs : List Piece} (aligned : (c.g.regs.spair a.val).toNat % 32 = 0)
    (reached : (s.commitGroup c.gi .y).reach c.p (s.sitesOf c.t.hall) .atomic false (oneSpan (c.g.regs.spair a.val).toNat 32) = .ok (x :: xs))
    (sound : c.who.atomErrors .y (oneSpan (c.g.regs.spair a.val).toNat 32) (s.commitGroup c.gi .y) (x :: xs) = none) {t : State} {st : Nat}
    (changed : ((s.commitGroup c.gi .y).usedWalks c.p.id (s.sitesOf c.t.hall) (x :: xs)).changeSlot c.who x ref = (t, st))
    (kept : RegsKept ((s.commitGroup c.gi .y).usedWalks c.p.id (s.sitesOf c.t.hall) (x :: xs)) t) :
    StatusMem (exec i s) c d (BitVec.ofNat 32 st) t.mem := by
  obtain ⟨o, base, run⟩ := exec_slotWord h word hc
  rw [← base] at aligned reached sound
  rw [← commitGroup_sites s c.gi .y] at reached changed kept
  have came := slotWord_reached (w := c.who) (d := d) ref unlogged aligned reached sound
  dsimp only at came
  have here : c.who.p.id = c.p.id ∧ c.who.t.hall = c.t.hall := ⟨rfl, rfl⟩
  rw [here.1, here.2, changed] at came
  rw [run, finishSlot_plain came]
  refine statusMem_retire h ?_ true d _
  exact ((commitGroup_regsKept s c.gi .y).trans (usedWalks_xlatOnly _ _ _ _).regsKept).trans kept

/-- R129, R133, R134: BIND of an object that passes, and UNBIND, change the slot, or leave a slot of a reserved state. -/
theorem slot_spec {i : Instr} {ref : Option CodeRef} (word : slotWordOf c d a b i ref) (hc : c.check i = .go)
    (unlogged : c.p.replay.ctl = 0) {x : Piece} {xs : List Piece} (aligned : (c.g.regs.spair a.val).toNat % 32 = 0)
    (reached : (s.commitGroup c.gi .y).reach c.p (s.sitesOf c.t.hall) .atomic false (oneSpan (c.g.regs.spair a.val).toNat 32) = .ok (x :: xs))
    (sound : c.who.atomErrors .y (oneSpan (c.g.regs.spair a.val).toNat 32) (s.commitGroup c.gi .y) (x :: xs) = none)
    (plain : (s.commitGroup c.gi .y).plainMemory) (place : x.key % 32 = 0)
    (none_ : ∀ g, (s.commitGroup c.gi .y).groups[c.gi]? = some g → ∀ o ∈ g.stores, granOf o.key ≠ granOf x.key) :
    let u := s.commitGroup c.gi .y
    (2 < u.mem.num x.key 4 → StatusMem (exec i s) c d 7 u.mem) ∧
    (u.mem.num x.key 4 ≤ 2 → StatusMem (exec i s) c d 0 (u.mem.writeN x.key
      (slotBytes (if ref.isSome then 2 else 0) (u.mem.num (x.key + 4) 4 + 1) (u.slotTarget x.key ref)))) := by
  intro u
  let v := u.usedWalks c.p.id (s.sitesOf c.t.hall) (x :: xs)
  have used : XlatOnly u v := usedWalks_xlatOnly u _ _ _
  have mem : v.mem = u.mem := used.kept.mem
  have target : v.slotTarget x.key ref = u.slotTarget x.key ref := by simp only [State.slotTarget, mem]
  have hit := reach_slot aligned reached
  have free : ∀ g, v.groups[c.who.gi]? = some g → ∀ o ∈ g.stores, granOf o.key ≠ granOf x.key := fun g hg => none_ g (used.groups ▸ hg)
  constructor
  · intro reserved
    have changed := changeSlot_reserved ref (used.plainMemory plain) hit free (mem ▸ reserved)
    have done := slotWord_done h word hc unlogged aligned reached sound changed (.refl v)
    rwa [mem] at done
  · intro known
    obtain ⟨t, changed, kept, written⟩ := changeSlot_changed ref (used.plainMemory plain) hit free (by omega) (mem ▸ known)
    have done := slotWord_done h word hc unlogged aligned reached sound changed kept
    rwa [written, mem, target] at done

/-- R129, R133: BIND of an object that fails changes no slot. -/
theorem bindFails_spec (hc : c.check (.bindSlot d a b) = .go) {st : Nat}
    (status : c.p.bindStatus (CodeRef.ofBits (pairOf (c.g.regs.sreg b.val) (c.g.regs.sreg (b.val + 1)))) = st) (fails : st ≠ 0) :
    StatusMem (exec (.bindSlot d a b) s) c d (BitVec.ofNat 32 st) (s.commitGroup c.gi .y).mem := by
  obtain ⟨o, -, run⟩ := exec_bind h hc
  simp only [status, if_pos fails] at run
  rw [run, finishSlot_plain rfl]
  exact statusMem_retire h (commitGroup_regsKept s c.gi .y) true d _

end

/-! ### The hold that UNBIND gives up (R131, R134) -/

theorem retireObject_keeps (s : State) (pid : Nat) (o : CodeObject) : (s.retireObject pid o).id = o.id ∧ (s.retireObject pid o).hold = o.hold := by
  unfold State.retireObject
  dsimp only
  split
  · split <;> exact ⟨rfl, rfl⟩
  · exact ⟨rfl, rfl⟩

/-- R131: a partition holds no object of a number. -/
def State.unheld (s : State) (pid : Nat) (id : Word) : Prop := ∀ p o, s.part? pid = some p → o ∈ p.objects → o.id = id → o.hold = false

theorem unheld_updPart {s : State} {pid : Nat} {id : Word} {f : Part → Part} (hf : ∀ p, (f p).id = p.id)
    (objects : ∀ q, s.part? pid = some q → ∀ o ∈ (f q).objects, o.id = id → o.hold = false) : (s.updPart pid f).unheld pid id := by
  intro p o hp ho hid
  rw [part?_updPart s pid pid hf] at hp
  obtain ⟨q, hq, rfl⟩ := Option.map_eq_some_iff.mp hp
  rw [part?_id hq, if_pos (beq_self_eq_true _)] at ho
  exact objects q hq o ho hid

theorem unheld_unpin {s : State} {pid : Nat} {id : Word} (h : s.unheld pid id) : (s.unpin pid).unheld pid id := by
  unfold State.unpin
  split
  · refine unheld_updPart (fun _ => rfl) fun q hq o ho hid => ?_
    obtain ⟨o', ho', rfl⟩ := List.mem_map.mp ho
    obtain ⟨sameId, sameHold⟩ := retireObject_keeps s pid o'
    rw [sameHold]
    exact h q o' hq ho' (sameId ▸ hid)
  · exact h

theorem unheld_retire {s : State} {pid : Nat} {id : Word} (h : s.unheld pid id) {p : Part} (hp : s.part? pid = some p) (c : Cx) :
    (s.retire c).unheld pid id := by
  obtain ⟨q, hq, objects⟩ := part?_retire c hp
  intro q' o hq' ho
  obtain rfl : q = q' := Option.some.inj (hq.symm.trans hq')
  exact h p o hp (objects ▸ ho)

/-- R134: a partition that gives up its hold of an object. -/
def Part.releases (id : Word) (p : Part) : Part := { p with objects := p.objects.map fun o => if o.id == id then { o with hold := false } else o }

theorem unheld_releases (s : State) (pid : Nat) (id : Word) : (s.updPart pid (Part.releases id)).unheld pid id := by
  refine unheld_updPart (fun _ => rfl) fun q _ o ho hid => ?_
  obtain ⟨o', -, rfl⟩ := List.mem_map.mp ho
  by_cases same : o'.id == id
  · rw [if_pos same]
  · rw [if_neg same] at hid
    exact absurd (beq_iff_eq.mpr hid) same

/-- R131, R134: the state whose partition has given up its hold of an object, where the object has status `st` 0, and has looked again at its
objects. -/
def State.holdReleased (s : State) (pid : Nat) (id : Word) (st : Nat) : State :=
  if st == 0 then (s.updPart pid (Part.releases id)).unpin pid else s

theorem holdReleased_kept (s : State) (pid : Nat) (id : Word) (st : Nat) : BytesKept s (s.holdReleased pid id st) := by
  unfold State.holdReleased
  split
  · have released : BytesKept s (s.updPart pid (Part.releases id)) := ⟨.same rfl, rfl⟩
    exact released.trans (unpin_kept _ pid)
  · exact .refl s

theorem holdReleased_unheld (s : State) {pid : Nat} {p : Part} (hp : s.part? pid = some p) (id : Word) :
    (s.holdReleased pid id 0).unheld pid id ∧ ∃ q, (s.holdReleased pid id 0).part? pid = some q := by
  have there := part?_updPart_same (f := Part.releases id) (fun _ => rfl) hp
  obtain ⟨q, hq, -⟩ := (unpin_endOnly (s.updPart pid (Part.releases id)) pid).parts _ _ there
  exact ⟨unheld_unpin (unheld_releases s pid id), q, hq⟩

theorem releaseHold_eq (s : State) (c : Cx) (d b : SReg) : s.releaseHold c d b =
    ((s.holdReleased c.p.id (c.g.regs.sreg (b.val + 1)) (c.p.objectStatus (c.g.regs.sreg (b.val + 1)))).putClosed c false d
      (BitVec.ofNat 32 (c.p.objectStatus (c.g.regs.sreg (b.val + 1))))).retire c := rfl

theorem cx?_ownPart {s : State} {c : Cx} (h : s.cx? = some c) : s.part? c.p.id = some c.p := by
  obtain ⟨-, -, -, hp, -⟩ := cx?_spec h
  rwa [part?_id hp]

/-- R134: UNBIND of slot address zero. -/
theorem releaseHold_spec {s : State} {c : Cx} {d a b : SReg} (h : s.cx? = some c) {i : Instr}
    (hi : i = .unbind d a b ∨ i = .unbindReleaseHold d a b) (hc : c.check i = .go) (zero : c.g.regs.spair a.val = 0) :
    let st := c.p.objectStatus (c.g.regs.sreg (b.val + 1))
    ∃ t, StatusDone (exec i s) c d (BitVec.ofNat 32 st) t ∧ t.mem = s.mem ∧ (st = 0 → t.unheld c.p.id (c.g.regs.sreg (b.val + 1))) := by
  intro st
  have kept := holdReleased_kept s c.p.id (c.g.regs.sreg (b.val + 1)) st
  rw [exec_unbindZero h hi hc zero, releaseHold_eq]
  refine ⟨_, statusDone_retire h kept.groups false d _, (putClosed_retire_mem _ c false d _).trans kept.mem, fun held => ?_⟩
  obtain ⟨unheld, q, hq⟩ := holdReleased_unheld s (cx?_ownPart h) (c.g.regs.sreg (b.val + 1))
  rw [← held] at unheld hq
  exact unheld_retire (s := State.putClosed _ c false d (BitVec.ofNat 32 st)) unheld hq c

/-! ### The obligation -/

/-- Settles O37, from `publish_spec`, `slot_spec`, `bindFails_spec` and `releaseHold_spec`. -/
theorem publishBindResults : Obligations.PublishBindResults := by
  unfold Obligations.PublishBindResults
  intro s c d a b h
  refine ⟨?_, ?_, fun st hc status fails => bindFails_spec h hc status fails, fun i hi hc zero => releaseHold_spec h hi hc zero⟩
  · intro w img u hc pair s1 s2 hw own read st
    obtain ⟨t, g, p, run, hg, retired, low, high, hp, objects⟩ := publish_spec h hc pair hw own read
    refine ⟨t, g, p, run, hg, retired, low, ?_, hp, fun fails => ?_, fun passes => ?_⟩
    · rw [high]
      split <;> rfl
    · rw [objects, if_neg fails, List.append_nil]
    · exact ⟨newObject w.p.nextObj w.p.cfg.tag img, by rw [objects, if_pos passes], rfl, rfl, rfl, rfl, rfl, rfl, rfl⟩
  · intro i ref x xs hc unlogged word va u aligned reached sound plain wf place none_
    obtain ⟨reserved, known⟩ := slot_spec h word hc unlogged aligned reached sound plain place none_
    refine ⟨reserved, fun low => ?_⟩
    obtain ⟨t, done, mem⟩ := known low
    obtain ⟨state, gen, target, others⟩ := slot_written wf x.key (if ref.isSome then 2 else 0) (u.mem.num (x.key + 4) 4 + 1) (u.slotTarget x.key ref)
    rw [← mem] at state gen target others
    refine ⟨t, done, ?_, gen, ?_, others⟩
    · rw [state]
      cases ref <;> rfl
    · rw [target, Nat.mod_eq_of_lt (slotTarget_lt u x.key ref)]
      cases ref <;> rfl

end Sys2Proof.Machine
end

section
/-! PROOFS. Barrier words: BAR, BARA and BARW, by the grant and by the generation of the group's last arrival (R161, R182). -/

namespace Sys2Proof.Machine

section
variable {s : State} {c : Cx} {n : BitVec 4} (h : s.cx? = some c)
include h

theorem exec_bara (hc : c.check (.bara n) = .go) : exec (.bara n) s =
    .next ((((s.endRegion c).commitGroup c.gi .h).arrive c.g.team c.gi n.toNat).closeRegion c |>.retire c) := issue_go _ s _ c h hc

theorem exec_bar_released (hc : c.check (.bar n) = .go) (released : c.e.grant = some .barrier) :
    exec (.bar n) s = .next (s.passBarrier c n.toNat) := by
  have run : exec (.bar n) s = .next _ := issue_go _ s _ c h hc
  simpa only [released] using run

theorem exec_bar_arrives (hc : c.check (.bar n) = .go) (first : c.e.grant = none) :
    exec (.bar n) s = .next (s.barArrive c (.bar n) n.toNat) := by
  have run : exec (.bar n) s = .next _ := issue_go _ s _ c h hc
  simpa only [first] using run

theorem exec_barw_released (hc : c.check (.barw n) = .go) (released : c.e.grant = some .barrier) :
    exec (.barw n) s = .next (s.passBarrier c n.toNat) := by
  have run : exec (.barw n) s = .next _ := issue_go _ s _ c h hc
  simpa only [released] using run

/-- R161, R182: a BARW that no release has reached goes by the generation of the group's last arrival, if it has arrived. -/
theorem exec_barw_looks {a : Arrival} {gen : Nat} (hc : c.check (.barw n) = .go) (first : c.e.grant = none)
    (ha : c.g.arrivals.toList[n.toNat]? = some a) (kept : a.abandoned = false) (now : s.barrierGen c n.toNat = some gen) :
    exec (.barw n) s = .next (match a.gen with
      | none => ((s.beginGroup c.gi .h).closeRegion c).retire c
      | some g => if g = gen then (s.endRegion c).waitQuiet c (.barrier n.toNat gen) else s.passBarrier c n.toNat) := by
  have run : exec (.barw n) s = .next _ := issue_go _ s _ c h hc
  simp only [first, Cx.arrival, ha, kept, now] at run
  rw [run]
  cases hg : a.gen with
  | none => rfl
  | some g => by_cases same : g = gen <;> simp [same]

end

/-- R182: after the arrival of a BAR its strand waits where the generation is the barrier's still; else the arrival has released it. -/
theorem barArrive_eq {s u : State} {c : Cx} {n gen : Nat} {a : Arrival} (i : Instr)
    (arrived : ((s.endRegion c).commitGroup c.gi .h).arrive c.g.team c.gi n = u) (ha : u.arrivalNow c n = some a)
    (kept : a.abandoned = false) (now : u.barrierGen c n = some gen) :
    s.barArrive c i n = if a.gen = some gen then u.waitQuiet c (.barrier n gen) else u.passBarrier c n := by
  simp only [State.barArrive, arrived, ha, kept, now]
  by_cases same : a.gen = some gen <;> simp [same]

/-- Settles O18: each barrier word by its grant; without one, BAR by the barrier's generation after its arrival, BARW by that of the last arrival. -/
theorem barrierResults : Obligations.BarrierResults := by
  intro s c n h
  refine ⟨exec_bara h, exec_bar_released h, ?_, exec_barw_released h, ?_⟩
  · intro hc first u a gen ha kept now
    have run := exec_bar_arrives h hc first
    rw [barArrive_eq (.bar n) rfl ha kept now] at run
    exact ⟨fun same => by rw [run, if_pos same], fun differs => by rw [run, if_neg differs]⟩
  · intro hc first a gen ha kept now
    have run := exec_barw_looks h hc first ha kept now
    refine ⟨fun never => ?_, fun same => ?_, fun g last past => ?_⟩
    · rw [run, never]
    · rw [run, same]
      exact congrArg _ (if_pos rfl)
    · rw [run, last]
      exact congrArg _ (if_neg past)

end Sys2Proof.Machine
end

section
/-! PROOFS. Control registers: GETC of each, SETC of those that the owner may write, and the SETC that raises RIGHTS (R130, R141, R191). -/

namespace Sys2Proof.Machine

/-! ### Values of control registers (R141) -/

theorem loWord_zeroExtend {w : Nat} (x : BitVec w) (narrow : w ≤ 32) : loWord (x.zeroExtend 64) = x.zeroExtend 32 := by
  apply BitVec.eq_of_toNat_eq
  have fits : x.toNat < 2 ^ 32 := Nat.lt_of_lt_of_le x.isLt (Nat.pow_le_pow_right (by decide) narrow)
  rw [loWord_toNat]
  simp only [BitVec.truncate_eq_setWidth, BitVec.toNat_setWidth]
  omega

/-! ### GETC and SETC (R141, R191) -/

section
variable {s : State} {c : Cx} (h : s.cx? = some c)
include h

theorem getc_done {r : CtrlReg} {d : SReg} (hc : c.check (.getc r d) = .go) (single : r ≠ .frame)
    (unrecorded : r = .seed → c.p.replay.ctl = 0) : ScalarDone (exec (.getc r d) s) s c d (loWord (c.g.ctrl.get r)) := by
  have run : exec (.getc r d) s = .next _ := issue_go _ s _ c h hc
  have value : (if r == .seed then s.valueRead c.p c.t c.g 0 (c.g.ctrl.get r) else (s, c.g.ctrl.get r)) = (s, c.g.ctrl.get r) := by
    split
    · next seed => exact valueRead_plain s c.t c.g 0 _ (unrecorded (by simpa using seed))
    · rfl
  simp only [value, beq_false_of_ne single, Bool.false_eq_true, if_false] at run
  rw [run]
  exact sDone_spec h d _

theorem getc_frame_done {d : SReg} (hc : c.check (.getc .frame d) = .go) :
    ScalarPairDone (exec (.getc .frame d) s) s c d c.g.ctrl.frame := by
  have run : exec (.getc .frame d) s = .next ((s.setRegs c fun y => y.setPair d.val c.g.ctrl.frame).retire c) := issue_go _ s _ c h hc
  rw [run]
  exact sPair_spec h d _ (check_go_wf hc)

theorem setc_done {r : CtrlReg} {x : SOp} (hc : c.check (.setc r x) = .go) (known : r = .round → 1 ≤ (c.sop x).toNat ∧ (c.sop x).toNat ≤ 6) :
    ∃ t, exec (.setc r x) s = .next (t.unpin c.p.id) ∧ WordDone s t c c.g.regs (c.g.ctrl.set r c.e.pc.obj (c.sop x)) := by
  have run : exec (.setc r x) s = .next _ := issue_go _ s _ c h hc
  have accepted : (r == .round && !roundOk (c.sop x)) = false := by
    rw [Bool.and_eq_false_iff, Bool.not_eq_false', beq_eq_false_iff_ne, roundOk]
    exact (em (r = .round)).symm.imp_right fun round => by simpa using known round
  simp only [accepted, Bool.false_eq_true, if_false] at run
  exact ⟨_, run, retire_done h _ _ _ rfl⟩

/-- R141: a code of ROUND that no rounding mode has. -/
theorem setc_round_refused {x : SOp} (hc : c.check (.setc .round x) = .go) (unknown : (c.sop x).toNat = 0 ∨ 6 < (c.sop x).toNat) :
    exec (.setc .round x) s = .next (s.trap c (wordOfInstr (.setc .round x)) .badHandle (c.sop x) 0 0) := by
  have run : exec (.setc .round x) s = .next _ := issue_go _ s _ c h hc
  have refused : roundOk (c.sop x) = false := by
    simp only [roundOk, Bool.and_eq_false_iff, decide_eq_false_iff_not]
    omega
  simpa only [refused, Bool.not_false, beq_self_eq_true, Bool.and_self, if_true] using run

/-- R191: the registers that SETC does not write. -/
theorem setc_refused {r : CtrlReg} {x : SOp} (legal : c.classOk (.setc r x) = true)
    (hr : r ∈ [CtrlReg.cause, .frame, .preq, .deadline, .phaseCnt, .rptIdx]) :
    exec (.setc r x) s = .next (s.spend.trap c (wordOfInstr (.setc r x)) .rights 1 0 0) := by
  have refused : c.refused (.setc r x) = some 1 := by
    simp only [List.mem_cons, List.not_mem_nil, or_false] at hr
    rcases hr with rfl | rfl | rfl | rfl | rfl | rfl <;> rfl
  exact issue_trap _ s _ c .rights [1] h (check_rights legal refused)

end

/-- Settles O19: GETC and SETC register by register, from `getc_done` and `setc_done`. -/
theorem controlRegisterResults : Obligations.ControlRegisterResults := by
  refine ⟨?_, fun s c r x h legal hr => setc_refused h legal hr⟩
  intro s c h get set k
  have narrow : ∀ {r : CtrlReg} {w : Nat} (v : BitVec w), r ≠ .frame → r ≠ .seed → w ≤ 32 → k.get r = v.zeroExtend 64 →
      get r (v.zeroExtend 32) :=
    fun v single plain hw hv d hc => by
      have done := getc_done h hc single fun seed => absurd seed plain
      rwa [hv, loWord_zeroExtend v hw] at done
  have word : ∀ {r : CtrlReg} (v : Word), r ≠ .frame → (r = .seed → c.p.replay.ctl = 0) → k.get r = pairOf v 0 → get r v :=
    fun v single plain hv d hc => by
      have done := getc_done h hc single plain
      rwa [hv, loWord_pairOf] at done
  have writes : ∀ {r : CtrlReg} (new : Word → Ctrl), (∀ v, k.set r c.e.pc.obj v = new v) → set r new :=
    fun new hn x hc known => by
      have done := setc_done h hc known
      rwa [hn] at done
  refine ⟨narrow _ nofun nofun (by decide) rfl, word _ nofun nofun rfl, word _ nofun nofun rfl, ?_, word _ nofun nofun rfl, word _ nofun nofun rfl,
    fun plain => word _ nofun (fun _ => plain) rfl, narrow _ nofun nofun (by decide) rfl, narrow _ nofun nofun (by decide) rfl,
    narrow _ nofun nofun (by decide) rfl, narrow _ nofun nofun (by decide) rfl, fun d hc => getc_frame_done h hc, writes _ fun _ => rfl,
    writes _ fun _ => rfl, writes _ fun _ => rfl, writes _ fun _ => rfl, writes _ fun _ => rfl, writes _ fun _ => rfl,
    fun x hc unknown => setc_round_refused h hc unknown⟩
  intro d hc
  have done := getc_done h hc nofun nofun
  have bit : loWord (c.g.ctrl.get .preq) = if k.preq then 1 else 0 := by
    rw [Ctrl.get]
    cases k.preq <;> rfl
  rwa [bit] at done

end Sys2Proof.Machine
end

section
/-! PROOFS. Landing: the window of a word that lands, RDX and WRX in its handler, and EMURET (R155 to R158, R188 to R190). -/

namespace Sys2Proof.Machine

/-! ### The window (R155 to R157) -/

/-- R156, R157: what a window captures of an operand that a word may lack. -/
theorem capture_captures (c : Cx) (code : Option (BitVec 8)) : CapturesIf c code (c.capture code) := by
  cases code with
  | none => rfl
  | some k =>
    refine ⟨rfl, rfl, fun l hl => Lanes.at_tabulate _ l hl, fun l hl => ?_, rfl⟩
    rw [Cx.capture, Lanes.at_tabulate _ l hl]
    cases Src.ofCode k <;> rfl

/-- R66, R67: the guard that a word names, with its polarity; SEL's field names a selector. -/
def guardNamed (w : Word) (hs : HintSet) : Option (Bool × BitVec 3) :=
  let gd := w.extractLsb' 24 2
  if formatOf w ∉ [.V, .U, .M, .A] ∨ w.extractLsb' 26 6 = 0x1B then none
  else if gd = 1 then some (false, 0)
  else if gd = 2 then some (true, 0)
  else if gd = 3 then hs.grd
  else none

/-- R67: a guard, if any, holds in a lane. -/
def Regs.guardHolds (r : Regs) (l : Nat) : Option (Bool × BitVec 3) → Bool
  | some (neg, n) => (r.guard n).getLsbD l != neg
  | none => true

theorem getLsbD_guardMask (c : Cx) (gd : BitVec 2) {l : Nat} (hl : l < 32) : (c.guardMask gd).getLsbD l =
    c.g.regs.guardHolds l (if gd = 1 then some (false, 0) else if gd = 2 then some (true, 0) else if gd = 3 then c.hs.grd else none) := by
  have every : allLanes.getLsbD l = true := by
    have ones : allLanes = BitVec.allOnes 32 := by decide
    rw [ones, BitVec.getLsbD_allOnes, decide_eq_true hl]
  have codes : ∀ gd : BitVec 2, gd = 0 ∨ gd = 1 ∨ gd = 2 ∨ gd = 3 := by decide
  rcases codes gd with rfl | rfl | rfl | rfl
  · exact every
  · exact (Bool.bne_false _).symm
  · simp [Cx.guardMask, Regs.guardHolds, hl]
  · cases named : c.hs.grd with
    | none => simpa [Cx.guardMask, Regs.guardHolds, named] using every
    | some x =>
      obtain ⟨neg, n⟩ := x
      cases neg <;> simp [Cx.guardMask, Regs.guardHolds, named, hl]

theorem guardNamed_guarded {w : Word} (format : formatOf w ∈ [.V, .U, .M, .A]) (sel : ¬ w.extractLsb' 26 6 = 0x1B) (hs : HintSet) :
    guardNamed w hs = if w.extractLsb' 24 2 = 1 then some (false, 0) else if w.extractLsb' 24 2 = 2 then some (true, 0)
      else if w.extractLsb' 24 2 = 3 then hs.grd else none :=
  if_neg (not_or.mpr ⟨not_not.mpr format, sel⟩)

theorem formatOf_sel {w : Word} (h : w.extractLsb' 26 6 = 0x1B) : formatOf w = .V := by
  simp [formatOf, Word.field, h]

/-- R155: w6, the lanes of the strand in which the guard that the word names holds. -/
theorem getLsbD_guardLanes (c : Cx) (w : Word) {l : Nat} (hl : l < 32) :
    (c.guardLanes w).getLsbD l = (c.e.active.getLsbD l && c.g.regs.guardHolds l (guardNamed w c.hs)) := by
  by_cases sel : w.extractLsb' 26 6 = 0x1B
  · simp [Cx.guardLanes, formatOf_sel sel, Word.field, sel, guardNamed, Regs.guardHolds]
  · have guarded : ∀ f, formatOf w = f → f ∈ [Format.V, .U, .M, .A] →
        c.guardLanes w = c.e.active &&& c.guardMask (w.extractLsb' 24 2) →
        (c.guardLanes w).getLsbD l = (c.e.active.getLsbD l && c.g.regs.guardHolds l (guardNamed w c.hs)) := fun f hf named lanes => by
      rw [lanes, BitVec.getLsbD_and, getLsbD_guardMask c _ hl, guardNamed_guarded (hf ▸ named) sel]
    have other : (w.field 26 6 == 0x1B) = false := beq_false_of_ne sel
    cases format : formatOf w with
    | V => exact guarded _ format (by decide) (by simp only [Cx.guardLanes, format, other, Bool.false_eq_true, if_false]; rfl)
    | U | M | A => exact guarded _ format (by decide) (by simp only [Cx.guardLanes, format, Word.field])
    | _ => simp [Cx.guardLanes, format, guardNamed, Regs.guardHolds]

/-! ### Taking a landing (R155, R158) -/

section
variable {s : State} {c : Cx} {w : Word}

theorem land_enters (asks : c.t.hdr.landing = true) (handler : c.p.handlerOk c.g.ctrl.landBase = true) (shallow : c.g.land.length < 2)
    (room : c.g.log.length + c.g.land.length < 4) (alone : c.g.chain = none) :
    s.land c w = (s.countIssued c.p.id).updGroup c.gi fun g =>
      { Group.enter true g.ctrl.landBase none g with
        land := c.window w :: g.land, ctrl := { g.ctrl with rptIdx := BitVec.ofNat 6 c.e.rpt } } := by
  simp [State.land, asks, handler, alone, Group.depth, Group.logUsed, Nat.not_le.mpr shallow, Nat.not_le.mpr room]

theorem land_undefined (h : c.t.hdr.landing = false ∨ c.p.handlerOk c.g.ctrl.landBase = false) :
    s.land c w = s.trap c w .undefinedWord 0 0 0 := by
  rw [State.land, if_pos]
  rcases h with h | h <;> simp [h]

theorem land_deep (asks : c.t.hdr.landing = true) (handler : c.p.handlerOk c.g.ctrl.landBase = true) (deep : 2 ≤ c.g.land.length) :
    s.land c w = s.trap c w .landingDepth 0 0 0 := by
  cases chain : c.g.chain with
  | none => simp [State.land, asks, handler, chain, Group.depth, deep]
  | some ch => simp [State.land, State.trap, asks, handler, chain]

end

/-! ### RDX and WRX (R188, R189) -/

/-- A write of some lanes of a vector register. -/
theorem vreg_setV_merge (r : Regs) {n : Nat} (hn : n < 128) (m : LaneMask) (x : Lanes Word) {l : Nat} (hl : l < 32) :
    Lanes.at ((r.setV n (Lanes.merge m (r.vreg n) x)).vreg n) l = if m.getLsbD l then Lanes.at x l else Lanes.at (r.vreg n) l := by
  rw [Regs.vreg_setV_same _ _ _ hn, Lanes.at_merge _ _ _ _ hl]

/-- R189: what WRX stages for a vector register, or in every lane for a scalar one. -/
def Cx.stagedValue (c : Cx) (win : Landing) (v : VReg) (vec : Bool) : Lanes Word :=
  if vec then c.g.regs.vreg v.toNat else Lanes.all (Lanes.at (c.g.regs.vreg v.toNat) ((LaneMask.lowest win.mask).getD 0))

section
variable {s : State} {c : Cx} {win : Landing} {lands : List Landing} (h : s.cx? = some c) (land : c.g.land = win :: lands)
include h land

theorem rdx_window_spec {w : BitVec 3} {hi : Bool} {v : VReg} (hc : c.check (.rdx 0 w hi v) = .go) :
    ∃ t r, exec (.rdx 0 w hi v) s = .next t ∧ WordDone s t c r c.g.ctrl ∧ r = { c.g.regs with v := r.v } ∧
      (∀ l, l < 32 →
        Lanes.at (r.vreg v.toNat) l =
          (if c.e.active.getLsbD l then loWord (win.window c.g.land.length w.toNat) else Lanes.at (c.g.regs.vreg v.toNat) l) ∧
        Lanes.at (r.vreg (v.toNat + 1)) l =
          (if c.e.active.getLsbD l then hiWord (win.window c.g.land.length w.toNat) else Lanes.at (c.g.regs.vreg (v.toNat + 1)) l)) ∧
      ∀ n, n ≠ v.toNat → n ≠ v.toNat + 1 → r.vreg n = c.g.regs.vreg n := by
  have even : VReg.even v = true := by
    have wf : rdxOk 0 w hi v = true := check_go_wf hc
    simp [rdxOk] at wf
    exact wf.1
  have pair : v.toNat + 1 < 128 := by
    have := v.isLt
    simp [VReg.even] at even
    omega
  have run : exec (.rdx 0 w hi v) s = .next _ := issue_go _ s _ c h hc
  simp only [land, beq_self_eq_true, if_true] at run
  refine ⟨_, _, run, retire_regs h _, rfl, fun l hl => ⟨?_, ?_⟩, fun n low high => ?_⟩
  · rw [Regs.vreg_setV_other _ _ _ _ (by omega), vreg_setV_merge _ (by omega) _ _ hl, Lanes.at_all _ _ hl, Group.depth]
  · have kept : (c.g.regs.setV v.toNat (Lanes.merge c.e.active (c.g.regs.vreg v.toNat) (Lanes.all (loWord (win.window c.g.depth w.toNat))))).vreg
        (v.toNat + 1) = c.g.regs.vreg (v.toNat + 1) := Regs.vreg_setV_other _ _ _ _ (by omega)
    rw [Regs.vreg_setV_same _ _ _ pair, Lanes.at_merge _ _ _ _ hl, Lanes.at_all _ _ hl, Group.depth]
  · rw [Regs.vreg_setV_other _ _ _ _ high, Regs.vreg_setV_other _ _ _ _ low]

theorem rdx_field_spec {f w : BitVec 3} {hi : Bool} {v : VReg} {x : Lanes Word} (field : f ≠ 0) (hc : c.check (.rdx f w hi v) = .go)
    (reads : c.readField win f.toNat hi = .ok x) :
    ∃ t r, exec (.rdx f w hi v) s = .next t ∧ WordDone s t c r c.g.ctrl ∧ r = { c.g.regs with v := r.v } ∧
      (∀ l, l < 32 → Lanes.at (r.vreg v.toNat) l =
        if c.e.active.getLsbD l then Lanes.at x l else Lanes.at (c.g.regs.vreg v.toNat) l) ∧
      ∀ n, n ≠ v.toNat → r.vreg n = c.g.regs.vreg n := by
  have run : exec (.rdx f w hi v) s = .next _ := issue_go _ s _ c h hc
  simp only [land, beq_false_of_ne field, reads, Bool.false_eq_true, if_false] at run
  exact ⟨_, _, run, retire_regs h _, rfl, fun l hl => vreg_setV_merge _ v.isLt _ _ hl, fun n hn => Regs.vreg_setV_other _ _ _ _ hn⟩

theorem exec_wrx {f w : BitVec 3} {hi : Bool} {v : VReg} {vec : Bool} {n : Nat} (hc : c.check (.wrx f w hi v) = .go)
    (present : (win.field f.toNat).present = true) (names : fieldReg (win.field f.toNat).code hi = some (vec, n))
    (within : c.fieldRegOk (vec, n) = true) :
    exec (.wrx f w hi v) s = .next (((s.updGroup c.gi fun g => { g with
      land := win.stage f.toNat hi (if vec then c.e.active &&& win.mask else allLanes) (c.stagedValue win v vec) :: lands })).retire c) := by
  have run : exec (.wrx f w hi v) s = .next _ := issue_go _ s _ c h hc
  simpa only [land, present, names, within, Bool.not_true, Bool.false_eq_true, if_false, Cx.stagedValue] using run

end

/-! ### EMURET (R190) -/

/-- R190, R203: a group that has returned from a landing handler, the staged writes done. -/
def Group.emulated (win : Landing) (lands : List Landing) (x : Ctx) (rest : List Ctx) (g : Group) : Group :=
  let g1 : Group := { g with land := lands, retire := g.retire + 2, regs := (win.ordered.foldl win.apply g.regs).loseLatches }
  (g1.leave x rest win.mask (win.ref.add 4) 0).settle

/-- R190: the entry of a strand that goes on after a landed word. -/
def Landing.resume (win : Landing) (e : Entry) : Entry :=
  { e with pc := win.ref.add 4, active := win.mask &&& e.owned, hints := [], rpt := 0, wait := .ready, grant := none }

theorem Group.emulated_eq (win : Landing) (lands : List Landing) (x : Ctx) (rest : List Ctx) (g : Group) {e : Entry}
    (strand : x.ctl.get x.ctl.cur = some e) : g.emulated win lands x rest =
      { g with land := lands, ctxs := rest, ctl := ((x.ctl.put x.ctl.cur (some (win.resume e))).settle settleFuel false).1,
               regs := (win.ordered.foldl win.apply g.regs).loseLatches, retire := g.retire + 2 } := by
  have lost : ∀ (b : Bool) (r : Regs), (if b then r.loseLatches.loseLatches else r.loseLatches) = r.loseLatches := by
    intro b r
    cases b <;> rfl
  simp only [Group.emulated, Group.leave, Group.settle, strand, Option.map_some, lost]
  rfl

/-- R79, R203: a change of the group's record, but not of its age, counted as a word and the one it emulated. -/
theorem countEmulated_only {s : State} {c : Cx} (h : s.cx? = some c) (f : Group → Group) (age : (f c.g).age = c.g.age) :
    let t := ((s.updGroup c.gi f).countEmulated c.p.id).yieldAfter c
    t = { s with groups := t.groups, parts := (s.countEmulated c.p.id).parts } ∧ (∀ j, j ≠ c.gi → t.groups[j]? = s.groups[j]?) ∧
      t.groups[c.gi]? = some { f c.g with age := s.ageAfter c } :=
  have only := yieldAfter_only h f age
  ⟨rfl, only.others, only.group⟩

theorem exec_emuret {s : State} {c : Cx} {win : Landing} {lands : List Landing} {x : Ctx} {rest : List Ctx} (h : s.cx? = some c)
    (land : c.g.land = win :: lands) (hc : c.check .emuret = .go) (ctxs : c.g.ctxs = x :: rest) (handles : x.landing = true) :
    exec .emuret s = .next ((((s.updGroup c.gi fun g => (g.emulated win lands x rest).wake fun w => w == .logFull).countEmulated c.p.id).yieldAfter
      c).unpin c.p.id) := by
  have run : exec .emuret s = .next _ := issue_go _ s _ c h hc
  simp only [land, ctxs, handles, if_true, updGroup_comp] at run
  exact run

/-- Settles O20: taking a landing from `land_enters` and the window's lemmas; in its handler RDX, WRX and EMURET, each by its own lemma. -/
theorem landingResults : Obligations.LandingResults := by
  refine ⟨fun s c w h => ?_, fun s c win lands h land => ?_⟩
  · have run : exec (.landing w) s = .next (s.land c w) := execLanding_cx h w
    refine ⟨fun asks handler shallow room alone => ?_, fun none_ => run.trans (congrArg _ (land_undefined none_)),
      fun asks handler deep => run.trans (congrArg _ (land_deep asks handler deep))⟩
    rw [land_enters asks handler shallow room alone] at run
    refine ⟨_, c.window w, run, rfl, fun j hj => updGroup_get_other _ _ _ _ hj, ?_, rfl, rfl, rfl, rfl, rfl, ?_, ?_, rfl, rfl⟩
    · rw [updGroup_get_same]
      exact congrArg (Option.map _) (cx?_group h)
    · exact ⟨capture_captures c _, capture_captures c _, capture_captures c _, capture_captures c _⟩
    · exact fun l hl => getLsbD_guardLanes c w hl
  · refine ⟨fun w hi v hc => rdx_window_spec h land hc, fun f w hi v x field hc reads => rdx_field_spec h land field hc reads,
      fun f w hi v vec n hc present names within => ?_, fun x rest e hc ctxs handles strand => ?_⟩
    · refine ⟨_, c.stagedValue win v vec, exec_wrx h land hc present names within, ?_,
        fun scalar => if_neg (by simp [scalar]), fun vector => if_pos vector⟩
      exact retire_only h (fun g => { g with
        land := win.stage f.toNat hi (if vec then c.e.active &&& win.mask else allLanes) (c.stagedValue win v vec) :: lands }) rfl
    · obtain ⟨kept, others, group⟩ := countEmulated_only h (fun g => (g.emulated win lands x rest).wake fun w => w == .logFull) rfl
      rw [Group.emulated_eq win lands x rest c.g strand] at group
      exact ⟨_, _, exec_emuret h land hc ctxs handles, rfl, kept, others, group⟩

end Sys2Proof.Machine
end

section
/-! PROOFS. Taking a trap: the write of its frame may rouse a strand of the group that sleeps in WAITW, before the table is frozen (R151, R291,
R292, R301). -/

namespace Sys2Proof.Machine

/-! ### The write of a frame (R301) -/

/-- R291, R292: a strand of the group sleeps in WAITW. -/
def Group.asleep (g : Group) : Bool := g.anyEntry fun e => e.wait == .watch

/-- R301: the commit of a frame that the device stores for a group. -/
def State.frameKind (s : State) (gi : Nat) : CommitKind :=
  { party := s.partyOf gi, scope := .p, atHome := true, atomic := true, sector := false, discard := false }

/-- R292: once the first granule of a frame has roused every strand of the group, the rest of the frame leaves its strands as they are. -/
theorem frameWrite_rouses {s : State} {gi va : Nat} {p : Part} {bytes : List Byte} {w : GranWrite} {ws : List GranWrite} {g : Group}
    (frame : s.frameWrites p va bytes = w :: ws) (first : (s.placeGran (s.frameKind gi) w).groups[gi]? = some g) (roused : g.asleep = false) :
    ∃ g', (s.frameWrite gi p va bytes).groups[gi]? = some g' ∧ g'.ctl = g.ctl := by
  have later : CommitOnly (s.placeGran (s.frameKind gi) w) (s.commit (s.frameKind gi) (w :: ws)) := by
    have placed := placeGrans_only (s.frameKind gi) ws (s.placeGran (s.frameKind gi) w)
    exact (placed.trans (trackAll_only _ _)).trans (.memory _ _ _ _ _ _ List.suffix_rfl)
  obtain ⟨g', hg', fired⟩ := later.groups gi g first
  have written : s.frameWrite gi p va bytes = (s.commit (s.frameKind gi) (w :: ws)).updGroup gi (Group.ownFrame (w :: ws)) := by
    rw [State.frameWrite, frame]
    rfl
  refine ⟨g'.ownFrame (w :: ws), ?_, (fired.asleep roused).1⟩
  rw [written, updGroup_get_same, hg']
  rfl

/-! ### A group whose sleeping strand watches the line of its save slot -/

namespace WatchedFrame

/-- A gigabyte at address 0, mapped to the home of the same address. -/
def page : Xlate :=
  { va := 0, bytes := 2 ^ 30, key := 0, guest := 0, w1 := true, w2 := true, dsc := true, shr := true, cnt := false }

/-- Lane 0 has taken a branch and sleeps in WAITW, watching the line at FRAME; the other lanes stand at the next word. -/
def branched (g : Group) : Group :=
  match g.ctl.get 0 with
  | some e =>
    Group.setEntry 2 (fun e => { e with wait := .watch }) { g with
      ctl := g.ctl.split 0 1 2 e 1 { obj := 1, off := 0x48 } { obj := 1, off := 0x44 } { obj := 1, off := 0x4C }
      watch := [{ line := lineOf g.ctrl.frame.toNat, fired := false }] }
  | none => g

/-- The host's machine for the undefined word 0, its group so changed and its save area mapped. -/
def state : State :=
  ((State.reset.withFetchWord 32 0).updGroup 0 branched).updPart 0 fun p =>
    { p with xlat := { p.xlat with tlb := [{ site := .hall 0, x := page }, { site := .io, x := page }] } }

/-- The trap of an undefined word in the strand of the other lanes. -/
def info : TrapInfo :=
  { cause := .undefinedWord, detail := 0, addr := 0, lanes := 0, ref := { obj := 1, off := 0x44 }, former := 0xFFFFFFFE, word := 0,
    hint1 := 0, hint2 := 0, rpt := 0, deferred := none }

/-- What the strand of lane 0 waits for. -/
def lane0 (g : Group) : Option Wait := (g.ctl.get 2).map Entry.wait

/-- The granules of the trap's frame. -/
def frame (p : Part) (g : Group) : List GranWrite :=
  state.frameWrites p g.ctrl.frame.toNat (frameBytes g info ++ latchBytes g.regs)

/-- Lane 0 sleeps; the first granule of the frame fires its watch, and it goes on. -/
theorem first_rouses : (state.groups[0]?).any (fun g => (state.part? 0).any fun p => !g.inTrap && lane0 g == some .watch &&
    (frame p g).head?.any fun w => ((state.placeGran (state.frameKind 0) w).groups[0]?).any fun g => !g.asleep && lane0 g == some .ready) =
      true := by
  decide +kernel

end WatchedFrame

/-- Refutes O21: the frame is written before the table is frozen, and where the group watches a line of its save slot, that write rouses its
strand in WAITW: the table that the handler's context holds is not the one before the trap. -/
theorem not_trapEntry : ¬ Obligations.TrapEntry := by
  rintro ⟨entry, -⟩
  have first := WatchedFrame.first_rouses
  simp only [Option.any_eq_true, Bool.and_eq_true, Bool.not_eq_true', beq_iff_eq] at first
  obtain ⟨g, hg, p, -, ⟨untrapped, sleeps⟩, w, head, g0, hg0, roused, awake⟩ := first
  obtain ⟨ws, frame⟩ := List.head?_eq_some_iff.mp head
  obtain ⟨-, -, taken⟩ := entry WatchedFrame.state 0 g p WatchedFrame.info hg
  obtain ⟨t, g1, g2, hg1, -, -, -, -, table, -⟩ := taken untrapped
  obtain ⟨g', hg', went⟩ := frameWrite_rouses frame hg0 roused
  have same : g' = g1 := Option.some.inj (hg'.symm.trans hg1)
  have waits : WatchedFrame.lane0 g0 = WatchedFrame.lane0 g := by
    rw [WatchedFrame.lane0, WatchedFrame.lane0, ← went, same, table]
  rw [awake, sleeps] at waits
  cases waits

end Sys2Proof.Machine
end

section
/-! PROOFS. Registers that late data and replays write, and bytes that the device writes (R148, R184, R265, R266). -/

namespace Sys2Proof.Machine

/-! ### Registers written in some lanes (R148, R266) -/

theorem writeLanes_other (m : LaneMask) (ws : List (VReg × Lanes Word)) (r : Regs) {n : Nat} (h : ∀ w ∈ ws, w.1.toNat ≠ n) :
    (Regs.writeLanes m r ws).vreg n = r.vreg n := by
  induction ws generalizing r with
  | nil => rfl
  | cons w ws ih =>
    have kept := Regs.vreg_setV_other r w.1.toNat n (Lanes.merge m (r.vreg w.1.toNat) w.2) (h w List.mem_cons_self).symm
    exact (ih _ fun x hx => h x (List.mem_cons_of_mem _ hx)).trans kept

theorem writeLanes_same (m : LaneMask) {ws : List (VReg × Lanes Word)} (r : Regs) (nodup : (ws.map Prod.fst).Nodup) {w : VReg × Lanes Word}
    (hw : w ∈ ws) {l : Nat} (hl : l < 32) : Lanes.at ((Regs.writeLanes m r ws).vreg w.1.toNat) l =
      if m.getLsbD l then Lanes.at w.2 l else Lanes.at (r.vreg w.1.toNat) l := by
  induction ws generalizing r with
  | nil => cases hw
  | cons x ws ih =>
    rw [List.map_cons, List.nodup_cons] at nodup
    have apart : ∀ y ∈ ws, y.1.toNat ≠ x.1.toNat := fun y hy same =>
      nodup.1 (BitVec.eq_of_toNat_eq same ▸ List.mem_map_of_mem hy)
    rcases List.mem_cons.mp hw with rfl | later
    · exact (congrArg (Lanes.at · l) (writeLanes_other m ws _ apart)).trans (vreg_setV_merge r w.1.isLt m w.2 hl)
    · have kept := Regs.vreg_setV_other r x.1.toNat w.1.toNat (Lanes.merge m (r.vreg x.1.toNat) x.2) (apart w later)
      rw [← kept]
      exact ih _ nodup.2 later

theorem writeLanes_scalars (m : LaneMask) (ws : List (VReg × Lanes Word)) (r : Regs) : (Regs.writeLanes m r ws).s = r.s :=
  foldl_keeps (fun x : Regs => x.s = r.s) (fun r (w : VReg × Lanes Word) => r.setV w.1.toNat (Lanes.merge m (r.vreg w.1.toNat) w.2))
    (fun _ _ kept => kept) ws r rfl

/-! ### Registers captured while an access was deferred (R184, R266) -/

theorem vreg_setV_vreg (r now : Regs) (n : Nat) : (r.setV n (now.vreg n)).vreg n = now.vreg n := by
  by_cases hn : n < 128
  · exact Regs.vreg_setV_same _ _ _ hn
  · have beyond : ∀ x : Regs, x.vreg n = Vector.replicate 32 0 := fun x => by
      rw [Regs.vreg, List.getD_eq_default _ _ (by simpa using hn)]
    rw [beyond, beyond]

theorem foldl_setV_vreg (r now : Regs) {ns : List Nat} {n : Nat} (h : n ∈ ns) :
    (ns.foldl (fun r n => r.setV n (now.vreg n)) r).vreg n = now.vreg n := by
  have stays : ∀ (x : Regs) (k : Nat), x.vreg n = now.vreg n → (x.setV k (now.vreg k)).vreg n = now.vreg n := fun x k kept => by
    by_cases same : n = k
    · rw [same]
      exact vreg_setV_vreg x now k
    · rw [Regs.vreg_setV_other _ _ _ _ same, kept]
  induction ns generalizing r with
  | nil => cases h
  | cons k ns ih =>
    rcases List.mem_cons.mp h with rfl | later
    · exact foldl_keeps (fun x : Regs => x.vreg n = now.vreg n) _ stays ns _ (vreg_setV_vreg r now n)
    · exact ih _ later

/-- R184: captured registers take the vector registers that a replay has left. -/
theorem follow_vreg (i : Instr) (r now : Regs) (dests : List Nat × List Nat) {n : Nat} (h : n ∈ dests.1) :
    (r.follow i now dests).vreg n = now.vreg n := by
  have vectors := foldl_setV_vreg r now h
  have scalars := foldl_keeps (fun x : Regs => x.vreg n = now.vreg n) (fun x k => x.setS k (now.sreg k)) (fun _ _ kept => kept) dests.2 _ vectors
  unfold Regs.follow
  split
  · exact scalars
  · exact scalars

/-! ### Bytes that the device writes (R265) -/

theorem mem_insertAsc (x y : Nat) (l : List Nat) : y ∈ insertAsc x l ↔ y = x ∨ y ∈ l := by
  induction l with
  | nil => simp [insertAsc]
  | cons z zs ih =>
    unfold insertAsc
    split
    · exact List.mem_cons
    · split
      · next same => simp [show x = z by simpa using same]
      · rw [List.mem_cons, ih, List.mem_cons]
        tauto

theorem mem_ascending (y : Nat) (l : List Nat) : y ∈ ascending l ↔ y ∈ l := by
  have gathers : ∀ acc : List Nat, y ∈ l.foldl (fun acc x => insertAsc x acc) acc ↔ y ∈ acc ∨ y ∈ l := by
    induction l with
    | nil => simp
    | cons x xs ih =>
      intro acc
      rw [List.foldl_cons, ih, mem_insertAsc, List.mem_cons]
      tauto
  simpa [ascending] using gathers []

/-- The write to one granule of bytes from a key. -/
def granuleOf (key : Nat) (bs : List Byte) (gran : Nat) : GranWrite :=
  { gran := gran,
    bytes := (List.range 16).map fun i =>
      let a := 16 * gran + i
      if key ≤ a && a < key + bs.length then bs[a - key]? else none }

theorem spanWrites_eq (key : Nat) (bs : List Byte) :
    spanWrites key bs = (ascending ((List.range bs.length).map fun i => granOf (key + i))).map (granuleOf key bs) := rfl

theorem read_granuleOf (key : Nat) (bs : List Byte) (gran : Nat) {m : Mem} (wf : m.wf = true) (a : Nat) :
    (m.writeSome (16 * gran) (granuleOf key bs gran).bytes).read a =
      if granOf a = gran ∧ key ≤ a ∧ a < key + bs.length then bs.getD (a - key) 0 else m.read a := by
  have here : granOf a = gran ↔ 16 * gran ≤ a ∧ a - 16 * gran < 16 := by
    unfold granOf
    omega
  rw [Mem.read_writeSome _ _ _ _ wf]
  by_cases low : 16 * gran ≤ a
  · by_cases high : a - 16 * gran < 16
    · have place : 16 * gran + (a - 16 * gran) = a := by omega
      by_cases span : key ≤ a ∧ a < key + bs.length
      · have inside : a - key < bs.length := by omega
        simp [granuleOf, low, high, here, place, span, inside]
      · simp [granuleOf, low, high, place, span]
    · simp [granuleOf, low, high, here]
  · simp [low, here]

/-- R265: what bytes written from a key leave in memory. -/
theorem read_spanWrites (key : Nat) (bs : List Byte) {m : Mem} (wf : m.wf = true) (a : Nat) :
    ((spanWrites key bs).foldl (fun m w => m.writeSome (16 * w.gran) w.bytes) m).read a =
      if key ≤ a ∧ a < key + bs.length then bs.getD (a - key) 0 else m.read a := by
  have granules : ∀ (gs : List Nat) (m : Mem), m.wf = true →
      ((gs.map (granuleOf key bs)).foldl (fun m w => m.writeSome (16 * w.gran) w.bytes) m).read a =
        if granOf a ∈ gs ∧ key ≤ a ∧ a < key + bs.length then bs.getD (a - key) 0 else m.read a := by
    intro gs
    induction gs with
    | nil => simp
    | cons g gs ih =>
      intro m wf
      rw [List.map_cons, List.foldl_cons, ih _ (Mem.writeSome_wf _ _ _ wf), show (granuleOf key bs g).gran = g from rfl,
        read_granuleOf key bs g wf]
      simp only [List.mem_cons, or_and_right]
      by_cases later : granOf a ∈ gs ∧ key ≤ a ∧ a < key + bs.length
      · rw [if_pos later, if_pos (.inr later)]
      · rw [if_neg later]
        simp only [later, or_false]
  have covered : key ≤ a ∧ a < key + bs.length → granOf a ∈ ascending ((List.range bs.length).map fun i => granOf (key + i)) := fun span => by
    rw [mem_ascending, List.mem_map]
    exact ⟨a - key, List.mem_range.mpr (by omega), congrArg granOf (by omega)⟩
  rw [spanWrites_eq, granules _ m wf]
  by_cases span : key ≤ a ∧ a < key + bs.length
  · rw [if_pos ⟨covered span, span⟩, if_pos span]
  · rw [if_neg fun h => span h.2, if_neg span]

end Sys2Proof.Machine
end

section
/-! PROOFS. Missing data, fault entries, resolutions and replays (R148, R184, R265, R266, R449). -/

namespace Sys2Proof.Machine

/-! ### Data of missing strands (R148) -/

theorem arriveOne_eq {g : Group} {k : Fin 8} {d : MissData} (first : g.ctl.missing.head? = some k)
    (data : (g.ctl.get k).bind Entry.missData = some d) : g.arriveOne =
      (Group.wake (fun w => w == .lateWrite) { g with
        ctl := g.ctl.put k ((g.ctl.get k).map fun e => { e with wait := .ready, missData := none })
        regs := Regs.writeLanes d.mask g.regs d.writes }).settle := by
  obtain ⟨ks, missing⟩ := List.head?_eq_some_iff.mp first
  rw [Group.arriveOne, missing]
  simp only [Group.arriveData, data]

/-- R71: strands that fuse lose the latches and keep every other register. -/
theorem settle_registers (g : Group) : g.settle.regs.v = g.regs.v ∧ g.settle.regs.s = g.regs.s := by
  unfold Group.settle
  dsimp only
  split
  · exact ⟨rfl, rfl⟩
  · exact ⟨rfl, rfl⟩

/-- R148: what the arrival of a strand's data leaves of its group: its scalar registers, its strands, and each register in each lane. -/
theorem arriveOne_spec {g : Group} {k : Fin 8} {d : MissData} (first : g.ctl.missing.head? = some k)
    (data : (g.ctl.get k).bind Entry.missData = some d) (nodup : (d.writes.map Prod.fst).Nodup) :
    g.arriveOne.regs.s = g.regs.s ∧
      (let arrived := g.ctl.put k ((g.ctl.get k).map fun e => { e with wait := .ready, missData := none })
       g.arriveOne.ctl = ((Group.wake (fun w => w == .lateWrite) { g with ctl := arrived }).ctl.settle settleFuel false).1) ∧
      (∀ w ∈ d.writes, ∀ l, l < 32 → Lanes.at (g.arriveOne.regs.vreg w.1.toNat) l =
        if d.mask.getLsbD l then Lanes.at w.2 l else Lanes.at (g.regs.vreg w.1.toNat) l) ∧
      ∀ n, (∀ w ∈ d.writes, w.1.toNat ≠ n) → g.arriveOne.regs.vreg n = g.regs.vreg n := by
  rw [arriveOne_eq first data]
  obtain ⟨vectors, scalars⟩ := settle_registers (Group.wake (fun w => w == .lateWrite) { g with
    ctl := g.ctl.put k ((g.ctl.get k).map fun e => { e with wait := .ready, missData := none })
    regs := Regs.writeLanes d.mask g.regs d.writes })
  have reads : ∀ n, Regs.vreg (Group.settle _).regs n = (Regs.writeLanes d.mask g.regs d.writes).vreg n := fun n => by
    rw [Regs.vreg, vectors]
    rfl
  refine ⟨scalars.trans (writeLanes_scalars _ _ _), rfl, fun w hw l hl => ?_, fun n hn => ?_⟩
  · rw [reads]
    exact writeLanes_same d.mask g.regs nodup hw hl
  · rw [reads]
    exact writeLanes_other d.mask d.writes g.regs hn

theorem missDataArrival_spec {s : State} {gi : Nat} {g : Group} (hg : s.groups[gi]? = some g) :
    ∃ t : State, exec (.missDataArrival gi) s = .next t ∧ t.mem = s.mem ∧ t.groups[gi]? = some g.arriveOne ∧
      ∀ j, j ≠ gi → t.groups[j]? = s.groups[j]? := by
  have group : (s.updGroup gi Group.arriveOne).groups[gi]? = some g.arriveOne := by rw [updGroup_get_same, hg, Option.map_some]
  have others : ∀ j, j ≠ gi → (s.updGroup gi Group.arriveOne).groups[j]? = s.groups[j]? := fun j hj => updGroup_get_other _ _ _ _ hj
  refine ⟨_, rfl, ?_⟩
  dsimp only
  split
  · exact ⟨State.due_mem _ _, by rw [State.due_groups, group], fun j hj => by rw [State.due_groups, others j hj]⟩
  · exact ⟨rfl, group, others⟩

/-! ### Fault entries (R265) -/

theorem FaultEntry.bytes_length (e : FaultEntry) : e.bytes.length = 32 := by simp [FaultEntry.bytes]

theorem fq_setFq (p : Part) (stage2 : Bool) (q : FaultQueue) : (p.setFq stage2 q).fq stage2 = q := by
  cases stage2 <;> rfl

theorem writeFault_full {s : State} {p : Nat} {stage2 : Bool} {q : Part} (hp : s.part? p = some q) (full : (q.fq stage2).room = false) :
    s.writeFault p stage2 = s := by
  simp only [State.writeFault, hp, full, Bool.false_eq_true, if_false]
  split <;> rfl

/-- R265: the device writes the oldest entry of a queue with room. -/
theorem writeFault_spec {s : State} {p : Nat} {stage2 : Bool} {q : Part} {e : FaultEntry} {rest : List FaultEntry} {key : Nat}
    (hp : s.part? p = some q) (room : (q.fq stage2).room = true) (waits : (q.fq stage2).waiting = e :: rest)
    (slot : s.faultSlot q stage2 = some key) :
    (s.writeFault p stage2).mem = (s.deviceWrite (if stage2 then none else some p) key e.bytes).mem ∧
      (s.writeFault p stage2).part? p = some (q.setFq stage2 { q.fq stage2 with head := (q.fq stage2).head + 1, waiting := rest }) := by
  have same : (s.deviceWrite (if stage2 then none else some p) key e.bytes).part? p = some q := by
    rw [State.deviceWrite, State.part?, (commit_only _ _ _).rest]
    exact hp
  simp only [State.writeFault, hp, waits, slot, room, if_true]
  by_cases last : rest.isEmpty = true
  · rw [if_pos last]
    exact ⟨State.updPart_mem _ _ _, part?_updPart_same (fun _ => rfl) same⟩
  · rw [if_neg last, part?_due]
    exact ⟨(State.due_mem _ _).trans (State.updPart_mem _ _ _), part?_updPart_same (fun _ => rfl) same⟩

/-- R265: what the device's write of an entry leaves in plain memory. -/
theorem read_deviceWrite {s : State} (plain : s.plainMemory) (wf : s.mem.wf = true) (own : Option Nat) (key : Nat) (bs : List Byte) (a : Nat) :
    (s.deviceWrite own key bs).mem.read a = if key ≤ a ∧ a < key + bs.length then bs.getD (a - key) 0 else s.mem.read a := by
  rw [State.deviceWrite, (commit_plain plain (by exact rfl) _).1, read_spanWrites key bs wf]

/-! ### Resolutions (R266) -/

theorem due_keeps {s : State} {x : Instr} (e : Instr) (h : x ∈ s.events) : x ∈ (s.due e).events := by
  unfold State.due
  split
  · exact h
  · exact List.mem_append_left _ h

theorem resolve_idem (stage2 : Bool) (serial : Nat) (raise : Bool) (g : Group) :
    (g.resolve stage2 serial raise).resolve stage2 serial raise = g.resolve stage2 serial raise := by
  have once : ∀ f : FaultRef, (f.resolve stage2 serial raise).resolve stage2 serial raise = f.resolve stage2 serial raise := fun f => by
    by_cases named : (f.stage2 == stage2 && f.serial == serial && f.action.isNone) = true
    · simp [FaultRef.resolve, named]
    · simp [FaultRef.resolve, named]
  simp only [Group.resolve, List.map_map, Function.comp_def, once]

theorem resolve_eq (stage2 : Bool) (serial : Nat) (raise : Bool) (g : Group) : g.resolve stage2 serial raise =
    { g with log := g.log.map fun l => { l with faults := l.faults.map fun f =>
        if f.stage2 = stage2 ∧ f.serial = serial ∧ f.action = none then { f with action := some raise } else f } } := by
  have entry : FaultRef.resolve stage2 serial raise = fun f : FaultRef =>
      if f.stage2 = stage2 ∧ f.serial = serial ∧ f.action = none then { f with action := some raise } else f := by
    funext f
    simp [FaultRef.resolve, and_assoc]
  rw [Group.resolve, entry]

/-- R266: a group some of whose accesses are deferred takes a resolution, and its replay is due. -/
def State.resolveGroup (stage2 : Bool) (serial : Nat) (raise : Bool) (s : State) (gi : Nat) : State :=
  if (s.groups[gi]?).any fun g => !g.log.isEmpty then (s.updGroup gi (Group.resolve stage2 serial raise)).due (.faultReplay gi) else s

section
variable {stage2 : Bool} {serial : Nat} {raise : Bool}

theorem resolveGroup_rest (s : State) (gi : Nat) : (s.resolveGroup stage2 serial raise gi).mem = s.mem ∧
    (s.resolveGroup stage2 serial raise gi).parts = s.parts ∧ (s.resolveGroup stage2 serial raise gi).cmds = s.cmds := by
  unfold State.resolveGroup
  split
  · exact ⟨State.due_mem _ _, State.due_parts _ _, State.due_cmds _ _⟩
  · exact ⟨rfl, rfl, rfl⟩

theorem resolveGroup_other (s : State) {gi gj : Nat} (apart : gi ≠ gj) : (s.resolveGroup stage2 serial raise gj).groups[gi]? = s.groups[gi]? := by
  unfold State.resolveGroup
  split
  · rw [State.due_groups, updGroup_get_other _ _ _ _ apart]
  · rfl

theorem resolveGroup_same {s : State} {gi : Nat} {g : Group} (hg : s.groups[gi]? = some g) (deferred : g.log ≠ []) :
    (s.resolveGroup stage2 serial raise gi).groups[gi]? = some (g.resolve stage2 serial raise) ∧
      .faultReplay gi ∈ (s.resolveGroup stage2 serial raise gi).events := by
  have some_ : (s.groups[gi]?).any (fun g => !g.log.isEmpty) = true := by simpa [hg] using deferred
  rw [State.resolveGroup, if_pos some_]
  exact ⟨by rw [State.due_groups, updGroup_get_same, hg, Option.map_some], mem_due _ _⟩

/-- R266: however often a list names a group, it takes the resolution. -/
theorem foldl_resolveGroup {gis : List Nat} {gi : Nat} (h : gi ∈ gis) {s : State} {g : Group} (hg : s.groups[gi]? = some g)
    (deferred : g.log ≠ []) :
    (gis.foldl (State.resolveGroup stage2 serial raise) s).groups[gi]? = some (g.resolve stage2 serial raise) ∧
      .faultReplay gi ∈ (gis.foldl (State.resolveGroup stage2 serial raise) s).events := by
  have stays : ∀ (u : State) (gj : Nat), (u.groups[gi]? = some (g.resolve stage2 serial raise) ∧ .faultReplay gi ∈ u.events) →
      (u.resolveGroup stage2 serial raise gj).groups[gi]? = some (g.resolve stage2 serial raise) ∧
        .faultReplay gi ∈ (u.resolveGroup stage2 serial raise gj).events := by
    rintro u gj ⟨group, due⟩
    by_cases same : gi = gj
    · subst same
      have again := resolveGroup_same (stage2 := stage2) (serial := serial) (raise := raise) group (by simpa [Group.resolve] using deferred)
      rwa [resolve_idem] at again
    · refine ⟨(resolveGroup_other u same).trans group, ?_⟩
      unfold State.resolveGroup
      split
      · exact due_keeps _ due
      · exact due
  induction gis generalizing s with
  | nil => cases h
  | cons gj gis ih =>
    by_cases same : gi = gj
    · subst same
      exact foldl_keeps _ _ stays gis _ (resolveGroup_same hg deferred)
    · exact ih ((List.mem_cons.mp h).resolve_left same) ((resolveGroup_other s same).trans hg)

/-- R266: the entry of a serial is pending no more, and the partition's groups with deferred accesses take its resolution. -/
theorem resolveEntry_spec {s : State} {pid : Nat} {q : Part} (hp : s.part? pid = some q) :
    let t := s.resolveEntry pid stage2 serial raise
    t.mem = s.mem ∧ t.part? pid = some (q.setFq stage2 { q.fq stage2 with pending := (q.fq stage2).pending.filter (· != serial) }) ∧
      ∀ gi g, gi ∈ s.contextGroups pid → s.groups[gi]? = some g → g.log ≠ [] →
        .faultReplay gi ∈ t.events ∧ t.groups[gi]? = some (g.resolve stage2 serial raise) := by
  let u := s.updPart pid fun p => p.setFq stage2 { p.fq stage2 with pending := (p.fq stage2).pending.filter (· != serial) }
  let v := (s.contextGroups pid).foldl (State.resolveGroup stage2 serial raise) u
  have part : u.part? pid = some (q.setFq stage2 { q.fq stage2 with pending := (q.fq stage2).pending.filter (· != serial) }) :=
    part?_updPart_same (fun _ => rfl) hp
  have groups : v.mem = u.mem ∧ v.parts = u.parts :=
    foldl_keeps (fun x : State => x.mem = u.mem ∧ x.parts = u.parts) _
      (fun x gi kept => ⟨(resolveGroup_rest x gi).1.trans kept.1, (resolveGroup_rest x gi).2.1.trans kept.2⟩) _ _ ⟨rfl, rfl⟩
  have commands : let t := s.resolveEntry pid stage2 serial raise
      t.mem = v.mem ∧ t.parts = v.parts ∧ t.groups = v.groups ∧ ∀ e ∈ v.events, e ∈ t.events := by
    refine foldl_keeps (fun x : State => x.mem = v.mem ∧ x.parts = v.parts ∧ x.groups = v.groups ∧ ∀ e ∈ v.events, e ∈ x.events) _
      (fun x y kept => ?_) _ _ ⟨rfl, rfl, rfl, fun _ he => he⟩
    obtain ⟨mem, parts, groups, events⟩ := kept
    split
    · exact ⟨(State.due_mem _ _).trans mem, (State.due_parts _ _).trans parts, (State.due_groups _ _).trans groups,
        fun e he => due_keeps _ (events e he)⟩
    · exact ⟨mem, parts, groups, events⟩
  obtain ⟨mem, parts, same, events⟩ := commands
  refine ⟨mem.trans groups.1, ?_, fun gi g member hg deferred => ?_⟩
  · rw [State.part?, parts, groups.2]
    exact part
  · obtain ⟨resolved, due⟩ := foldl_resolveGroup (stage2 := stage2) (serial := serial) (raise := raise) member (s := u) hg deferred
    exact ⟨events _ due, (congrArg (·[gi]?) same).trans resolved⟩

end

/-- R266: the RESOLVE register of a queue. -/
theorem exec_resolve {s : State} {p : Nat} {stage2 : Bool} {v : DWord} {q : Part} (hp : s.part? p = some q)
    (opened : stage2 = false → q.vfOpen true = true) :
    exec (if stage2 then .xlatFq2Resolve p v else .xlatFq1Resolve p v) s = .next (s.resolveFault p stage2 v) := by
  cases stage2 with
  | true => rfl
  | false =>
    have taken : (s.part? p).any (fun q => q.vfOpen true) = true := by rw [hp]; exact opened rfl
    exact congrArg Host.Outcome.next (if_pos taken)

theorem resolveFault_none {s : State} {p : Nat} {stage2 : Bool} {v : DWord} {q : Part} (hp : s.part? p = some q)
    (h : (q.fq stage2).pending.find? (fun n => n % 2 ^ 32 == v.toNat % 2 ^ 32) = none) : s.resolveFault p stage2 v = s := by
  simp only [State.resolveFault, hp, h]

theorem resolveFault_found {s : State} {p : Nat} {stage2 : Bool} {v : DWord} {q : Part} {n : Nat} (hp : s.part? p = some q)
    (h : (q.fq stage2).pending.find? (fun n => n % 2 ^ 32 == v.toNat % 2 ^ 32) = some n) :
    s.resolveFault p stage2 v = s.resolveEntry p stage2 n (v.getLsbD 32) := by
  simp only [State.resolveFault, hp, h]

/-! ### Replay (R184, R266, R449) -/

theorem exec_faultReplay {s : State} {gi : Nat} {w : Who} {l : LogEntry} (hw : s.who? gi = some w) (first : w.g.resolved = some l)
    (may : w.mayReplay = true) (free : s.replayWaits w = false) :
    exec (.faultReplay gi) s =
      .next (l.raised.elim (s.replay w l) fun stage => s.deferTrap w l .page (BitVec.ofNat 32 stage) l.addr l.lanes) := by
  have run : exec (.faultReplay gi) s = .next _ := rfl
  rw [run]
  simp only [hw, first, may, free, Bool.not_true, Bool.or_self, Bool.false_eq_true, if_false]
  cases l.raised <;> rfl

/-- R266: a group whose registers take the results of a replay. -/
def Done.registers (d : Done) (g : Group) : Group :=
  let r := Regs.writeLanes d.mask g.regs d.writes
  { g with regs := match d.scalar with
      | some x => r.setS x.1 x.2
      | none => r }

theorem Done.registers_v (d : Done) (g : Group) : (d.registers g).regs.v = (Regs.writeLanes d.mask g.regs d.writes).v := by
  unfold Done.registers
  cases d.scalar <;> rfl

/-- R266: a group whose replayed access is done: its results brought, its entry freed, and what waited for it awake. -/
def Group.replayed (d : Done) (l : LogEntry) (g : Group) : Group :=
  let g1 := Group.bring l (d.registers g)
  Group.wake (fun w => w == .fault || w == .logFull) { g1 with log := g1.log.filter fun x => x.id != l.id }

/-- R184: a region that opened after the access was deferred holds its results. -/
theorem bring_region {l : LogEntry} {g : Group} {r : Region} (h : (Group.bring l g).region = some r)
    (before : ∀ x ∈ g.log, x.id = l.id → x.inRegion = false) {n : Nat} (dest : n ∈ (logWrites l).1) : r.regs.vreg n = g.regs.vreg n := by
  have opened : (g.log.any fun x => x.id == l.id && x.inRegion) = false := by
    rw [List.any_eq_false]
    intro x hx inside
    rw [Bool.and_eq_true, beq_iff_eq] at inside
    rw [before x hx inside.1] at inside
    exact Bool.false_ne_true inside.2
  simp only [Group.bring, opened, Bool.false_eq_true, if_false, Option.map_eq_some_iff] at h
  obtain ⟨captured, -, rfl⟩ := h
  exact follow_vreg l.instr captured.regs g.regs (logWrites l) dest

theorem bring_isSome (l : LogEntry) (g : Group) : (Group.bring l g).region.isSome = g.region.isSome := by
  unfold Group.bring
  dsimp only
  split
  · rfl
  · exact Option.isSome_map

/-- What a replay leaves of the log, but for what its entries say that a region would capture. -/
theorem replayed_log (d : Done) (l : LogEntry) (g : Group) :
    (g.replayed d l).log.map (fun x => { x with before := none }) =
      (g.log.filter fun x => x.id != l.id).map fun x => { x with before := none } := by
  have log : (g.replayed d l).log = ((Group.bring l (d.registers g)).log.filter fun x => x.id != l.id) := rfl
  rw [log, Group.bring]
  simp only [List.filter_map, List.map_map]
  rfl

theorem replayed_spec (d : Done) (l : LogEntry) (g : Group) :
    (g.replayed d l).retire = g.retire ∧ (g.replayed d l).regs.v = (Regs.writeLanes d.mask g.regs d.writes).v ∧
      (g.replayed d l).region.isSome = g.region.isSome ∧
      ∀ r, (g.replayed d l).region = some r → (∀ x ∈ g.log, x.id = l.id → x.inRegion = false) →
        ∀ n ∈ (logWrites l).1, r.regs.vreg n = (g.replayed d l).regs.vreg n :=
  ⟨rfl, d.registers_v g, bring_isSome l (d.registers g), fun _ hr before _ dest => bring_region (g := d.registers g) hr before dest⟩

section
variable {s : State} {w : Who} {l : LogEntry} {d : Done} (single : l.ops.chain = none) (done : s.replayAcc w l = .done d)
include single done

/-- R449: in a rerun an access whose further lanes wait for their turns keeps its entry, and replays again. -/
theorem replay_turns {got : List (Nat × Nat)} (more : d.more = some got) : s.replay w l =
    (d.st.updGroup w.gi fun g => { g with log := g.log.map fun x => if x.id == l.id then { x with turned := got } else x }).due (.faultReplay w.gi) := by
  simp only [State.replay, single, done, more]

/-- R266: a replay that is done. -/
theorem replay_ends (last : d.more = none) : (s.replay w l).mem = d.st.mem ∧ (s.replay w l).hist = d.st.hist ∧
    (s.replay w l).parts = d.st.parts ∧ (s.replay w l).groups[w.gi]? = (d.st.groups[w.gi]?).map (Group.replayed d l) := by
  have ends : s.replay w l = ((d.finish w.gi).updGroup w.gi (Group.bring l)).endReplay w.gi l.id := by
    simp only [State.replay, single, done, last]
  have group : (((d.finish w.gi).updGroup w.gi (Group.bring l)).updGroup w.gi fun g =>
      Group.wake (fun x => x == .fault || x == .logFull) { g with log := g.log.filter fun x => x.id != l.id }).groups[w.gi]? =
        (d.st.groups[w.gi]?).map (Group.replayed d l) := by
    rw [Done.finish, updGroup_comp, updGroup_comp, updGroup_get_same]
    rfl
  rw [ends, State.endReplay]
  split
  · exact ⟨State.due_mem _ _, State.due_hist _ _, State.due_parts _ _, by rw [State.due_groups, group]⟩
  · exact ⟨rfl, rfl, rfl, group⟩

end

/-- Settles O41: data that arrive, entries written, resolutions, and replays by their outcome, each from its own lemma. -/
theorem faultEvents : Obligations.FaultEvents := by
  intro s
  refine ⟨fun gi g k d hg first data nodup => ?_, fun p stage2 q hp => ⟨fun full => ?_, ?_⟩, ?_, ?_⟩
  · obtain ⟨t, run, mem, group, others⟩ := missDataArrival_spec hg
    exact ⟨t, g.arriveOne, run, mem, group, others, arriveOne_spec first data nodup⟩
  · exact congrArg Host.Outcome.next (writeFault_full hp full)
  · intro e rest key room waits slot plain wf
    obtain ⟨mem, part⟩ := writeFault_spec hp room waits slot
    refine ⟨s.writeFault p stage2, _, rfl, part, ?_, ?_, ?_, fun a => ?_⟩
    · rw [fq_setFq]
    · rw [fq_setFq]
    · rw [fq_setFq]
    · rw [mem, read_deviceWrite plain wf, e.bytes_length]
  · intro p stage2 v q hp opened e named
    have run : exec e s = .next (s.resolveFault p stage2 v) := exec_resolve hp opened
    refine ⟨fun none_ => run.trans (congrArg _ (resolveFault_none hp none_)), fun n found => ?_⟩
    rw [resolveFault_found hp found] at run
    obtain ⟨mem, part, groups⟩ := resolveEntry_spec (stage2 := stage2) (serial := n) (raise := v.getLsbD 32) hp
    refine ⟨_, _, run, mem, part, by rw [fq_setFq], fun gi g member hg deferred => ?_⟩
    obtain ⟨due, resolved⟩ := groups gi g member hg deferred
    exact ⟨due, resolved.trans (congrArg some (resolve_eq _ _ _ _))⟩
  · intro gi w l hw first may free
    have run := exec_faultReplay hw first may free
    obtain ⟨rfl, -, -⟩ := who?_spec hw
    refine ⟨fun stage raised => by rw [run, raised, Option.elim_some], fun d unraised single done => ?_⟩
    rw [unraised, Option.elim_none] at run
    cases more : d.more with
    | some got =>
      rw [replay_turns single done more] at run
      refine ⟨_, run, State.due_mem _ _, State.due_hist _ _, State.due_parts _ _, fun g0 g hg0 hg => ?_⟩
      rw [State.due_groups, updGroup_get_same, hg0, Option.map_some, Option.some.injEq] at hg
      subst hg
      exact ⟨rfl, mem_due _ _, rfl, by simp only [beq_iff_eq]⟩
    | none =>
      obtain ⟨mem, hist, parts, group⟩ := replay_ends single done more
      refine ⟨_, run, mem, hist, parts, fun g0 g hg0 hg => ?_⟩
      rw [group, hg0, Option.map_some, Option.some.injEq] at hg
      subst hg
      obtain ⟨retire, vectors, region, captured⟩ := replayed_spec d l g0
      exact ⟨retire, replayed_log d l g0, vectors, region, captured⟩

end Sys2Proof.Machine
end

section
/-! PROOFS. The scalar words: their operands, the values of the 32-bit members and of immediates, and the words of pairs, masks and tile size
(R64, R65, R75, R164 to R166, R175, R176). -/

namespace Sys2Proof.Machine

/-! ### Values of the 32-bit members (R164, R222) -/

theorem shiftCount_eq (b : Word) : shiftCount b = (b.extractLsb' 0 8).toNat := by
  simp [shiftCount]

theorem mulHigh_eq (a b : Word) : mulHigh a b = (a.signExtend 64 * b.signExtend 64).extractLsb' 32 32 := by
  have product : a.signExtend 64 * b.signExtend 64 = BitVec.ofInt 64 (a.toInt * b.toInt) := (BitVec.ofInt_mul ..).symm
  rw [product, mulHigh]
  generalize a.toInt * b.toInt = x
  apply BitVec.eq_of_toNat_eq
  simp only [BitVec.toNat_ofInt, BitVec.extractLsb'_toNat, Nat.shiftRight_eq_div_pow]
  omega

theorem shlWord_eq (a b : Word) :
    shlWord a b = if 32 ≤ (b.extractLsb' 0 8).toNat then 0 else BitVec.ofNat 32 (a.toNat * 2 ^ (b.extractLsb' 0 8).toNat) := by
  rw [shlWord, shiftCount_eq]
  split
  · next out => exact BitVec.shiftLeft_eq_zero out
  · apply BitVec.eq_of_toNat_eq
    rw [BitVec.toNat_shiftLeft, BitVec.toNat_ofNat, Nat.shiftLeft_eq]

theorem shrWord_eq (a b : Word) :
    shrWord a b = if 32 ≤ (b.extractLsb' 0 8).toNat then 0 else BitVec.ofNat 32 (a.toNat / 2 ^ (b.extractLsb' 0 8).toNat) := by
  rw [shrWord, shiftCount_eq]
  split
  · next out => exact BitVec.ushiftRight_eq_zero out
  · apply BitVec.eq_of_toNat_eq
    rw [BitVec.toNat_ushiftRight, BitVec.toNat_ofNat, Nat.shiftRight_eq_div_pow, Nat.mod_eq_of_lt]
    exact (Nat.div_le_self _ _).trans_lt a.isLt

theorem sarWord_eq (a b : Word) : sarWord a b = if 32 ≤ (b.extractLsb' 0 8).toNat then (if a.msb then 0xFFFFFFFF else 0)
    else BitVec.ofInt 32 (a.toInt / 2 ^ (b.extractLsb' 0 8).toNat) := by
  rw [sarWord, shiftCount_eq]
  split
  · next out =>
    refine BitVec.eq_of_getLsbD_eq fun i hi => ?_
    have beyond : ¬ (b.extractLsb' 0 8).toNat + i < 32 := by omega
    have ones : (0xFFFFFFFF : Word).getLsbD i = true := by
      rw [show (0xFFFFFFFF : Word) = BitVec.allOnes 32 from by decide, BitVec.getLsbD_allOnes, decide_eq_true hi]
    rw [BitVec.getLsbD_sshiftRight, if_neg beyond, decide_eq_false (not_le.mpr hi)]
    cases a.msb with
    | false => exact BitVec.getLsbD_zero.symm
    | true => exact ones.symm
  · rw [← BitVec.ofInt_toInt (x := a.sshiftRight _), BitVec.toInt_sshiftRight, Int.shiftRight_eq_div_pow]
    norm_cast

theorem iminWord_eq (a b : Word) : iminWord a b = BitVec.ofInt 32 (min a.toInt b.toInt) := by
  rw [min_comm, min_def_lt, apply_ite (BitVec.ofInt 32), BitVec.ofInt_toInt, BitVec.ofInt_toInt]
  rfl

theorem imaxWord_eq (a b : Word) : imaxWord a b = BitVec.ofInt 32 (max a.toInt b.toInt) := by
  rw [max_def_lt, apply_ite (BitVec.ofInt 32), BitVec.ofInt_toInt, BitVec.ofInt_toInt]
  rfl

theorem nminWord_eq (a b : Word) : nminWord a b = BitVec.ofNat 32 (min a.toNat b.toNat) := by
  rw [min_comm, min_def_lt, apply_ite (BitVec.ofNat 32), BitVec.ofNat_toNat, BitVec.ofNat_toNat, BitVec.setWidth_eq, BitVec.setWidth_eq]
  rfl

theorem nmaxWord_eq (a b : Word) : nmaxWord a b = BitVec.ofNat 32 (max a.toNat b.toNat) := by
  rw [max_def_lt, apply_ite (BitVec.ofNat 32), BitVec.ofNat_toNat, BitVec.ofNat_toNat, BitVec.setWidth_eq, BitVec.setWidth_eq]
  rfl

/-! ### Immediates (R75) -/

theorem signedOf_toInt {k : Nat} (field : BitVec k) : signedOf k field.toNat = field.toInt := by
  simp only [signedOf, Nat.mod_eq_of_lt field.isLt, BitVec.toInt]

/-- R75: a field that IMM hints widen to 32 bits or more, as a word. -/
theorem wordOf_signedOf {w : Nat} (wide : 32 ≤ w) (x : Nat) : wordOf (signedOf w x) = BitVec.ofNat 32 x := by
  obtain ⟨d, words⟩ : ∃ d, 2 ^ w = 4294967296 * d := pow_dvd_pow 2 wide
  apply BitVec.eq_of_toNat_eq
  simp only [wordOf, signedOf, words, BitVec.toNat_ofInt, BitVec.toNat_ofNat]
  have low : x % (4294967296 * d) % 4294967296 = x % 4294967296 := Nat.mod_mul_right_mod x _ _
  split <;> omega

/-- R75: the value of an 18-bit immediate behind its IMM hints. -/
def immValue (imms : List (BitVec 22)) (field : BitVec 18) : Word :=
  match imms with
  | [] => field.signExtend 32
  | [a] => BitVec.ofNat 32 (a.toNat * 2 ^ 18 + field.toNat)
  | a :: b :: _ => BitVec.ofNat 32 (a.toNat * 2 ^ 40 + b.toNat * 2 ^ 18 + field.toNat)

theorem wordOf_imm (hs : HintSet) (field : BitVec 18) : wordOf (hs.imm 18 field.toNat) = immValue hs.imms field := by
  match imms : hs.imms with
  | [] => simp only [HintSet.imm, imms, signedOf_toInt]; rfl
  | [a] => simp only [HintSet.imm, imms]; exact wordOf_signedOf (by decide) _
  | a :: b :: _ => simp only [HintSet.imm, imms]; exact wordOf_signedOf (by decide) _

/-- R166: SLUI's value: its immediate above the low 14 bits of its register. -/
theorem append_low14 (x : BitVec 18) (r : Word) : x ++ r.extractLsb' 0 14 = BitVec.ofNat 32 (x.toNat * 2 ^ 14 + (r.extractLsb' 0 14).toNat) := by
  have low := (r.extractLsb' 0 14).isLt
  apply BitVec.eq_of_toNat_eq
  rw [BitVec.toNat_append, BitVec.toNat_ofNat, Nat.shiftLeft_eq, mul_comm x.toNat, ← Nat.two_pow_add_eq_or_of_lt low]
  omega

/-! ### Scalar operands (R64, R65) -/

theorem sop64_special (c : Cx) (x : Special) : c.sop64 (.special x) = (c.sop (.special x)).zeroExtend 64 :=
  (BitVec.setWidth_eq_append (by decide)).symm

/-! ### Words that write a scalar register, or a pair (R164, R165) -/

section
variable {s : State} {c : Cx} (h : s.cx? = some c)
include h

/-- R164: a word whose meaning is one scalar result. -/
theorem scalar_spec {i : Instr} {d : SReg} {y x : Word} {k : Cx → State} (run : exec i s = issue i s k)
    (result : k c = s.sDone c d y) (value : y = x) (hc : c.check i = .go) : ScalarDone (exec i s) s c d x := by
  rw [run, issue_go i s k c h hc, result, ← value]
  exact sDone_spec h d y

/-- R164: a 32-bit member of the scalar family. -/
theorem sBin_spec {i : Instr} {f : SForm} {op : Word → Word → Word} {x : Word} (run : exec i s = issue i s fun c => s.sBin c f op)
    (value : op (c.sop f.a) (c.sop f.b) = x) : c.check i = .go → ScalarDone (exec i s) s c f.d x :=
  scalar_spec h run rfl value

/-- R65, R164, R165: a 64-bit member of the scalar family. -/
theorem sBin64_spec {i : Instr} {f : SForm} {op : DWord → DWord → DWord} (run : exec i s = issue i s fun c => s.sBin64 c f op)
    (pairs : i.wf = f.pairOk) (hc : c.check i = .go) : ScalarPairDone (exec i s) s c f.d (op (c.sop64 f.a) (c.sop64 f.b)) := by
  have wf : ((SReg.even f.d && f.a.pairOk) && f.b.pairOk) = true := pairs.symm.trans (check_go_wf hc)
  simp only [Bool.and_eq_true] at wf
  obtain ⟨⟨even, -⟩, -⟩ := wf
  rw [run, issue_go i s _ c h hc]
  exact sPair_spec h f.d _ even

/-! ### Words of the mask and the tile size (R175, R176) -/

/-- R203: a word that changes its strand's entry and retires. -/
theorem retire_setEntry (f : Entry → Entry) : OnlyGroup s ((s.updGroup c.gi (Group.setEntry c.k f)).retire c) c
    { Group.retireWord c.k c.repeats { c.g with ctl := c.g.ctl.put c.k (some (f c.e)) } with age := s.ageAfter c } := by
  have only := retire_only h (Group.setEntry c.k f) rfl
  rw [Group.setEntry, cx?_entry h] at only
  exact only

theorem setxm_spec {x : SOp} (hc : c.check (.setxm x) = .go) : ∃ t g, exec (.setxm x) s = .next t ∧ OnlyGroup s t c g ∧
    g = { Group.retireWord c.k c.repeats
      { c.g with ctl := c.g.ctl.put c.k (some { c.e with active := c.sop x &&& c.e.owned }) } with age := s.ageAfter c } := by
  have run : exec (.setxm x) s = .next _ := issue_go _ s _ c h hc
  exact ⟨_, _, run, retire_setEntry h fun e => { e with active := c.sop x &&& e.owned }, rfl⟩

theorem setxp_spec {n : BitVec 3} (hc : c.check (.setxp n) = .go) :
    ∃ t, exec (.setxp n) s = .next t ∧ WordDone s t c { c.g.regs with xp := n } c.g.ctrl := by
  have run : exec (.setxp n) s = .next _ := issue_go _ s _ c h hc
  exact ⟨_, run, retire_regs h fun r => { r with xp := n }⟩

end

/-- Settles O12, each member by its value, and each kind of operand by what it reads. -/
theorem scalarResults : Obligations.ScalarResults := by
  refine ⟨fun s c f h => ?_, fun c n i => ⟨rfl, rfl, rfl, rfl, sop64_special c, rfl, rfl, rfl⟩⟩
  dsimp only
  refine ⟨sBin_spec h rfl rfl, sBin_spec h rfl rfl, sBin_spec h rfl rfl, sBin_spec h rfl (mulHigh_eq _ _), sBin_spec h rfl rfl, sBin_spec h rfl rfl,
    sBin_spec h rfl rfl, sBin_spec h rfl (shlWord_eq _ _), sBin_spec h rfl (shrWord_eq _ _), sBin_spec h rfl (sarWord_eq _ _),
    sBin_spec h rfl (iminWord_eq _ _), sBin_spec h rfl (imaxWord_eq _ _), sBin_spec h rfl (nminWord_eq _ _), sBin_spec h rfl (nmaxWord_eq _ _),
    fun k => sBin_spec h rfl ?_⟩
  cases k <;> rfl

/-- Settles O13: pairs, the lane that SRDV reads, immediates, and the words of the mask and the tile size, each by its own lemma. -/
theorem scalarOtherResults : Obligations.ScalarOtherResults := by
  intro s c h
  dsimp only
  refine ⟨fun f => sBin64_spec h rfl rfl, fun f => sBin64_spec h rfl rfl, fun d a b => scalar_spec h rfl rfl ?_,
    fun d x => scalar_spec h rfl rfl (wordOf_imm c.hs x), fun d x => scalar_spec h rfl rfl (congrArg _ (wordOf_imm c.hs x)),
    fun d x => scalar_spec h rfl rfl (append_low14 x _), fun d => scalar_spec h rfl rfl rfl, fun x => setxm_spec h, fun n => setxp_spec h⟩
  have lane : (c.sop a).toNat % 32 = ((c.sop a).extractLsb' 0 5).toNat := by simp
  rw [lane]

end Sys2Proof.Machine
end

section
/-! PROOFS. Branches: the whole-strand jumps, and the divergent ones with their split (R146, R167 to R171). -/

namespace Sys2Proof.Machine

/-! ### Targets and guards (R167, R168, R170) -/

theorem wordOf_add (a : Word) (n : Int) : wordOf ((a.toNat : Int) + n) = a + wordOf n := by
  rw [wordOf, BitVec.ofInt_add, BitVec.ofInt_natCast, BitVec.ofNat_toNat, BitVec.setWidth_eq]
  rfl

/-- R167: without IMM hints, the word after the jump plus four times the offset. -/
theorem target_plain {c : Cx} (plain : c.hs.imms = []) (off : BitVec 17) :
    c.target 17 off.toNat = { obj := c.e.pc.obj, off := c.e.pc.off + 4 + 4 * off.signExtend 32 } := by
  have offset : c.hs.imm 17 off.toNat = off.toInt := by simp only [HintSet.imm, plain, signedOf_toInt]
  have scaled : wordOf (4 * off.toInt) = 4 * off.signExtend 32 := BitVec.ofInt_mul ..
  rw [Cx.target, Cx.next, CodeRef.add, CodeRef.add, offset, wordOf_add, wordOf_add, scaled]
  rfl

theorem getLsbD_guardSet (c : Cx) (neg : Bool) (g : BitVec 3) {l : Nat} (hl : l < 32) :
    (c.guardSet neg g).getLsbD l = ((c.g.regs.guard g).getLsbD l != neg) := by
  cases neg <;> simp [Cx.guardSet, hl]

/-- R168: JANY's guard holds in some active lane. -/
theorem guardSet_any (c : Cx) (neg : Bool) (g : BitVec 3) : (c.guardSet neg g &&& c.e.active != 0) =
    (List.range 32).any fun l => c.e.active.getLsbD l && (c.g.regs.guard g).getLsbD l != neg := by
  rw [Bool.eq_iff_iff, bne_iff_ne, List.any_eq_true]
  constructor
  · intro some_
    obtain ⟨l, hl⟩ := List.exists_mem_of_ne_nil _ (lanes_ne_nil some_)
    obtain ⟨hl, on⟩ := mem_lanes.mp hl
    rw [BitVec.getLsbD_and, getLsbD_guardSet c neg g hl, Bool.and_comm] at on
    exact ⟨l, List.mem_range.mpr hl, on⟩
  · rintro ⟨l, hl, on⟩ none_
    rw [← getLsbD_guardSet c neg g (List.mem_range.mp hl), Bool.and_comm, ← BitVec.getLsbD_and, none_] at on
    exact Bool.noConfusion ((BitVec.getLsbD_zero (w := 32)).symm.trans on)

/-- R168: JALL's guard holds in every active lane. -/
theorem guardSet_all (c : Cx) (neg : Bool) (g : BitVec 3) : (c.guardSet neg g &&& c.e.active == c.e.active) =
    (List.range 32).all fun l => !c.e.active.getLsbD l || (c.g.regs.guard g).getLsbD l != neg := by
  have lane : ∀ on active : Bool, (on && active) = active ↔ (!active || on) = true := by decide
  rw [Bool.eq_iff_iff, beq_iff_eq, List.all_eq_true]
  constructor
  · intro every l hl
    rw [← getLsbD_guardSet c neg g (List.mem_range.mp hl), ← lane, ← BitVec.getLsbD_and, every]
  · intro every
    refine BitVec.eq_of_getLsbD_eq fun l hl => ?_
    rw [BitVec.getLsbD_and, lane, getLsbD_guardSet c neg g hl]
    exact every l (List.mem_range.mpr hl)

/-! ### The split of a strand (R146, R169) -/

theorem Control.mem_freeIndexes {c : Control} {k : Fin 8} (h : k ∈ c.freeIndexes) : c.get k = none :=
  Option.isNone_iff_eq_none.mp (List.mem_filter.mp h).2

theorem Control.freeIndexes_nodup (c : Control) : c.freeIndexes.Nodup := List.Nodup.filter _ (by decide)

/-- R146: the entries that a split takes are free, and differ. -/
theorem Group.freeTwo_free {g : Group} {p t : Fin 8} (h : g.freeTwo = some (p, t)) : g.ctl.get p = none ∧ g.ctl.get t = none ∧ p ≠ t := by
  unfold Group.freeTwo at h
  split at h
  · cases h
  · split at h
    · next a b rest free =>
      cases h
      have nodup := g.ctl.freeIndexes_nodup
      rw [free] at nodup
      refine ⟨Control.mem_freeIndexes (by rw [free]; exact List.mem_cons_self), Control.mem_freeIndexes (by rw [free]; simp), ?_⟩
      rintro rfl
      simp at nodup
    · cases h

section
variable (ctl : Control) {k p t : Fin 8} (e : Entry) (taken : LaneMask) (dst fall splice : CodeRef)

theorem Control.split_splice (pk : p ≠ k) (pt : p ≠ t) : (ctl.split k p t e taken dst fall splice).get p =
    some { Entry.strandAt splice e.owned 0 e.parent with kind := .splice } := by
  rw [Control.split, Control.put_get_other _ _ _ _ pk, Control.put_get_other _ _ _ _ pt, Control.put_get]

theorem Control.split_taken (tk : t ≠ k) : (ctl.split k p t e taken dst fall splice).get t = some (Entry.strandAt dst taken taken (some p)) := by
  rw [Control.split, Control.put_get_other _ _ _ _ tk, Control.put_get]

theorem Control.split_rest : (ctl.split k p t e taken dst fall splice).get k =
    some (Entry.strandAt fall (e.owned &&& ~~~taken) (e.active &&& ~~~taken) (some p)) := Control.put_get _ _ _

theorem Control.split_other {j : Fin 8} (jp : j ≠ p) (jt : j ≠ t) (jk : j ≠ k) :
    (ctl.split k p t e taken dst fall splice).get j = ctl.get j := by
  rw [Control.split, Control.put_get_other _ _ _ _ jk, Control.put_get_other _ _ _ _ jt, Control.put_get_other _ _ _ _ jp]
  rfl

end

section
variable {s : State} {c : Cx} (h : s.cx? = some c)
include h

/-- R71, R203: a word that retires by splitting its strand changes only the strand table, the latches' validity and the counts. -/
theorem retireSplit_only (table : Control) : OnlyGroup s (s.retireSplit c table) c { c.g with
    regs := c.g.regs.loseLatches, ctl := (table.settle settleFuel false).1, retire := c.g.retire + 1, age := s.ageAfter c } := by
  have twice : ∀ b : Bool, (if b then c.g.regs.loseLatches.loseLatches else c.g.regs.loseLatches) = c.g.regs.loseLatches := by
    intro b
    cases b <;> rfl
  have only := yieldAfter_only h (Group.retireSplit table) rfl
  simp only [Group.retireSplit, Group.settle, twice] at only
  exact only

/-! ### The whole-strand jumps (R167, R168) -/

/-- R167, R168: a jump passes, transfers, or raises ACCESS. -/
theorem branch_spec {i : Instr} {off : BitVec 17} {k : Cx → State} {taken go : Bool} (run : exec i s = issue i s k)
    (meaning : k c = s.branch c i off taken) (when_ : taken = go) (hc : c.check i = .go) :
    (go = false → Passes (exec i s) s c) ∧
    (go = true → c.p.inRegion (c.target 17 off.toNat) = true → Jumps (exec i s) s c (c.target 17 off.toNat)) ∧
    (go = true → c.p.inRegion (c.target 17 off.toNat) = false →
      exec i s = .next (s.trap c (wordOfInstr i) .access 0 (c.target 17 off.toNat).bits 0)) := by
  subst when_
  rw [run, issue_go i s k c h hc, meaning]
  refine ⟨fun stays => ?_, fun goes inside => ?_, fun goes outside => ?_⟩
  · subst stays
    exact ⟨_, rfl, retire_plain h⟩
  · subst goes
    rw [State.branch, if_pos rfl, checked_inRegion _ _ inside]
    exact ⟨_, rfl, retireTo_plain h _⟩
  · subst goes
    rw [State.branch, if_pos rfl, State.checked, if_neg (by rw [outside]; decide)]

/-! ### The divergent branches (R146, R169 to R171) -/

/-- R146, R169: a branch that some lanes take to a target in the region. -/
theorem diverge_spec {i : Instr} {taken : LaneMask} {dst splice : CodeRef} (run : exec i s = .next (s.diverge c i taken dst splice))
    (some_ : taken ≠ 0) (inside : c.p.inRegion dst = true) :
    (taken = c.e.active → Jumps (exec i s) s c dst) ∧
    (taken ≠ c.e.active → ∀ p t : Fin 8, c.g.freeTwo = some (p, t) →
      ∃ (u : State) (table : Control), exec i s = .next u ∧
        OnlyGroup s u c { c.g with
          regs := c.g.regs.loseLatches, ctl := (table.settle settleFuel false).1, retire := c.g.retire + 1, age := s.ageAfter c } ∧
        table.get p = some { Entry.strandAt splice c.e.owned 0 c.e.parent with kind := .splice } ∧
        table.get t = some (Entry.strandAt dst taken taken (some p)) ∧
        table.get c.k = some (Entry.strandAt c.next (c.e.owned &&& ~~~taken) (c.e.active &&& ~~~taken) (some p)) ∧
        ∀ j, j ≠ p → j ≠ t → j ≠ c.k → table.get j = c.g.ctl.get j) := by
  rw [run, State.diverge, if_neg (by simpa using some_), checked_inRegion _ _ inside]
  refine ⟨fun whole => ?_, fun part p t free => ?_⟩
  · rw [if_pos (by simpa using whole)]
    exact ⟨_, rfl, retireTo_plain h dst⟩
  · rw [if_neg (by simpa using part)]
    simp only [free]
    obtain ⟨freeP, freeT, pt⟩ := Group.freeTwo_free free
    have occupied : ∀ j, c.g.ctl.get j = none → j ≠ c.k := by
      rintro j none_ rfl
      rw [cx?_entry h] at none_
      cases none_
    exact ⟨_, _, rfl, retireSplit_only h _, Control.split_splice _ _ _ _ _ _ (occupied p freeP) pt,
      Control.split_taken _ _ _ _ _ _ (occupied t freeT), Control.split_rest _ _ _ _ _ _, fun j => Control.split_other _ _ _ _ _ _⟩

variable {neg : Bool} {g : BitVec 3} {off : BitVec 17}

theorem exec_jg (hc : c.check (.jg neg g off) = .go) : exec (.jg neg g off) s =
    .next (s.diverge c (.jg neg g off) (c.guardSet neg g &&& c.e.active) (c.target 17 off.toNat) (c.target 17 off.toNat)) := issue_go _ s _ c h hc

/-- R170, R171: JGX that some lanes take splices at the pending splice. -/
theorem exec_jgx (hc : c.check (.jgx neg g off) = .go) (some_ : c.guardSet neg g &&& c.e.active ≠ 0) : exec (.jgx neg g off) s =
    .next (s.diverge c (.jgx neg g off) (c.guardSet neg g &&& c.e.active) (c.target 17 off.toNat) (c.e.pend.getD (c.target 17 off.toNat))) := by
  have run : exec (.jgx neg g off) s = .next _ := issue_go _ s _ c h hc
  rwa [if_neg (by simpa using some_)] at run

theorem jg_passes (hc : c.check (.jg neg g off) = .go) (none_ : c.guardSet neg g &&& c.e.active = 0) : Passes (exec (.jg neg g off) s) s c := by
  rw [exec_jg h hc, State.diverge, if_pos (by simpa using none_)]
  exact ⟨_, rfl, retire_plain h⟩

/-- R171: JGX that no lane takes loses the pending splice (log 13). -/
theorem jgx_passes (hc : c.check (.jgx neg g off) = .go) (none_ : c.guardSet neg g &&& c.e.active = 0) :
    ∃ t, exec (.jgx neg g off) s = .next t ∧ OnlyGroup s t c
      { Group.retireWord c.k c.repeats { c.g with ctl := c.g.ctl.put c.k (some { c.e with pend := none }) } with age := s.ageAfter c } := by
  have run : exec (.jgx neg g off) s = .next _ := issue_go _ s _ c h hc
  rw [if_pos (by simpa using none_)] at run
  exact ⟨_, run, retire_setEntry h fun e => { e with pend := none }⟩

end

/-- Settles O14: the jumps by whether they are taken, the branches by the lanes that take them. -/
theorem branchResults : Obligations.BranchResults := by
  refine ⟨fun s c off h => ?_, fun s c neg g off h => ?_⟩
  · exact ⟨fun plain => target_plain plain off, branch_spec h rfl rfl rfl, fun r => ⟨branch_spec h rfl rfl rfl, branch_spec h rfl rfl rfl⟩,
      fun neg g => ⟨branch_spec h rfl rfl (guardSet_any c neg g), branch_spec h rfl rfl (guardSet_all c neg g)⟩⟩
  · exact ⟨fun hc some_ inside => diverge_spec h (exec_jg h hc) some_ inside,
      fun hc some_ inside => diverge_spec h (exec_jgx h hc some_) some_ inside, jg_passes h, jgx_passes h⟩

end Sys2Proof.Machine
end

section
/-! PROOFS. What a commit does to groups: it fires the watches of some lines, which leaves each strand its lanes (R40, R291, R292, R421, R433). -/

namespace Sys2Proof.Machine

/-- R291, R292: the watches of some lines fire in a group, one line after another. -/
def Group.fireAll (lines : List Nat) (g : Group) : Group := lines.foldl (fun g line => g.fire line) g

/-- Between two states the groups differ only by watches that have fired. -/
def WatchesFired (s t : State) : Prop := ∃ lines : List Nat, t.groups = s.groups.map (Group.fireAll lines)

theorem WatchesFired.same {s t : State} (h : t.groups = s.groups) : WatchesFired s t :=
  ⟨[], by rw [h, show Group.fireAll [] = id from rfl, List.map_id]⟩

theorem WatchesFired.refl (s : State) : WatchesFired s s := .same rfl

theorem WatchesFired.trans {a b c : State} : WatchesFired a b → WatchesFired b c → WatchesFired a c := by
  rintro ⟨ls, hb⟩ ⟨ms, hc⟩
  refine ⟨ls ++ ms, ?_⟩
  rw [hc, hb, List.map_map]
  exact List.map_congr_left fun g _ => (List.foldl_append ..).symm

theorem WatchesFired.foldl {α : Type} {f : State → α → State} (hf : ∀ s a, WatchesFired s (f s a)) (l : List α) (s : State) :
    WatchesFired s (l.foldl f s) := by
  induction l generalizing s with
  | nil => exact .refl s
  | cons a l ih => exact (hf s a).trans (ih _)

/-! ### The parts of a commit (R40, R252, R421, R433) -/

theorem written_watches (s : State) (gran : Nat) : WatchesFired s (s.written gran) := by
  by_cases watched : (s.groups.any fun g => g.watch.any fun w => w.line == gran / 8) = true
  · exact ⟨[gran / 8], by simp only [State.written, watched, if_true]; rfl⟩
  · exact .same (by simp only [State.written, watched, Bool.false_eq_true, if_false])

theorem WatchesFired.writtenIf {s t : State} (h : WatchesFired s t) (fires : Bool) (gran : Nat) :
    WatchesFired s (if fires then t.written gran else t) := by
  cases fires with
  | false => exact h
  | true => exact h.trans (written_watches t gran)

section
variable (s : State) (k : CommitKind) (w : GranWrite)

theorem putThrough_watches : WatchesFired s (s.putThrough k w) := (WatchesFired.same rfl).writtenIf _ _

theorem trackGran_watches (gran : Nat) : WatchesFired s (s.trackGran gran) := by
  refine WatchesFired.foldl (fun s p => ?_) _ s
  split
  · split
    · exact putThrough_watches _ _ _
    · exact .refl s
  · exact .refl s

theorem trackAll_watches (grans : List Nat) : WatchesFired s (s.trackAll grans) := by
  unfold State.trackAll
  split
  · exact WatchesFired.foldl trackGran_watches _ s
  · exact .refl s

theorem putL2_watches (p : Part) : WatchesFired s (s.putL2 k w p) := by
  refine WatchesFired.writtenIf ?_ _ _
  exact (WatchesFired.same rfl).trans (trackAll_watches _ _)

theorem sealGran_groups : (s.sealGran k w).groups = s.groups := by
  have opened : ∀ sec, (s.reopen sec).groups = s.groups := fun sec => by
    unfold State.reopen
    split <;> rfl
  unfold State.sealGran
  split
  · rfl
  · exact opened _

theorem placeGran_watches : WatchesFired s (s.placeGran k w) := by
  unfold State.placeGran
  split
  · exact .same rfl
  · split
    · exact .refl s
    · split
      · exact (WatchesFired.same rfl).writtenIf _ _
      · refine (WatchesFired.same (sealGran_groups s k w)).trans ?_
        split
        · split
          · exact putThrough_watches _ k w
          · exact putL2_watches _ k w _
        · exact putThrough_watches _ k w

end

/-- R40, R421: a commit fires watches, and changes nothing else of a group. -/
theorem commit_watches (s : State) (k : CommitKind) (ws : List GranWrite) : WatchesFired s (s.commit k ws) := by
  have placed : ∀ (ws : List GranWrite) (s : State), WatchesFired s (s.placeGrans k ws) := fun ws => by
    induction ws with
    | nil => exact .refl
    | cons w ws ih => exact fun s => (placeGran_watches s k w).trans (ih _)
  simp only [State.commit]
  split
  · exact ((placed ws s).trans (trackAll_watches _ _)).trans (.same rfl)
  · exact (placed ws s).trans (.same rfl)

/-! ### The lanes of strands (R292) -/

/-- The active lanes of a group's selected strand. -/
def Group.currentActive (g : Group) : LaneMask := ((g.ctl.get g.ctl.cur).map Entry.active).getD 0

theorem Group.fire_currentActive (line : Nat) (g : Group) : (g.fire line).currentActive = g.currentActive := by
  have roused : ∀ e : Entry, e.rouse.active = e.active := fun e => by
    unfold Entry.rouse
    split <;> rfl
  unfold Group.fire
  split
  · simp only [Group.currentActive, Group.mapEntries, Control.get, Fin.getElem_fin, Vector.getElem_map, Option.map_map]
    exact congrArg (·.getD 0) (Option.map_congr fun e _ => roused e)
  · rfl

theorem Group.fireAll_currentActive (lines : List Nat) (g : Group) : (g.fireAll lines).currentActive = g.currentActive := by
  induction lines generalizing g with
  | nil => rfl
  | cons line lines ih => exact (ih _).trans (g.fire_currentActive line)

/-- R41, R292: a commit by a group leaves its selected strand its active lanes. -/
theorem commitGroup_currentActive {s : State} {gi : Nat} {g : Group} (sc : Scope) (h : s.groups[gi]? = some g) :
    ∃ g', (s.commitGroup gi sc).groups[gi]? = some g' ∧ g'.currentActive = g.currentActive := by
  unfold State.commitGroup
  split
  · exact ⟨g, h, rfl⟩
  · obtain ⟨lines, fired⟩ := commit_watches s
      { party := s.partyOf gi, scope := sc, atHome := sc.rank ≥ 2, atomic := false, sector := false, discard := false }
      (s.commitWrites gi g.stores fun o => OwnStore.carried sc o && true)
    simp only [State.commitSome, h]
    rw [updGroup_get_same, fired, List.getElem?_map, h]
    exact ⟨_, rfl, g.fireAll_currentActive lines⟩

end Sys2Proof.Machine
end

section
/-! PROOFS. EXIT, YIELD, REGION and PYIELD (R177, R178, R183, R185). -/

namespace Sys2Proof.Machine

/-! ### Ages (R178, R378) -/

theorem le_maxAge (gs : List Group) (n : Nat) : n ≤ gs.foldl (fun n g => max n (g.age + 1)) n := by
  induction gs generalizing n with
  | nil => exact le_rfl
  | cons g gs ih => exact (le_max_left _ _).trans (ih _)

theorem lt_maxAge {gs : List Group} {g : Group} (h : g ∈ gs) (n : Nat) : g.age < gs.foldl (fun n g => max n (g.age + 1)) n := by
  induction gs generalizing n with
  | nil => cases h
  | cons x gs ih =>
    rcases List.mem_cons.mp h with rfl | h
    · exact (Nat.lt_of_succ_le (le_max_right _ _)).trans_le (le_maxAge gs _)
    · exact ih h _

theorem lt_youngest {s : State} {g : Group} (h : g ∈ s.groups) : g.age < s.youngest := lt_maxAge h 0

/-- R79: a SCHED hint that yields after a word makes its group younger, and changes nothing else. -/
theorem OnlyGroup.yieldAfter {s u : State} {c : Cx} {g : Group} (only : OnlyGroup s u c g) :
    ∃ n, g.age ≤ n ∧ OnlyGroup s (u.yieldAfter c) c { g with age := n } := by
  have others : ∀ j, j ≠ c.gi → (u.yieldAfter c).groups[j]? = s.groups[j]? := fun j hj =>
    (updGroup_get_other _ _ _ _ hj).trans (only.others j hj)
  have rest : u.yieldAfter c = { s with groups := (u.yieldAfter c).groups, parts := (s.countRetired c.p.id).parts } := by
    rw [State.yieldAfter, State.updGroup, only.rest]
  have group := updGroup_get_same u c.gi fun g => if c.hs.yields && c.repeats ≤ c.e.rpt + 1 then { g with age := u.youngest } else g
  rw [only.group, Option.map_some] at group
  by_cases hinted : (c.hs.yields && decide (c.repeats ≤ c.e.rpt + 1)) = true
  · rw [if_pos hinted] at group
    exact ⟨u.youngest, (lt_youngest (List.mem_of_getElem? only.group)).le, group, others, rest⟩
  · rw [if_neg hinted] at group
    exact ⟨g.age, le_rfl, group, others, rest⟩

/-- A change of a group depends on what it makes of that group only. -/
theorem updGroup_congr {s : State} {n : Nat} {g : Group} {f f' : Group → Group} (h : s.groups[n]? = some g) (same : f g = f' g) :
    s.updGroup n f = s.updGroup n f' := by
  rw [State.updGroup, State.updGroup, listModify_eq_set f h, listModify_eq_set f' h, same]

section
variable {s : State} {c : Cx} (h : s.cx? = some c)
include h

theorem cx?_currentActive : c.g.currentActive = c.e.active := by
  obtain ⟨-, -, -, -, current, entry, -⟩ := cx?_spec h
  rw [current] at entry
  rw [Group.currentActive, entry]
  rfl

/-- R177: EXIT where no deferred trap is being handled. -/
theorem exit_spec (hc : c.check .exit = .go) (undeferred : (c.g.ctxs.any fun x => x.deferred.isSome) = false) :
    let done := { Group.exitStrand c.k c.e.owned c.g.endRegion with age := s.ageAfter c }
    ∃ t, OnlyGroup s t c done ∧
      exec .exit s = .next (if done.ctl.live = 0 then t.due (.groupExitComplete c.gi) else t.quiesce c.gi) := by
  have keeps : c.exitDropsLog = false := by rw [Cx.exitDropsLog, Cx.exitDrops, undeferred, Bool.and_false, Bool.false_and]
  have run : exec .exit s = .next _ := issue_go _ s _ c h hc
  simp only [keeps, Bool.false_eq_true, if_false, updGroup_comp] at run
  have only := yieldAfter_only h (fun g => Group.exitStrand c.k c.e.owned g.endRegion) rfl
  refine ⟨_, only, run.trans ?_⟩
  rw [only.group, Option.any_some]
  simp only [beq_iff_eq]

/-- R178: YIELD makes its group younger than every other, whether or not a SCHED hint yields it too. -/
theorem yield_spec (hc : c.check .yield = .go) : ∃ t n, exec .yield s = .next t ∧ (∀ g ∈ s.groups, g.age < n) ∧
    OnlyGroup s t c (Group.retireWord c.k c.repeats { c.g with age := n, regs := c.g.regs.loseLatches }) := by
  have run : exec .yield s = .next _ := issue_go _ s _ c h hc
  rw [State.retire, updGroup_comp] at run
  have only := countRetired_only h fun g => Group.retireWord c.k c.repeats { g with age := s.youngest, regs := g.regs.loseLatches }
  obtain ⟨n, older, yielded⟩ := only.yieldAfter
  exact ⟨_, n, run, fun g hg => (lt_youngest hg).trans_le older, yielded⟩

/-- R183: REGION commits, then captures what stands, with one strand and outside of handlers. -/
theorem region_spec (hc : c.check .region = .go) : ∃ g1, (s.commitGroup c.gi .p).groups[c.gi]? = some g1 ∧
    let open_ : Region :=
      { pc := c.e.first, rpt := 0, regs := g1.regs, ctrl := g1.ctrl, active := c.e.active, callRec := g1.callRec, retire := g1.retire }
    let g2 : Group := if (g1.ctl.indexes fun e => e.kind == .strand).length == 1 && g1.ctxs.isEmpty then
      { g1.endRegion with region := some open_ } else g1.endRegion
    exec .region s = .next (((s.commitGroup c.gi .p).updGroup c.gi fun _ => g2).retire c) := by
  obtain ⟨g1, hg1, kept⟩ := commitGroup_currentActive .p (cx?_group h)
  have run : exec .region s = .next _ := issue_go _ s _ c h hc
  refine ⟨g1, hg1, run.trans (congrArg (fun u => Host.Outcome.next (State.retire u c)) (updGroup_congr hg1 ?_))⟩
  rw [← kept.trans (cx?_currentActive h)]
  rfl

theorem pyield_idle (hc : c.check .pyield = .go) (idle : c.g.ctrl.preq = false) :
    ∃ t, exec .pyield s = .next t ∧ WordDone s t c c.g.regs.loseLatches c.g.ctrl := by
  have run : exec .pyield s = .next _ := issue_go _ s _ c h hc
  rw [if_neg (by rw [idle]; decide)] at run
  exact ⟨_, run, retire_regs h Regs.loseLatches⟩

theorem pyield_requested (hc : c.check .pyield = .go) (asked : c.g.ctrl.preq = true) : ∃ t, Passes (.next t) s c ∧
    exec .pyield s = .next ((t.undue (.deadlineExpiry c.gi)).saveGroup c.gi (.cooperative c.hs.live) c.hs.live) := by
  have run : exec .pyield s = .next _ := issue_go _ s _ c h hc
  rw [if_pos asked] at run
  exact ⟨_, ⟨_, rfl, retire_plain h⟩, run⟩

end

/-- Settles O16, word by word; PYIELD by whether a request stands. -/
theorem endingResults : Obligations.EndingResults := fun _ _ h =>
  ⟨exit_spec h, yield_spec h, region_spec h, pyield_idle h, pyield_requested h⟩

end Sys2Proof.Machine
end

section
/-! PROOFS. TRAP and TRET (R186, R187). -/

namespace Sys2Proof.Machine

/-! ### The parts of a return (R131, R187, R266) -/

theorem unpin_rest (s : State) (pid : Nat) : s.unpin pid = { s with parts := (s.unpin pid).parts } := by
  unfold State.unpin
  split <;> rfl

/-- R178, R378: who yields, and to which age, is a matter of the groups alone. -/
theorem yieldAfter_groups_congr {u v : State} (c : Cx) (h : u.groups = v.groups) : (u.yieldAfter c).groups = (v.yieldAfter c).groups := by
  simp only [State.yieldAfter, State.updGroup, State.youngest, h]

/-- R187, R266: leaving a trap handler changes its group; faulted accesses that may replay become due. -/
theorem endTrap_rest (s : State) (w : Who) (slot : List Byte) (x : Ctx) (rest : List Ctx) : s.endTrap w slot x rest =
    { s with groups := (s.updGroup w.gi (Group.endTrap slot x rest)).groups, free := s.free + 1, events := (s.endTrap w slot x rest).events } := by
  unfold State.endTrap
  dsimp only
  split
  · unfold State.due
    split <;> rfl
  · rfl

/-- R187, R203: the state after a TRET that returns by a save slot. -/
def State.afterTret (s : State) (c : Cx) (slot : List Byte) (x : Ctx) (rest : List Ctx) : State :=
  ((((s.updGroup c.gi fun g => { g with retire := g.retire + 1 }).endTrap c.who slot x rest).countRetired c.p.id).unpin c.p.id).yieldAfter c

/-- R187: the strand that a trap which was not deferred came from, as TRET leaves it. -/
def Entry.returned (slot : List Byte) (e : Entry) : Entry :=
  Entry.resume false (BitVec.ofNat 32 (fieldAt slot 0x1C 4)) (CodeRef.ofBits (BitVec.ofNat 64 (fieldAt slot 8 8))) (fieldAt slot 2 1 % 64) e

/-- R146 to R148, R187: the strand table after TRET, and whether strands of it have fused. -/
def Ctx.returned (slot : List Byte) (x : Ctx) (e : Entry) : Control × Bool :=
  (x.ctl.put x.ctl.cur (some (e.returned slot))).settle settleFuel false

theorem Group.endTrap_eq (slot : List Byte) {x : Ctx} (rest : List Ctx) (g : Group) {e : Entry} (undeferred : x.deferred = none)
    (strand : x.ctl.get x.ctl.cur = some e) : Group.endTrap slot x rest g = Group.wake (fun w => w == .fault || w == .logFull)
      { g with ctl := (x.returned slot e).1, ctxs := rest, regs := (g.regs.reloadLatches slot).fusedIf (x.returned slot e).2,
               ctrl := { g.ctrl with rptIdx := BitVec.ofNat 6 (fieldAt slot 2 1) } } := by
  simp only [Group.endTrap, undeferred, strand, Option.map_some, Option.isSome_none, resumeLog]
  rfl

section
variable {s : State} {c : Cx} (h : s.cx? = some c)
include h

/-- R75, R186: TRAP raises SOFTWARE, to resume at the next word. -/
theorem trap_spec {code : BitVec 20} (hc : c.check (.trap code) = .go) :
    ∃ i : TrapInfo, exec (.trap code) s = .next ((s.countIssued c.p.id).takeTrap c.gi c.p i) ∧
      i.cause = .software ∧ i.ref = c.e.pc.add 4 ∧ i.former = c.e.active ∧ i.word = wordOfInstr (.trap code) ∧
      i.addr = 0 ∧ i.lanes = 0 ∧ i.rpt = 0 ∧ i.deferred = none ∧ (c.hs.imms = [] → i.detail = code.zeroExtend 32) := by
  have run : exec (.trap code) s = .next _ := issue_go _ s _ c h hc
  refine ⟨_, run, rfl, rfl, rfl, rfl, rfl, rfl, rfl, rfl, fun plain => ?_⟩
  rw [Cx.trapDetail, plain]
  rfl

theorem tret_untrapped (hc : c.check .tret = .go) (none_ : c.g.ctxs = []) :
    exec .tret s = .next (s.trap c (wordOfInstr .tret) .badHandle 0 0 0) := by
  have run : exec .tret s = .next _ := issue_go _ s _ c h hc
  rwa [none_] at run

variable {x : Ctx} {rest : List Ctx} {slot : List Byte}

theorem exec_tret (hc : c.check .tret = .go) (ctxs : c.g.ctxs = x :: rest) (handles : x.landing = false)
    (reads : s.returnSlot c.who = .ok slot) : exec .tret s = .next (s.afterTret c slot x rest) := by
  have run : exec .tret s = .next _ := issue_go _ s _ c h hc
  simp only [ctxs, handles, reads, Bool.false_eq_true, if_false] at run
  exact run

/-- R187, R203: what TRET leaves of the groups. -/
theorem afterTret_groups : (s.afterTret c slot x rest).groups[c.gi]? =
      some { Group.endTrap slot x rest { c.g with retire := c.g.retire + 1 } with age := s.ageAfter c } ∧
    ∀ j, j ≠ c.gi → (s.afterTret c slot x rest).groups[j]? = s.groups[j]? := by
  have only := yieldAfter_only h (fun g => Group.endTrap slot x rest { g with retire := g.retire + 1 }) rfl
  have same : (s.afterTret c slot x rest).groups = (((s.updGroup c.gi fun g =>
      Group.endTrap slot x rest { g with retire := g.retire + 1 }).countRetired c.p.id).yieldAfter c).groups := by
    refine yieldAfter_groups_congr c ?_
    rw [unpin_rest, ← updGroup_comp s c.gi (fun g => { g with retire := g.retire + 1 }) (Group.endTrap slot x rest), endTrap_rest]
    rfl
  rw [same]
  exact ⟨only.group, only.others⟩

/-- R187: TRET restores the table that its trap froze, and nothing of memory, history or teams changes. -/
theorem tret_spec (hc : c.check .tret = .go) (ctxs : c.g.ctxs = x :: rest) (handles : x.landing = false) (undeferred : x.deferred = none)
    (reads : s.returnSlot c.who = .ok slot) {e : Entry} (strand : x.ctl.get x.ctl.cur = some e) :
    ∃ t, exec .tret s = .next t ∧ t.groups[c.gi]? = some (Group.wake (fun w => w == .fault || w == .logFull)
        { c.g with ctl := (x.returned slot e).1, ctxs := rest, regs := (c.g.regs.reloadLatches slot).fusedIf (x.returned slot e).2,
                   ctrl := { c.g.ctrl with rptIdx := BitVec.ofNat 6 (fieldAt slot 2 1) }, retire := c.g.retire + 1, age := s.ageAfter c }) ∧
      (∀ j, j ≠ c.gi → t.groups[j]? = s.groups[j]?) ∧ t.mem = s.mem ∧ t.hist = s.hist ∧ t.teams = s.teams := by
  obtain ⟨group, others⟩ := afterTret_groups h (x := x) (rest := rest) (slot := slot)
  rw [Group.endTrap_eq slot rest _ undeferred strand] at group
  refine ⟨_, exec_tret h hc ctxs handles reads, group, others, ?_⟩
  rw [State.afterTret, unpin_rest, endTrap_rest]
  exact ⟨rfl, rfl, rfl⟩

end

/-- Settles O22: TRAP by what it raises, TRET by whether a trap is being handled. -/
theorem trapWords : Obligations.TrapWords := by
  intro s c h
  refine ⟨fun code => trap_spec h, tret_untrapped h, fun hc x rest slot e ctxs handles undeferred reads strand => ?_⟩
  obtain ⟨t, run, group, others, mem, hist, teams⟩ := tret_spec h hc ctxs handles undeferred reads strand
  exact ⟨t, _, run, group, others, mem, hist, teams, rfl⟩

end Sys2Proof.Machine
end

section
/-! PROOFS. Reductions over the contributing lanes of a tile: sums, extremes and the floating-point forms (R143, R214 to R217, R238, R239). -/

namespace Sys2Proof.Machine

/-! ### The contributing lanes of a tile (R150, R214, R238) -/

theorem tile_pos (c : Cx) : 0 < c.tile := Nat.pow_pos (by decide)

/-- R150: the tiles of a word end at lane 31. -/
theorem tile_end_le (c : Cx) {l : Nat} (hl : l < 32) : l / c.tile * c.tile + c.tile ≤ 32 := by
  obtain ⟨k, hk⟩ : c.tile ∣ 32 := pow_dvd_pow 2 (Nat.min_le_right c.g.regs.xp.toNat 5)
  have inside : l / c.tile < k := Nat.div_lt_of_lt_mul (hk ▸ hl)
  calc l / c.tile * c.tile + c.tile = (l / c.tile + 1) * c.tile := (Nat.succ_mul _ _).symm
    _ ≤ k * c.tile := Nat.mul_le_mul_right _ inside
    _ = 32 := by rw [hk, Nat.mul_comm]

theorem mem_tileLanes {c : Cx} {m : LaneMask} {l : Nat} (hl : l < 32) (j : Nat) :
    j ∈ c.tileLanes m l ↔ j < 32 ∧ m.getLsbD j = true ∧ j / c.tile = l / c.tile := by
  have pos := tile_pos c
  have fits := tile_end_le c hl
  have tile_iff := Nat.div_eq_iff (x := j) (y := l / c.tile) pos
  simp only [Cx.tileLanes, List.mem_filter, List.mem_map, List.mem_range]
  constructor
  · rintro ⟨⟨i, hi, rfl⟩, contributes⟩
    exact ⟨by omega, contributes, tile_iff.mpr (by omega)⟩
  · rintro ⟨_, contributes, same⟩
    have bounds := tile_iff.mp same
    exact ⟨⟨j - l / c.tile * c.tile, by omega, by omega⟩, contributes⟩

/-- R214, R238: the lanes of a mask in the tile of a lane. -/
def Cx.contributing (c : Cx) (m : LaneMask) (l : Nat) : List Nat := (List.range 32).filter fun j => m.getLsbD j && j / c.tile == l / c.tile

theorem tileLanes_eq (c : Cx) (m : LaneMask) {l : Nat} (hl : l < 32) : c.tileLanes m l = c.contributing m l := by
  have rising : (c.tileLanes m l).SortedLT :=
    ((List.pairwise_map.mpr (List.pairwise_lt_range.imp fun h => Nat.add_lt_add_left h _)).filter _).sortedLT
  refine rising.eq_of_mem_iff (List.pairwise_lt_range.filter _).sortedLT fun j => ?_
  simp only [mem_tileLanes hl, Cx.contributing, List.mem_filter, List.mem_range, Bool.and_eq_true, beq_iff_eq]

/-! ### Sums and extremes of some lanes (R217, R222) -/

theorem foldl_add_eq_sum (v : Nat → Word) (ls : List Nat) : ls.foldl (fun n k => n + v k) 0 = (ls.map v).sum := by
  rw [List.sum_eq_foldl, List.foldl_map]

/-- R217, R238: PSUM adds the lanes up to its own, or before it with .x. -/
theorem psumI_eq (c : Cx) (x : Bool) (a : Src) (ls : List Nat) (l : Nat) :
    c.psumI x a ls l = ((ls.filter fun j => if x then j < l else j ≤ l).map (c.src a)).sum := by
  have counted : (fun k => decide (k < l) || (k == l && !x)) = fun j => (if x then j < l else j ≤ l : Bool) := by
    funext j
    cases x with
    | false => simp [Nat.le_iff_lt_or_eq, Bool.beq_eq_decide_eq]
    | true => simp
  rw [Cx.psumI, foldl_add_eq_sum, counted]

/-- R217: of two words `pick` gives one whose key is not the greater. -/
def PicksLeast {α : Type} [LinearOrder α] (key : Word → α) (pick : Word → Word → Word) : Prop :=
  ∀ x y, (pick x y = x ∧ key x ≤ key y) ∨ (pick x y = y ∧ key y ≤ key x)

theorem picksLeast_of_ite {α : Type} [LinearOrder α] {key : Word → α} {pick : Word → Word → Word}
    (second : ∀ x y, key y < key x → pick x y = y) (first : ∀ x y, ¬ key y < key x → pick x y = x) : PicksLeast key pick := fun x y =>
  (lt_or_ge (key y) (key x)).elim (fun h => .inr ⟨second x y h, h.le⟩) fun h => .inl ⟨first x y h.not_gt, h⟩

theorem iminWord_least : PicksLeast BitVec.toInt iminWord := picksLeast_of_ite (fun _ _ h => if_pos h) fun _ _ h => if_neg h
theorem nminWord_least : PicksLeast BitVec.toNat nminWord := picksLeast_of_ite (fun _ _ h => if_pos h) fun _ _ h => if_neg h
theorem imaxWord_least : PicksLeast (fun x => OrderDual.toDual x.toInt) imaxWord := picksLeast_of_ite (fun _ _ h => if_pos h) fun _ _ h => if_neg h
theorem nmaxWord_least : PicksLeast (fun x => OrderDual.toDual x.toNat) nmaxWord := picksLeast_of_ite (fun _ _ h => if_pos h) fun _ _ h => if_neg h

/-- Picking along a list gives the first word or one of the list, and none of them has a lesser key. -/
theorem foldl_least {α : Type} [LinearOrder α] {key : Word → α} {pick : Word → Word → Word} (least : PicksLeast key pick) (v : Nat → Word)
    (ls : List Nat) (x : Word) :
    (ls.foldl (fun x j => pick x (v j)) x = x ∨ ∃ j ∈ ls, ls.foldl (fun x j => pick x (v j)) x = v j) ∧
      key (ls.foldl (fun x j => pick x (v j)) x) ≤ key x ∧ ∀ j ∈ ls, key (ls.foldl (fun x j => pick x (v j)) x) ≤ key (v j) := by
  induction ls generalizing x with
  | nil => exact ⟨.inl rfl, le_rfl, nofun⟩
  | cons k ls ih =>
    obtain ⟨origin, bound, bounds⟩ := ih (pick x (v k))
    rw [List.foldl_cons]
    rcases least x (v k) with ⟨picked, le⟩ | ⟨picked, le⟩
    · rw [picked] at origin bound bounds ⊢
      exact ⟨origin.imp_right fun ⟨j, hj, e⟩ => ⟨j, .tail _ hj, e⟩, bound, List.forall_mem_cons.mpr ⟨bound.trans le, bounds⟩⟩
    · rw [picked] at origin bound bounds ⊢
      refine ⟨.inr ?_, bound.trans le, List.forall_mem_cons.mpr ⟨bound, bounds⟩⟩
      rcases origin with e | ⟨j, hj, e⟩
      · exact ⟨k, .head _, e⟩
      · exact ⟨j, .tail _ hj, e⟩

/-- R217, R238: the extreme of an integer type is the value of one of the lanes, and none has a lesser key. -/
theorem extreme_least {α : Type} [LinearOrder α] {key : Word → α} {t : XType} {max : Bool} (c : Cx) (a : Src) (ints : t ≠ .f32)
    (least : PicksLeast key (xpick t max)) {ls : List Nat} (some_ : ls ≠ []) :
    (∃ j ∈ ls, c.extreme t max a ls = c.src a j) ∧ ∀ j ∈ ls, key (c.extreme t max a ls) ≤ key (c.src a j) := by
  obtain ⟨k, rest, rfl⟩ := List.exists_cons_of_ne_nil some_
  obtain ⟨origin, bound, bounds⟩ := foldl_least least (c.src a) rest (c.src a k)
  rw [Cx.extreme, if_neg (by simpa using ints)]
  refine ⟨?_, List.forall_mem_cons.mpr ⟨bound, bounds⟩⟩
  rcases origin with e | ⟨j, hj, e⟩
  · exact ⟨k, .head _, e⟩
  · exact ⟨j, .tail _ hj, e⟩

/-! ### Words of lane results with flags (R143, R221) -/

theorem foldl_lanes_getLsbD (p : Nat → Bool) (n : Nat) (m : LaneMask) {l : Nat} (hl : l < 32) :
    ((List.range n).foldl (fun m l => if p l then m ||| BitVec.twoPow 32 l else m) m).getLsbD l = (m.getLsbD l || (decide (l < n) && p l)) := by
  induction n with
  | zero => rw [List.range_zero, List.foldl_nil, decide_eq_false (Nat.not_lt_zero l), Bool.false_and, Bool.or_false]
  | succ n ih =>
    have bit : (BitVec.twoPow 32 n).getLsbD l = decide (n = l) := by
      rw [BitVec.getLsbD_twoPow]
      by_cases hn : n = l <;> simp [hn, hl]
    have upTo : decide (l < n + 1) = (decide (l < n) || decide (n = l)) := by
      rw [← Bool.decide_or, decide_eq_decide]
      omega
    rw [List.range_succ, List.foldl_append, List.foldl_cons, List.foldl_nil, apply_ite (BitVec.getLsbD · l), BitVec.getLsbD_or, bit, ih, upTo]
    by_cases hn : n = l
    · subst hn
      cases p n <;> simp
    · simp [hn]

theorem ofFn_getLsbD (p : Nat → Bool) {l : Nat} (hl : l < 32) : (LaneMask.ofFn p).getLsbD l = p l := by
  rw [LaneMask.ofFn, foldl_lanes_getLsbD p 32 0 hl]
  simp [hl]

/-- R143: a 32-bit result with an enabled flag raises ARITH, for the lanes that raised it. -/
theorem fpDone_traps {s : State} {c : Cx} {i : Instr} {nw : Bool} {d : VReg} {m : LaneMask} {op : Nat → Rounded} (run : exec i s = .next (s.fpDone c i nw d m op))
    (loud : ¬ c.quiet m op) : ArithTrap s c i m op := by
  have fl := orFlags_congr m _ _ (tabulate_flags op)
  refine ⟨LaneMask.ofFn fun l => m.getLsbD l && (((Lanes.tabulate op).toList[l]?).map Rounded.flags).getD 0 &&& c.g.ctrl.trapEn != 0, ?_, ?_⟩
  · intro l hl
    rw [ofFn_getLsbD _ hl, tabulate_flags op l hl]
  · rw [run, State.fpDone, State.withFlags, fl, if_pos (by simpa [Cx.quiet] using loud)]
    rw [BitVec.ofNat_toNat]

section
variable {s : State} {c : Cx} (h : s.cx? = some c)
include h

/-- R143, R221: a word of results with flags completes where no flag that it raises is enabled; elsewhere it raises ARITH. -/
theorem fpDone_adds {i : Instr} {nw : Bool} {d : VReg} {m : LaneMask} {op : Nat → Rounded} (run : exec i s = .next (s.fpDone c i nw d m op)) :
    (c.quiet m op → FpDone (exec i s) s c nw d m op) ∧ (¬ c.quiet m op → ArithTrap s c i m op) :=
  ⟨fun quiet => run ▸ fpDone_spec h i nw d m op quiet, fpDone_traps run⟩

/-! ### The integer words (R217, R238, R239) -/

/-- R238: a word gives each lane of act a value as `ok` says. -/
def TileGives (i : Instr) (s : State) (c : Cx) (g : UForm) (ok : Nat → Word → Prop) : Prop :=
  ∃ res, LaneDone (exec i s) s c g.wb g.d (c.act g.gd) res ∧ ∀ l, l < 32 → (c.act g.gd).getLsbD l = true → ok l (res l)

theorem tileInt_gives {i : Instr} {f : UForm} {op : Src → List Nat → Nat → Word} {ok : Nat → Word → Prop}
    (run : exec i s = .next (s.tileInt c f op))
    (meets : ∀ l, l ∈ c.contributing (c.act (c.uForm f).gd) l → ok l (op (c.uForm f).a (c.contributing (c.act (c.uForm f).gd) l) l)) :
    TileGives i s c (c.uForm f) ok := by
  refine ⟨_, run ▸ laneDone_spec h _ _ _ _, fun l hl active => ?_⟩
  have own : l ∈ c.tileLanes (c.act (c.uForm f).gd) l := (mem_tileLanes hl l).mpr ⟨hl, active, rfl⟩
  dsimp only
  rw [tileLanes_eq c _ hl] at own ⊢
  exact meets l own

theorem psum_int_gives {t : XType} {x : Bool} {f : UForm} (ints : t ≠ .f32) (hc : c.check (.psum t x f) = .go) :
    TileGives (.psum t x f) s c (c.uForm f) fun l y =>
      y = (((c.contributing (c.act (c.uForm f).gd) l).filter fun j => if x then j < l else j ≤ l).map (c.src (c.uForm f).a)).sum := by
  have run : exec (.psum t x f) s = .next _ := issue_go _ s _ c h hc
  rw [if_neg (by simpa using ints)] at run
  exact tileInt_gives h run fun l _ => psumI_eq c x _ _ l

theorem rsum_int_gives {t : XType} {f : UForm} (ints : t ≠ .f32) (hc : c.check (.rsum t f) = .go) :
    TileGives (.rsum t f) s c (c.uForm f) fun l y => y = ((c.contributing (c.act (c.uForm f).gd) l).map (c.src (c.uForm f).a)).sum := by
  have run : exec (.rsum t f) s = .next _ := issue_go _ s _ c h hc
  rw [if_neg (by simpa using ints)] at run
  exact tileInt_gives h run fun _ _ => foldl_add_eq_sum _ _

theorem extreme_gives {t : XType} {max : Bool} {i : Instr} {f : UForm} (run : exec i s = .next (s.tileInt c f fun a ls _ => c.extreme t max a ls)) :
    TileGives i s c (c.uForm f) fun l y => y = c.extreme t max (c.uForm f).a (c.contributing (c.act (c.uForm f).gd) l) :=
  tileInt_gives h run fun _ _ => rfl

theorem extreme_gives_least {α : Type} [LinearOrder α] {key : Word → α} {t : XType} {max : Bool} {i : Instr} {f : UForm}
    (run : exec i s = .next (s.tileInt c f fun a ls _ => c.extreme t max a ls)) (ints : t ≠ .f32) (least : PicksLeast key (xpick t max)) :
    TileGives i s c (c.uForm f) fun l y => (∃ j ∈ c.contributing (c.act (c.uForm f).gd) l, y = c.src (c.uForm f).a j) ∧
      ∀ j ∈ c.contributing (c.act (c.uForm f).gd) l, key y ≤ key (c.src (c.uForm f).a j) :=
  tileInt_gives h run fun _ own => extreme_least c _ ints least (List.ne_nil_of_mem own)

theorem exec_rmin {t : XType} {f : UForm} (hc : c.check (.rmin t f) = .go) :
    exec (.rmin t f) s = .next (s.tileInt c f fun a ls _ => c.extreme t false a ls) := issue_go _ s _ c h hc

theorem exec_rmax {t : XType} {f : UForm} (hc : c.check (.rmax t f) = .go) :
    exec (.rmax t f) s = .next (s.tileInt c f fun a ls _ => c.extreme t true a ls) := issue_go _ s _ c h hc

/-! ### The f32 sums (R215, R216) -/

theorem exec_psum_f32 {x : Bool} {f : UForm} (hc : c.check (.psum .f32 x f) = .go) :
    exec (.psum .f32 x f) s = .next (s.fpDone c (.psum .f32 x f) (c.uForm f).wb (c.uForm f).d (c.act (c.uForm f).gd)
      fun l => c.psumF x (c.uForm f).a (c.tileLanes (c.act (c.uForm f).gd) l) l) := by
  have run : exec (.psum .f32 x f) s = .next _ := issue_go _ s _ c h hc
  rwa [if_pos (beq_self_eq_true XType.f32)] at run

theorem exec_rsum_f32 {f : UForm} (hc : c.check (.rsum .f32 f) = .go) :
    exec (.rsum .f32 f) s = .next (s.fpDone c (.rsum .f32 f) (c.uForm f).wb (c.uForm f).d (c.act (c.uForm f).gd)
      (c.rsumF (c.uForm f).a (c.act (c.uForm f).gd))) := by
  have run : exec (.rsum .f32 f) s = .next _ := issue_go _ s _ c h hc
  rwa [if_pos (beq_self_eq_true XType.f32)] at run

end

/-- Settles O10: the integer forms by the value that each gives, the f32 sums by whether a flag that they raise is enabled. -/
theorem reductionResults : Obligations.ReductionResults := by
  intro s c f h
  exact ⟨fun t ints => ⟨fun x hc => psum_int_gives h ints hc, fun hc => rsum_int_gives h ints hc⟩,
    fun x hc => fpDone_adds h (exec_psum_f32 h hc), fun hc => fpDone_adds h (exec_rsum_f32 h hc),
    fun hc => extreme_gives_least h (exec_rmin h hc) (by decide) iminWord_least,
    fun hc => extreme_gives_least h (exec_rmax h hc) (by decide) imaxWord_least,
    fun hc => extreme_gives_least h (exec_rmin h hc) (by decide) nminWord_least,
    fun hc => extreme_gives_least h (exec_rmax h hc) (by decide) nmaxWord_least,
    fun hc => extreme_gives h (exec_rmin h hc), fun hc => extreme_gives h (exec_rmax h hc)⟩

end Sys2Proof.Machine
end

section
/-! PROOFS. Carries of integer beats: counts, entries, the pool, and CARRY_FULL (R337 to R341). -/

namespace Sys2Proof.Machine

/-! ### Slots of a team, and counts of a slot (R330, R338) -/

theorem Team.slot_setSlot_same (t : Team) {z : Nat} (hz : z < 4) (x : Slot) : ({ t with slots := t.slots.setIfInBounds z x } : Team).slot z = x := by
  simp [Team.slot, List.getD_eq_getElem?_getD, hz]

theorem Team.slot_setSlot_other (t : Team) {z j : Nat} (hj : j ≠ z) (x : Slot) :
    ({ t with slots := t.slots.setIfInBounds z x } : Team).slot j = t.slot j := by
  simp [Team.slot, List.getD_eq_getElem?_getD, Ne.symm hj]

/-- R338: the count of a cell's entry; 0 without one. -/
abbrev Slot.count (x : Slot) (n : Nat) : Int := x.counts.toList.getD n 0

/-- R338: a slot with the count of a cell replaced. -/
def Slot.setCount (x : Slot) (cell : Nat) (k : Int) : Slot := { x with counts := x.counts.setIfInBounds cell k }

theorem Slot.count_setCount_same (x : Slot) {cell : Nat} (hc : cell < 1024) (k : Int) : (x.setCount cell k).count cell = k := by
  simp [Slot.count, Slot.setCount, List.getD_eq_getElem?_getD, hc]

theorem Slot.count_setCount_other (x : Slot) {cell n : Nat} (hn : n ≠ cell) (k : Int) : (x.setCount cell k).count n = x.count n := by
  simp [Slot.count, Slot.setCount, List.getD_eq_getElem?_getD, Ne.symm hn]

/-- R338: between two slots only the count of a cell differs, which becomes `k`. -/
structure CountsTo (x y : Slot) (cell : Nat) (k : Int) : Prop where
  changed : y.count cell = k
  others : ∀ n, n ≠ cell → y.count n = x.count n
  cells : y.cells = x.cells
  bound : y.bound = x.bound

theorem Slot.setCount_countsTo (x : Slot) {cell : Nat} (hc : cell < 1024) (k : Int) : CountsTo x (x.setCount cell k) cell k :=
  ⟨x.count_setCount_same hc k, fun _ hm => x.count_setCount_other hm k, rfl, rfl⟩

/-! ### Elements of a tile (R330, R339) -/

/-- R339: between two memories only the 4-byte element at `a` differs, which gains `v` modulo 2^32. -/
structure AddsTo (m m' : Mem) (a : Nat) (v : Int) : Prop where
  element : (m'.num a 4 : Int) = (m.num a 4 + v) % 2 ^ 32
  others : ∀ b, b < a ∨ a + 4 ≤ b → m'.read b = m.read b

theorem addsTo_zero (m : Mem) (a : Nat) : AddsTo m m a 0 := by
  have below := m.num_lt a 4
  exact ⟨by omega, fun _ _ => rfl⟩

theorem tileAdd_addsTo {m : Mem} (wf : m.wf = true) (tile cell : Nat) (v : Int) :
    AddsTo m (tileAdd m tile cell v) (4096 * tile + 4 * cell) v := by
  refine ⟨?_, fun b outside => Mem.read_writeN_outside _ m _ b wf (by rwa [natLe_length])⟩
  rw [tileAdd, tileAt, Mem.num_writeN_natLe _ _ _ _ wf, unsignedOf]
  omega

/-! ### One carry (R338 to R341) -/

/-- R338 to R341: after a carry of a cell its count is `x`, its tile element has gained `folded` counts, the pool of its hall is `pool`, and
nothing else of the team and the hall differs. -/
def CarryBecomes (u : State) (ti z cell tile : Nat) (t : Team) (h : Hall) (x folded : Int) (pool : List PoolEntry) : Prop :=
  ∃ team, u.teams[ti]? = some team ∧ team = { t with slots := team.slots, tiles := team.tiles } ∧
    (team.slot z).count cell = x ∧ (∀ n, n ≠ cell → (team.slot z).count n = (t.slot z).count n) ∧
    (team.slot z).cells = (t.slot z).cells ∧ (team.slot z).bound = (t.slot z).bound ∧
    (team.tiles.num (4096 * tile + 4 * cell) 4 : Int) = (t.tiles.num (4096 * tile + 4 * cell) 4 + folded * 2 ^ 22) % 2 ^ 32 ∧
    (∀ a, a < 4096 * tile + 4 * cell ∨ 4096 * tile + 4 * cell + 4 ≤ a → team.tiles.read a = t.tiles.read a) ∧
    ∃ h', u.halls[t.hall]? = some h' ∧ h' = { h with pool := pool }

theorem carryBecomes_of {u : State} {ti z cell tile : Nat} {t team : Team} {h : Hall} {x folded : Int} {pool : List PoolEntry}
    (found : u.teams[ti]? = some team) (kept : team = { t with slots := team.slots, tiles := team.tiles })
    (counts : CountsTo (t.slot z) (team.slot z) cell x) (tiles : AddsTo t.tiles team.tiles (4096 * tile + 4 * cell) (folded * 2 ^ 22))
    (hall : u.halls[t.hall]? = some { h with pool := pool }) : CarryBecomes u ti z cell tile t h x folded pool :=
  ⟨team, found, kept, counts.changed, counts.others, counts.cells, counts.bound, tiles.element, tiles.others, _, hall, rfl⟩

/-- A carry that replaces the count of its cell. -/
theorem carryBecomes_setCount {u : State} {ti z cell tile : Nat} {t : Team} {h : Hall} {k folded : Int} {m : Mem} {pool : List PoolEntry}
    (hz : z < 4) (hc : cell < 1024)
    (found : u.teams[ti]? = some { t with slots := t.slots.setIfInBounds z ((t.slot z).setCount cell k), tiles := m })
    (tiles : AddsTo t.tiles m (4096 * tile + 4 * cell) (folded * 2 ^ 22)) (hall : u.halls[t.hall]? = some { h with pool := pool }) :
    CarryBecomes u ti z cell tile t h k folded pool := by
  refine carryBecomes_of found rfl ?_ tiles hall
  rw [Team.slot_setSlot_same { t with tiles := m } hz]
  exact (t.slot z).setCount_countsTo hc k

section
variable {s : State} {ti z cell tile : Nat} {kind : SlotKind} {v : Int} {t : Team} {h : Hall} (ht : s.teams[ti]? = some t)
include ht

/-- A carry that only replaces the count of its cell. -/
theorem takeCarry_counts (entry : (t.slot z).count cell ≠ 0) (stays : (t.slot z).count cell + v ≠ 0)
    (small : ((t.slot z).count cell + v).natAbs ≤ 127) :
    s.takeCarry ti z cell v = s.setSlot ti z ((t.slot z).setCount cell ((t.slot z).count cell + v)) := by
  simp only [State.takeCarry, ht]
  rw [if_pos (bne_iff_ne.mpr entry), if_neg (mt beq_iff_eq.mp stays), if_neg small.not_gt]
  rfl

theorem takeCarry_frees (entry : (t.slot z).count cell ≠ 0) (gone : (t.slot z).count cell + v = 0) : s.takeCarry ti z cell v =
    (s.setSlot ti z ((t.slot z).setCount cell 0)).dropPool t.hall fun e => e.team == ti && e.slot.val == z && e.cell == cell := by
  simp only [State.takeCarry, ht]
  rw [if_pos (bne_iff_ne.mpr entry), if_pos (beq_iff_eq.mpr gone)]
  rfl

theorem takeCarry_folds (bound : (t.slot z).bound = some (tile, kind)) (entry : (t.slot z).count cell ≠ 0)
    (large : 127 < ((t.slot z).count cell + v).natAbs) : s.takeCarry ti z cell v =
    (s.updTeam ti fun t' => { t' with tiles := tileAdd t'.tiles tile cell ((t.slot z).count cell * 2 ^ 22) }).setSlot ti z ((t.slot z).setCount cell v) := by
  have stays : (t.slot z).count cell + v ≠ 0 := by omega
  simp only [State.takeCarry, ht, bound, updTeam_get_same _ ht]
  rw [if_pos (bne_iff_ne.mpr entry), if_neg (mt beq_iff_eq.mp stays), if_pos large]
  rfl

theorem takeCarry_reserved (new : (t.slot z).count cell = 0) (reserved : z < t.hdr.reserve) :
    s.takeCarry ti z cell v = s.setSlot ti z ((t.slot z).setCount cell v) := by
  simp only [State.takeCarry, ht]
  rw [if_neg (mt bne_iff_ne.mp (not_not.mpr new)), if_pos (show t.reserved_ z = true from decide_eq_true reserved)]
  rfl

theorem takeCarry_unpooled (bound : (t.slot z).bound = some (tile, kind)) (new : (t.slot z).count cell = 0) (unreserved : t.hdr.reserve ≤ z)
    (size : s.poolSize t.hall = 0) :
    s.takeCarry ti z cell v = s.updTeam ti fun t => { t with tiles := tileAdd t.tiles tile cell (v * 2 ^ 22) } := by
  simp only [State.takeCarry, ht, bound]
  rw [if_neg (mt bne_iff_ne.mp (not_not.mpr new)), if_neg (by simpa [Team.reserved_] using unreserved), if_pos size]

theorem takeCarry_pooled (new : (t.slot z).count cell = 0) (unreserved : t.hdr.reserve ≤ z)
    (room : (s.pool t.hall).length < s.poolSize t.hall) :
    s.takeCarry ti z cell v = (s.setSlot ti z ((t.slot z).setCount cell v)).updHall t.hall fun h =>
      { h with pool := h.pool ++ [{ team := ti, slot := Fin.ofNat 4 z, cell := cell }] } := by
  have size : s.poolSize t.hall ≠ 0 := by omega
  simp only [State.takeCarry, ht]
  rw [if_neg (mt bne_iff_ne.mp (not_not.mpr new)), if_neg (by simpa [Team.reserved_] using unreserved), if_neg size]
  simp only [if_neg room.not_ge, ht]
  rfl

end

/-! ### The pool of a hall (R338) -/

theorem poolSize_eq (s : State) (hall : Nat) : s.poolSize hall =
    2048 - 1024 * ((s.teams.filter fun t' => t'.phase == .resident && t'.hall == hall).map fun t' => t'.hdr.reserve).sum := by
  rw [State.poolSize, List.sum_eq_foldl]

theorem pool_eq {s : State} {hall : Nat} {h : Hall} (hh : s.halls[hall]? = some h) : s.pool hall = h.pool := by
  rw [State.pool, hh, Option.map_some, Option.getD_some]

theorem isEntry_eq (e : PoolEntry) (ti cell : Nat) (z : BitVec 2) :
    (e.team == ti && e.slot.val == z.toNat && e.cell == cell) = (e == { team := ti, slot := z.toFin, cell := cell }) := by
  obtain ⟨team, slot, c⟩ := e
  rw [Bool.eq_iff_iff]
  simp [Fin.ext_iff, and_assoc]

/-- R338 to R341: one carry of a cell. -/
theorem takeCarry_becomes (s : State) (ti : Nat) (z : BitVec 2) (cell tile : Nat) (v : Int) (t : Team) (h : Hall) (ht : s.teams[ti]? = some t)
    (hh : s.halls[t.hall]? = some h) (bound : (t.slot z.toNat).bound = some (tile, .integer)) (hc : cell < 1024)
    (wf : t.tiles.wf = true) :
    let n := (t.slot z.toNat).count cell
    let becomes := CarryBecomes (s.takeCarry ti z.toNat cell v) ti z.toNat cell tile t h
    let mine : PoolEntry := { team := ti, slot := z.toFin, cell := cell }
    let size := s.poolSize t.hall
    (n ≠ 0 → n + v ≠ 0 → -127 ≤ n + v → n + v ≤ 127 → becomes (n + v) 0 h.pool) ∧
    (n ≠ 0 → n + v = 0 → becomes 0 0 (h.pool.filter fun e => e != mine)) ∧
    (n ≠ 0 → n + v < -127 ∨ 127 < n + v → becomes v n h.pool) ∧
    (n = 0 → z.toNat < t.hdr.reserve → becomes v 0 h.pool) ∧
    (n = 0 → t.hdr.reserve ≤ z.toNat → size = 0 → becomes 0 v h.pool) ∧
    (n = 0 → t.hdr.reserve ≤ z.toNat → h.pool.length < size → becomes v 0 (h.pool ++ [mine])) := by
  have same : AddsTo t.tiles t.tiles (4096 * tile + 4 * cell) (0 * 2 ^ 22) := by
    rw [Int.zero_mul]
    exact addsTo_zero t.tiles _
  have put : ∀ k : Int, (s.setSlot ti z.toNat ((t.slot z.toNat).setCount cell k)).teams[ti]? =
      some { t with slots := t.slots.setIfInBounds z.toNat ((t.slot z.toNat).setCount cell k) } := fun k => updTeam_get_same _ ht
  refine ⟨fun entry stays low high => ?_, fun entry gone => ?_, fun entry large => ?_, fun new reserved => ?_,
    fun new unreserved empty => ?_, fun new unreserved room => ?_⟩
  · rw [takeCarry_counts ht entry stays (by omega)]
    exact carryBecomes_setCount z.isLt hc (put _) same hh
  · rw [takeCarry_frees ht entry gone]
    refine carryBecomes_setCount z.isLt hc (put _) same ((updHall_get_same _ hh).trans ?_)
    simp only [isEntry_eq, bne]
  · rw [takeCarry_folds ht bound entry (by omega)]
    exact carryBecomes_setCount (m := tileAdd t.tiles tile cell ((t.slot z.toNat).count cell * 2 ^ 22)) z.isLt hc
      (updTeam_get_same _ (updTeam_get_same _ ht)) (tileAdd_addsTo wf tile cell _) hh
  · rw [takeCarry_reserved ht new reserved]
    exact carryBecomes_setCount z.isLt hc (put _) same hh
  · rw [takeCarry_unpooled ht bound new unreserved empty]
    exact carryBecomes_of (updTeam_get_same _ ht) rfl ⟨new, fun _ _ => rfl, rfl, rfl⟩ (tileAdd_addsTo wf tile cell _) hh
  · rw [takeCarry_pooled ht new unreserved (by rwa [pool_eq hh])]
    have slot : Fin.ofNat 4 z.toNat = z.toFin := Fin.ext (Nat.mod_eq_of_lt z.isLt)
    rw [slot]
    exact carryBecomes_setCount z.isLt hc (put _) same (updHall_get_same _ hh)

/-! ### Carries that find no entry (R337, R341) -/

theorem cellInt_eq (c : BitVec 64) : cellInt c = (c.extractLsb' 0 22).toInt := by
  rw [cellInt, ← signedOf_toInt, BitVec.extractLsb'_toNat, Nat.shiftRight_zero]
  simp [signedOf]

theorem carryOf_ne_zero (x : Int) : (carryOf x != 0) = (decide (x < -(2 ^ 21)) || decide (2 ^ 21 ≤ x)) := by
  rw [Bool.eq_iff_iff, bne_iff_ne, Bool.or_eq_true, decide_eq_true_eq, decide_eq_true_eq, carryOf]
  split
  · next above => exact ⟨fun _ => .inr above, fun _ => by decide⟩
  · split
    · next below => exact ⟨fun _ => .inl below, fun _ => by decide⟩
    · omega

/-- R337: the exact sum of a cell after an integer beat. -/
theorem intSums_getD (f : MmaFmt) (cells : Vector (BitVec 64) 1024) (a b : List Byte) {n : Nat} (hn : n < 1024) :
    (intSums f cells a b).toList.getD n 0 = ((cells.toList.getD n 0).extractLsb' 0 22).toInt +
      ((intElems f (opRow a (n / 32))).zip (intElems f (opRow b (n % 32)))).foldl (fun t x => t + x.1 * x.2) 0 := by
  have row : n / 32 < 32 := by omega
  have col : n % 32 < 32 := by omega
  rw [← cellInt_eq]
  simp [intSums, List.getD_eq_getElem?_getD, hn, row, col]

theorem carried_cells (g : Nat → Int) (l : List Nat) :
    ((l.map fun c => (c, g c)).filter fun y => y.2 != 0).map (fun y => y.1) = l.filter fun c => g c != 0 := by
  simp [List.filter_map, Function.comp_def]

/-- R337, R341: the cells whose carries of an integer beat need new entries. -/
def Who.newCarries (w : Who) (ch : Chain) (a b : List Byte) : List Nat :=
  (List.range 1024).filter fun n =>
    carryOf ((intSums ch.form.fmt (w.t.slot ch.form.slot.toNat).cells a b).toList.getD n 0) != 0 && (w.t.slot ch.form.slot.toNat).count n == 0

/-- R341: under TRAP, an integer beat whose new entries neither reserve nor pool can give raises CARRY_FULL. -/
theorem intStep_carryFull {s : State} {w : Who} {ch : Chain} {a b : List Byte} (tile : Nat) (trap : w.t.hdr.carryTrap = true)
    (unreserved : w.t.hdr.reserve ≤ ch.form.slot.toNat)
    (full : s.poolSize w.t.hall < (s.pool w.t.hall).length + (w.newCarries ch a b).length) :
    s.intStep w ch tile a b = .trap .carryFull (ch.form.slot.zeroExtend 32) 0 := by
  rw [State.intStep, if_pos]
  · rw [BitVec.ofNat_toNat]
  · have shut : w.t.reserved_ ch.form.slot.toNat = false := decide_eq_false unreserved.not_gt
    rw [carried_cells, trap, Bool.true_and, State.carriesFull, shut, List.filter_filter]
    simpa only [Who.newCarries, Bool.and_comm, Bool.not_false, Bool.true_and, decide_eq_true_eq] using full

theorem newCarries_eq (w : Who) (ch : Chain) (a b : List Byte) : w.newCarries ch a b = (List.range 1024).filter fun n =>
    let sum := ((((w.t.slot ch.form.slot.toNat).cells.toList.getD n 0).extractLsb' 0 22).toInt +
      ((intElems ch.form.fmt (opRow a (n / 32))).zip (intElems ch.form.fmt (opRow b (n % 32)))).foldl (fun t x => t + x.1 * x.2) 0)
    (sum < -(2 ^ 21) || 2 ^ 21 ≤ sum) && (w.t.slot ch.form.slot.toNat).counts.toList.getD n 0 == 0 := by
  refine List.filter_congr fun n hn => ?_
  rw [intSums_getD _ _ _ _ (List.mem_range.mp hn), carryOf_ne_zero]

/-! ### Beats by the kind of their format (R342) -/

theorem badBlock_integer {ch : Chain} (kind : mmaKind ch.form.fmt = .integer) (k : Nat) : ch.badBlock k = none := by
  have plain : mmaDescribed ch.form.fmt = false := by
    revert kind
    cases ch.form.fmt <;> decide
  simp [Chain.badBlock, plain]

theorem beatStep_integer (s : State) (w : Who) {ch : Chain} (kind : mmaKind ch.form.fmt = .integer) (tile k : Nat) :
    s.beatStep w ch tile k = s.intStep w ch tile (ch.operandBytes k 0) (ch.operandBytes k 1) := by
  rw [State.beatStep, badBlock_integer kind]
  dsimp only
  rw [if_pos (beq_iff_eq.mpr kind)]

theorem beatStep_float (s : State) (w : Who) {ch : Chain} (kind : mmaKind ch.form.fmt ≠ .integer) {k : Nat} (sound : ch.badBlock k = none) (tile : Nat) :
    s.beatStep w ch tile k = s.fltStep w ch tile k (ch.operandBytes k 0) (ch.operandBytes k 1) (ch.operandBytes k 2) := by
  rw [State.beatStep, sound]
  dsimp only
  rw [if_neg (mt beq_iff_eq.mp kind)]

end Sys2Proof.Machine
end

section
/-! PROOFS. Float beats: exact sums of products, one rounding for each, and their flags (R200, R204, R327, R333 to R336, R353). -/

namespace Sys2Proof.Machine

/-! ### Exact sums under way (R333) -/

@[simp] theorem Partial.add_invalid (rdn : Bool) (p : Partial) (x : Pre) : (p.add rdn x).invalid = (p.invalid || x.2 != 0) := by
  unfold Partial.add
  split <;> rfl

@[simp] theorem Partial.add_nan (rdn : Bool) (p : Partial) (x : Pre) : (p.add rdn x).nan = (p.nan || .nan == x.1) := by
  obtain ⟨v, fl⟩ := x
  rcases v with _ | (_ | _) | _ | _ <;> simp [Partial.add]

@[simp] theorem Partial.add_pos (rdn : Bool) (p : Partial) (x : Pre) : (p.add rdn x).pos = (p.pos || .inf false == x.1) := by
  obtain ⟨v, fl⟩ := x
  rcases v with _ | (_ | _) | _ | _ <;> simp [Partial.add]

@[simp] theorem Partial.add_neg (rdn : Bool) (p : Partial) (x : Pre) : (p.add rdn x).neg = (p.neg || .inf true == x.1) := by
  obtain ⟨v, fl⟩ := x
  rcases v with _ | (_ | _) | _ | _ <;> simp [Partial.add]

/-- R333: the products and sums seen are finite. -/
def Ext.Finite (x : Ext) : Prop := x ≠ .nan ∧ x ≠ .inf false ∧ x ≠ .inf true

theorem Partial.add_sum (rdn : Bool) (p : Partial) {x : Pre} (fin : x.1.Finite) :
    (p.add rdn x).sum = some ((p.sum.map fun z => (Ext.add rdn z x.1).1).getD x.1) := by
  obtain ⟨v, fl⟩ := x
  obtain ⟨nan, pos, neg⟩ := fin
  unfold Partial.add
  split
  · exact absurd ‹_› nan
  · exact absurd ‹_› neg
  · exact absurd ‹_› pos
  · cases p.sum <;> rfl

/-- R333: the exact sum of some addends. -/
def Partial.sumOf (rdn : Bool) (xs : List Pre) : Partial := xs.foldl (Partial.add rdn) Partial.start

theorem foldl_add_flags (rdn : Bool) (xs : List Pre) (p : Partial) :
    (xs.foldl (Partial.add rdn) p).invalid = (p.invalid || xs.any fun y => y.2 != 0) ∧
    (xs.foldl (Partial.add rdn) p).nan = (p.nan || (xs.map Prod.fst).contains .nan) ∧
    (xs.foldl (Partial.add rdn) p).pos = (p.pos || (xs.map Prod.fst).contains (.inf false)) ∧
    (xs.foldl (Partial.add rdn) p).neg = (p.neg || (xs.map Prod.fst).contains (.inf true)) := by
  induction xs generalizing p with
  | nil => simp
  | cons x xs ih =>
    obtain ⟨invalid, nan, pos, neg⟩ := ih (p.add rdn x)
    rw [List.foldl_cons, invalid, nan, pos, neg]
    simp only [Partial.add_invalid, Partial.add_nan, Partial.add_pos, Partial.add_neg, List.any_cons, List.map_cons, List.contains_cons,
      Bool.or_assoc, and_self]

theorem sumOf_flags (rdn : Bool) (xs : List Pre) :
    (Partial.sumOf rdn xs).invalid = (xs.any fun y => y.2 != 0) ∧ (Partial.sumOf rdn xs).nan = (xs.map Prod.fst).contains .nan ∧
    (Partial.sumOf rdn xs).pos = (xs.map Prod.fst).contains (.inf false) ∧ (Partial.sumOf rdn xs).neg = (xs.map Prod.fst).contains (.inf true) :=
  foldl_add_flags rdn xs Partial.start

theorem foldl_add_sum (rdn : Bool) (xs : List Pre) (p : Partial) {z : Ext} (sum : p.sum = some z) (fin : ∀ x ∈ xs, x.1.Finite) :
    (xs.foldl (Partial.add rdn) p).sum = some ((xs.map Prod.fst).foldl (fun z v => (Ext.add rdn z v).1) z) := by
  induction xs generalizing p z with
  | nil => exact sum
  | cons x xs ih =>
    obtain ⟨finX, fin⟩ := List.forall_mem_cons.mp fin
    refine ih (p.add rdn x) ?_ fin
    rw [Partial.add_sum rdn p finX, sum]
    rfl

theorem sumOf_sum (rdn : Bool) {xs : List Pre} (fin : ∀ x ∈ xs, x.1.Finite) : (Partial.sumOf rdn xs).sum = match xs.map Prod.fst with
    | [] => none
    | y :: ys => some (ys.foldl (fun z v => (Ext.add rdn z v).1) y) := by
  cases xs with
  | nil => rfl
  | cons x xs =>
    obtain ⟨finX, fin⟩ := List.forall_mem_cons.mp fin
    exact foldl_add_sum rdn xs _ (Partial.add_sum rdn Partial.start finX) fin

/-! ### One rounding (R200, R333, R334) -/

/-- R212, R333: the exact products of some pairs, with the flags of their forming. -/
def products (pairs : List (Pre × Ext)) : List Pre := pairs.map fun p => ((p.1.1.mul p.2).1, (p.1.1.mul p.2).2 ||| p.1.2)

/-- R333, R334: an accumulator and the scaled sum of exact products, rounded once. -/
def roundOnce (acc : Fmt) (mode : RMode) (r : Nat) (c : Ext) (pairs : List (Pre × Ext)) (scale : Int) : Rounded :=
  let prods := products pairs
  let vals := prods.map Prod.fst ++ [c]
  if prods.any (fun y => y.2 != 0) || (vals.contains (.inf false) && vals.contains (.inf true)) then { code := acc.nanCode, flags := flagInvalid }
  else if vals.contains .nan then { code := acc.nanCode, flags := 0 }
  else if vals.contains (.inf false) then acc.round mode r (.inf false)
  else if vals.contains (.inf true) then acc.round mode r (.inf true)
  else acc.round mode r (match prods.map Prod.fst with
    | [] => c
    | y :: ys => (Ext.add (mode == .rdn) ((ys.foldl (fun z v => (Ext.add (mode == .rdn) z v).1) y).scale scale) c).1)

/-- R333, R334: the partial of a half: the sum of its products, scaled. -/
def halfPartial (rdn : Bool) (h : List (Pre × Ext) × Int) : Partial := (Partial.sumOf rdn (products h.1)).scale h.2

theorem round_nan {acc : Fmt} (wide : acc ≠ .e2m1) (mode : RMode) (r : Nat) : acc.round mode r .nan = { code := acc.nanCode, flags := 0 } := by
  rw [Fmt.round, if_neg (mt beq_iff_eq.mp wide)]

/-- R333: what a half and an accumulator have seen of specials. -/
theorem halfPartial_add_flags (rdn : Bool) (h : List (Pre × Ext) × Int) (c : Ext) :
    let q := (halfPartial rdn h).add rdn (c, 0)
    let vals := (products h.1).map Prod.fst ++ [c]
    q.invalid = (products h.1).any (fun y => y.2 != 0) ∧ q.nan = vals.contains .nan ∧ q.pos = vals.contains (.inf false) ∧
      q.neg = vals.contains (.inf true) := by
  obtain ⟨invalid, nan, pos, neg⟩ := sumOf_flags rdn (products h.1)
  simp only [Partial.add_invalid, Partial.add_nan, Partial.add_pos, Partial.add_neg, halfPartial, Partial.scale, invalid, nan, pos, neg,
    List.contains_append, List.contains_cons, List.contains_nil, bne_self_eq_false, Bool.or_false, and_self]

theorem Ext.finite_of_not_contains {vals : List Ext} (nan : vals.contains .nan = false) (pos : vals.contains (.inf false) = false)
    (neg : vals.contains (.inf true) = false) {x : Ext} (mem : x ∈ vals) : x.Finite := by
  have absent : ∀ {y : Ext}, vals.contains y = false → x ≠ y := fun none_ same =>
    Bool.false_ne_true (none_.symm.trans (List.contains_iff_mem.mpr (same ▸ mem)))
  exact ⟨absent nan, absent pos, absent neg⟩

/-- R333, R334: without specials, the exact sum of a half and an accumulator. -/
theorem halfPartial_add_sum (rdn : Bool) (h : List (Pre × Ext) × Int) (c : Ext)
    (fin : ∀ x ∈ (products h.1).map Prod.fst ++ [c], x.Finite) :
    ((halfPartial rdn h).add rdn (c, 0)).sum = some (match (products h.1).map Prod.fst with
      | [] => c
      | y :: ys => (Ext.add rdn ((ys.foldl (fun z v => (Ext.add rdn z v).1) y).scale h.2) c).1) := by
  have finC : c.Finite := fin c (List.mem_append_right _ (List.mem_singleton_self c))
  have finP : ∀ x ∈ products h.1, x.1.Finite := fun x hx => fin _ (List.mem_append_left _ (List.mem_map_of_mem hx))
  rw [Partial.add_sum rdn _ finC, halfPartial, Partial.scale, sumOf_sum rdn finP]
  cases (products h.1).map Prod.fst <;> rfl

/-- R333, R334: accumulating the partial of a half is one rounding. -/
theorem accumulate_eq {acc : Fmt} (wide : acc ≠ .e2m1) (mode : RMode) (r c : Nat) (h : List (Pre × Ext) × Int) :
    accumulate acc mode r c (halfPartial (mode == .rdn) h) = roundOnce acc mode r (acc.decode c) h.1 h.2 := by
  obtain ⟨invalid, nan, pos, neg⟩ := halfPartial_add_flags (mode == .rdn) h (acc.decode c)
  rw [accumulate, roundOnce, Partial.value, invalid, nan, pos, neg]
  split_ifs with forbidden isNan isPos isNeg
  · rw [round_nan wide]
    exact congrArg (Rounded.mk _) BitVec.zero_or
  · rw [round_nan wide]
    exact congrArg (Rounded.mk _) BitVec.or_zero
  · exact congrArg (Rounded.mk _) BitVec.or_zero
  · exact congrArg (Rounded.mk _) BitVec.or_zero
  · have fin := fun x => Ext.finite_of_not_contains (x := x) (Bool.eq_false_of_not_eq_true isNan) (Bool.eq_false_of_not_eq_true isPos)
      (Bool.eq_false_of_not_eq_true isNeg)
    rw [halfPartial_add_sum _ _ _ fin]
    exact congrArg (Rounded.mk _) BitVec.or_zero

/-! ### Bytes of operands (R327) -/

theorem bytesAt_bytesAt (l : List Byte) (o p : Nat) {n m : Nat} (inside : p + m ≤ n) : bytesAt (bytesAt l o n) p m = bytesAt l (o + p) m := by
  refine List.map_congr_left fun i hi => ?_
  have within_ : p + i < n := by
    have := List.mem_range.mp hi
    omega
  simp [bytesAt, List.getD_eq_getElem?_getD, within_, Nat.add_assoc]

/-- R327: element `e` of row `i` of an operand of 32 rows. -/
theorem fieldAt_opRow {bs : List Byte} {size depth : Nat} (bytes : bs.length = 32 * (size * depth)) (i : Nat) {e : Nat} (he : e < depth) :
    fieldAt (opRow bs i) (size * e) size = fieldAt bs (i * (size * depth) + e * size) size := by
  have row : bs.length / 32 = size * depth := by omega
  have inside : size * e + size ≤ size * depth := Nat.mul_le_mul_left size he
  rw [fieldAt, opRow, row, bytesAt_bytesAt _ _ _ inside, Nat.mul_comm e size, fieldAt]

/-! ### The halves of a cell (R327, R334, R335) -/

/-- R327: the pairs that a cell of a plain float format multiplies, whose elements have `size` bytes. -/
def plainHalf (f : Fmt) (size depth : Nat) (a b : List Byte) (i j : Nat) : List (Pre × Ext) × Int :=
  ((List.range depth).map fun e =>
    ((f.decode (fieldAt a (i * (size * depth) + e * size) size), 0), f.decode (fieldAt b (j * (size * depth) + e * size) size)), 0)

/-- R334: the pairs that a cell multiplies of a block of A with the elements `elems` and a block of B, and their scale. -/
def blockHalf (p : List Byte) (elems : List Pre) (q : List Byte) : List (Pre × Ext) × Int :=
  if blockFmt p = 0 ∨ blockFmt q = 0 then ([((.zero false, 0), .fin false 1 0)], 0)
  else (elems.zip (blockElems q), (fieldAt p 1 1 : Int) - 127 + ((fieldAt q 1 1 : Int) - 127))

/-- R327, R334, R335: the halves of a cell, each with its scale; one but for a 2:4 beat. -/
def cellHalves (f : MmaFmt) (rdn : Bool) (a b x : List Byte) (i j : Nat) : List (List (Pre × Ext) × Int) :=
  match f with
  | .fp64 => [plainHalf .fp64 8 2 a b i j]
  | .fp32 => [plainHalf .fp32 4 8 a b i j]
  | .fp16 => [plainHalf .fp16 2 32 a b i j]
  | .bf16 => [plainHalf .bf16 2 32 a b i j]
  | .blk => [blockHalf (bytesAt a (64 * i) 64) (pres (blockElems (bytesAt a (64 * i) 64))) (bytesAt b (64 * j) 64)]
  | .blk24 =>
    let p := bytesAt a (64 * i) 64
    let l := logical24 rdn p (bytesAt x (64 * (i / 2)) 64) (i % 2)
    [blockHalf p (l.take (l.length / 2)) (bytesAt b (128 * j) 64), blockHalf p (l.drop (l.length / 2)) (bytesAt b (128 * j + 64) 64)]
  | _ => []

/-- R333: the sum of products of elements, of which those of B were formed without flags. -/
theorem dotPartial_pres (rdn : Bool) (elems : List Pre) (es : List Ext) :
    dotPartial rdn elems (pres es) = Partial.sumOf rdn (products (elems.zip es)) := by
  rw [dotPartial, pres, List.zip_map_right, List.foldl_map, Partial.sumOf, products, List.foldl_map]
  congr 1
  funext p x
  exact congrArg (fun fl => p.add rdn (_, fl)) BitVec.or_zero

theorem Partial.scale_zero (p : Partial) : p.scale 0 = p := by
  have same : ∀ x : Ext, x.scale 0 = x := by
    intro x
    cases x <;> simp [Ext.scale]
  simp [Partial.scale, same]

theorem plain_partial (rdn : Bool) {f : Fmt} {size depth : Nat} {a b : List Byte} (rows : a.length = 32 * (size * depth))
    (cols : b.length = 32 * (size * depth)) (i j : Nat) :
    dotPartial rdn (pres ((List.range depth).map fun k => f.decode (fieldAt (opRow a i) (size * k) size)))
      (pres ((List.range depth).map fun k => f.decode (fieldAt (opRow b j) (size * k) size))) = halfPartial rdn (plainHalf f size depth a b i j) := by
  rw [dotPartial_pres, halfPartial, plainHalf, Partial.scale_zero, pres, List.map_map, List.zip_map']
  congr 2
  refine List.map_congr_left fun e he => ?_
  have he := List.mem_range.mp he
  rw [Function.comp_apply, fieldAt_opRow rows i he, fieldAt_opRow cols j he]

theorem void_partial (rdn : Bool) : halfPartial rdn ([((.zero false, 0), .fin false 1 0)], 0) = Partial.void := by
  cases rdn <;> rfl

theorem block_partial (rdn : Bool) (p q : List Byte) (elems : List Pre) :
    (if blockFmt p == 0 || blockFmt q == 0 then Partial.void
      else (dotPartial rdn elems (pres (blockElems q))).scale (blockScale p + blockScale q)) = halfPartial rdn (blockHalf p elems q) := by
  by_cases void : blockFmt p = 0 ∨ blockFmt q = 0
  · rw [blockHalf, if_pos void, if_pos (by simpa using void), void_partial]
  · rw [blockHalf, if_neg void, if_neg (by simpa using void), dotPartial_pres]
    rfl

theorem getD_map_range {α : Type} (g : Nat → α) (d : α) {n i : Nat} (h : i < n) : ((List.range n).map g).getD i d = g i := by
  simp [List.getD_eq_getElem?_getD, h]

/-- R333 to R335: the partials of a cell are those of its halves. -/
theorem cellPartials_eq {f : MmaFmt} (float : mmaKind f ≠ .integer) (rdn : Bool) {a b : List Byte} (x : List Byte) (rows : a.length = aBytes f)
    (cols : b.length = bBytes f) {i j : Nat} (hi : i < 32) (hj : j < 32) :
    cellPartials f rdn (floatRows f rdn a x) (floatCols f b) i j = (cellHalves f rdn a b x i j).map (halfPartial rdn) := by
  simp only [cellPartials, floatRows, floatCols, getD_map_range _ _ hi, getD_map_range _ _ hj]
  cases f with
  | int8 | int4 => exact absurd rfl float
  | fp64 | fp32 | fp16 | bf16 => exact congrArg (fun p => [p]) (plain_partial rdn rows cols i j)
  | blk => exact congrArg (fun p => [p]) (block_partial rdn _ _ _)
  | blk24 => exact congrArg₂ (fun p q => [p, q]) (block_partial rdn _ _ _) (block_partial rdn _ _ _)

/-! ### A beat (R333 to R336, R353) -/

/-- R333 to R335, R353: a cell after a float beat, with the flags of its roundings. -/
def beatCell (ch : Chain) (k : Nat) (slot : Slot) (n : Nat) : Rounded :=
  let acc : Fmt := if ch.form.fmt = .fp64 then .fp64 else .fp32
  let mode := RMode.ofCode ch.rnd
  (cellHalves ch.form.fmt (mode == .rdn) (ch.operandBytes k 0) (ch.operandBytes k 1) (ch.operandBytes k 2) (n / 32) (n % 32)).zipIdx.foldl
    (fun r h =>
      let y := roundOnce acc mode (srbits ch.seed ch.retire (n % 32) (32 * (2 * k + h.2) + n / 32)) (acc.decode r.code) h.1.1 h.1.2
      { code := y.code, flags := r.flags ||| y.flags })
    { code := (slot.cells.toList.getD n 0).toNat, flags := 0 }

/-- R336: the flags of all cells of a float beat. -/
def beatFlags (ch : Chain) (k : Nat) (slot : Slot) : FpFlags := (List.range 1024).foldl (fun fl n => fl ||| (beatCell ch k slot n).flags) 0

theorem floatCell_eq {acc : Fmt} (wide : acc ≠ .e2m1) (mode : RMode) (seed : Word) (retire : DWord) (k i j c : Nat)
    (hs : List (List (Pre × Ext) × Int)) : floatCell acc mode seed retire k i j c (hs.map (halfPartial (mode == .rdn))) =
      hs.zipIdx.foldl (fun r h =>
        let y := roundOnce acc mode (srbits seed retire j (32 * (2 * k + h.2) + i)) (acc.decode r.code) h.1.1 h.1.2
        { code := y.code, flags := r.flags ||| y.flags }) { code := c, flags := 0 } := by
  rw [floatCell, List.zipIdx_map, List.foldl_map]
  simp only [Prod.map_apply', accumulate_eq wide, id]

/-- R336: the flags of the cells of a beat, joined in their order. -/
theorem foldl_ofFn {α β : Type} {n : Nat} (g : Nat → α) (join : β → α → β) (z : β) :
    (Vector.ofFn fun i : Fin n => g i.val).toList.foldl join z = (List.range n).foldl (fun y i => join y (g i)) z := by
  rw [Vector.toList_ofFn, List.ofFn_eq_map, ← List.map_coe_finRange_eq_range, List.foldl_map, List.foldl_map]

theorem floatStep_eq {ch : Chain} {k : Nat} (slot : Slot) (float : mmaKind ch.form.fmt ≠ .integer)
    (rows : (ch.operandBytes k 0).length = aBytes ch.form.fmt) (cols : (ch.operandBytes k 1).length = bBytes ch.form.fmt) :
    floatStep ch.form.fmt (RMode.ofCode ch.rnd) ch.seed ch.retire k slot.cells (ch.operandBytes k 0) (ch.operandBytes k 1) (ch.operandBytes k 2) =
      (Vector.ofFn fun n => BitVec.ofNat 64 (beatCell ch k slot n.val).code, beatFlags ch k slot) := by
  have wide : (if ch.form.fmt = .fp64 then Fmt.fp64 else Fmt.fp32) ≠ .e2m1 := by
    split <;> decide
  have cell : ∀ n : Fin 1024, floatCell (if ch.form.fmt = .fp64 then .fp64 else .fp32) (RMode.ofCode ch.rnd) ch.seed ch.retire k (n.val / 32) (n.val % 32)
      slot.cells[n].toNat (cellPartials ch.form.fmt (RMode.ofCode ch.rnd == .rdn)
        (floatRows ch.form.fmt (RMode.ofCode ch.rnd == .rdn) (ch.operandBytes k 0) (ch.operandBytes k 2))
        (floatCols ch.form.fmt (ch.operandBytes k 1)) (n.val / 32) (n.val % 32)) = beatCell ch k slot n.val := by
    intro n
    have old : slot.cells[n] = slot.cells.toList.getD n.val 0 := by
      simp [List.getD_eq_getElem?_getD]
    rw [cellPartials_eq float _ _ rows cols (by omega) (by omega), floatCell_eq wide, old]
    rfl
  simp only [floatStep, beq_iff_eq, cell]
  rw [foldl_ofFn (beatCell ch k slot) (fun fl r => fl ||| r.flags), Vector.map_ofFn]
  rfl

theorem fltStep_traps {s : State} {w : Who} {ch : Chain} {tile k : Nat} (float : mmaKind ch.form.fmt ≠ .integer)
    (rows : (ch.operandBytes k 0).length = aBytes ch.form.fmt) (cols : (ch.operandBytes k 1).length = bBytes ch.form.fmt)
    (loud : beatFlags ch k (w.t.slot ch.form.slot.toNat) &&& ch.trapEn ≠ 0) :
    s.fltStep w ch tile k (ch.operandBytes k 0) (ch.operandBytes k 1) (ch.operandBytes k 2) =
      .trap .arith ((beatFlags ch k (w.t.slot ch.form.slot.toNat)).zeroExtend 32) 0 := by
  rw [State.fltStep, floatStep_eq _ float rows cols, if_pos (bne_iff_ne.mpr loud), BitVec.ofNat_toNat]

/-- R336, R353: a float beat without an enabled flag writes its slot's cells and joins its flags to FPFLAGS. -/
theorem fltStep_done {s : State} {w : Who} {ch : Chain} {tile k : Nat} {t : Team} (float : mmaKind ch.form.fmt ≠ .integer)
    (rows : (ch.operandBytes k 0).length = aBytes ch.form.fmt) (cols : (ch.operandBytes k 1).length = bBytes ch.form.fmt)
    (ht : s.teams[w.g.team]? = some t)
    (quiet : beatFlags ch k (w.t.slot ch.form.slot.toNat) &&& ch.trapEn = 0) :
    ∃ u team, s.fltStep w ch tile k (ch.operandBytes k 0) (ch.operandBytes k 1) (ch.operandBytes k 2) = .done u ∧ u.mem = s.mem ∧
      u.teams[w.g.team]? = some team ∧ team = { t with slots := team.slots } ∧
      (∀ z : BitVec 2, z ≠ ch.form.slot → team.slot z.toNat = t.slot z.toNat) ∧
      (team.slot ch.form.slot.toNat).bound = some (tile, mmaKind ch.form.fmt) ∧
      (∀ n, n < 1024 → (team.slot ch.form.slot.toNat).cells.toList.getD n 0 = BitVec.ofNat 64 (beatCell ch k (w.t.slot ch.form.slot.toNat) n).code) ∧
      ∀ g, s.groups[w.gi]? = some g → ∃ g', u.groups[w.gi]? = some g' ∧
        g'.ctrl = { g.ctrl with fpFlags := g.ctrl.fpFlags ||| beatFlags ch k (w.t.slot ch.form.slot.toNat) } := by
  rw [State.fltStep, floatStep_eq _ float rows cols, if_neg (by simpa using quiet)]
  generalize beatFlags ch k (w.t.slot ch.form.slot.toNat) = fl
  refine ⟨_, _, rfl, rfl, updTeam_get_same _ ht, rfl, fun z other => ?_, ?_, fun n hn => ?_, fun g hg => ?_⟩
  · exact Team.slot_setSlot_other t (mt BitVec.eq_of_toNat_eq other) _
  · rw [Team.slot_setSlot_same t ch.form.slot.isLt]
  · rw [Team.slot_setSlot_same t ch.form.slot.isLt]
    simp [List.getD_eq_getElem?_getD, hn]
  · have found : ∀ x, (s.setSlot w.g.team ch.form.slot.toNat x).groups[w.gi]? = some g := fun _ => hg
    rw [updGroup_get_same, found, Option.map_some]
    exact ⟨_, rfl, rfl⟩

/-- Settles O60: a float beat by whether a flag of its cells is enabled, a carry by its cell's count and its slot, and an integer beat under TRAP by
the entries that its carries need. -/
theorem beatResults : Obligations.BeatResults := by
  refine ⟨fun s w ch tile k t float sound ht _ => ?_, fun s ti z cell tile v t h ht hh bound hc _ wf => ?_, fun s w ch tile k kind trap => ?_⟩
  · intro a b x rows cols acc mode once plain block halves old cell flags
    rw [beatStep_float s w float sound]
    have cell_eq : cell = beatCell ch k (w.t.slot ch.form.slot.toNat) := rfl
    have flags_eq : flags = beatFlags ch k (w.t.slot ch.form.slot.toNat) := rfl
    rw [flags_eq, cell_eq]
    exact ⟨fltStep_traps float rows cols, fltStep_done float rows cols ht⟩
  · have carried := takeCarry_becomes s ti z cell tile v t h ht hh bound hc wf
    rw [poolSize_eq] at carried
    exact carried
  · intro row col sum needs unreserved full
    rw [beatStep_integer s w kind]
    refine intStep_carryFull tile trap unreserved ?_
    rw [newCarries_eq]
    exact full

end Sys2Proof.Machine
end
